-- ==== Sys2Proof/Word.lean ====
section
/-!
DEFINITION. The word types of the Velgon 940 (spec/00 R10, spec/05 R93) and the shortest helpers on them.
-/

namespace Sys2Proof

/-- A byte (R10). -/
abbrev Byte := BitVec 8
/-- A scalar register, an address, a doubleword (R10, R93). -/
abbrev Word := BitVec 64
/-- An instruction word (R58). -/
abbrev Insn := BitVec 32
/-- A vector register (R93, R95). -/
abbrev Vec := BitVec 256
/-- A predicate register or a lane mask (R93, R96). -/
abbrev Mask := BitVec 32
/-- A five-bit register field (R59, R61). -/
abbrev R5 := BitVec 5

/-- The scalar word of a natural number, mod 2^64. -/
abbrev w64 (n : Nat) : Word := BitVec.ofNat 64 n

end Sys2Proof
end

