-- ==== Sys2Proof/Syntax.lean ====
section
/-!
DEFINITION. The instructions and events of the Velgon 940: one constructor of `Instr` for each row of
spec/opcode_table.json, with the shared field codes of spec/03 R62, R63, R67 to R70 as small inductives.
-/

namespace Sys2Proof

/-- Element types (R62). -/
inductive ElemTy where
  | i8 | i16 | i32 | i64 | n8 | n16 | n32 | n64 | f64 | f32 | f16 | bf16 | e4m3 | e5m2 | e2m1
  deriving DecidableEq, Repr

/-- Floating-point formats (R111). -/
inductive Fmt where
  | f64 | f32 | f16 | bf16 | e4m3 | e5m2 | e2m1
  deriving DecidableEq, Repr

/-- Rounding codes of an instruction (R63). -/
inductive Rm where
  | rne | rtz | rdn | rup | sr | dyn
  deriving DecidableEq, Repr

/-- Scope codes (R31). -/
inductive Scope where
  | pipe | quad | cluster | die | device | domain | system | rect
  deriving DecidableEq, Repr

/-- Atomic orders (R69). -/
inductive Ord where
  | rlx | acq | rel | ar
  deriving DecidableEq, Repr

/-- Cache hints (R68): they change no result and no ordering. -/
inductive Hint where
  | none | na1 | ef
  deriving DecidableEq, Repr

/-- Fused sizes 8, 16 and 32 (R38, R66). -/
inductive FSize where
  | f8 | f16 | f32
  deriving DecidableEq, Repr

/-- VLOG operations (R157). -/
inductive LogOp where
  | and | or | xor | andn
  deriving DecidableEq, Repr

/-- Reduction operations of VRED, LRED and LSCAN (R166, R173). -/
inductive RedOp where
  | add | min | max
  deriving DecidableEq, Repr

/-- VOTE kinds (R174). -/
inductive VoteKind where
  | any | all | ballot | count
  deriving DecidableEq, Repr

/-- FSGN operations (R151). -/
inductive SgnOp where
  | copy | neg | xor
  deriving DecidableEq, Repr

/-- FCMP relations (R152). -/
inductive CmpOp where
  | eq | lt | le | un
  deriving DecidableEq, Repr

/-- KALU operations (R183). -/
inductive KOp where
  | add | sub | and | or | xor | sll | srl | sra | mul | slt | sltu | min | max
  deriving DecidableEq, Repr

/-- KBR conditions (R185). -/
inductive KCond where
  | eqz | nez | ltz | gez | gtz | lez
  deriving DecidableEq, Repr

/-- QLOG operations (R187). -/
inductive QOp where
  | and | or | xor | andn | not
  deriving DecidableEq, Repr

/-- Special functions (R128). -/
inductive SfuOp where
  | exp2 | log2 | rcp | rsq | sin | cos
  deriving DecidableEq, Repr

/-- Matrix operand types (R211). -/
inductive MType where
  | e4m3 | e5m2 | e2m1 | f16 | bf16 | i8
  deriving DecidableEq, Repr

/-- Port directions (R227, R232). -/
inductive Dir where
  | n | e | s | w
  deriving DecidableEq, Repr

/-- Port topologies (R108). -/
inductive Topo where
  | off | lane | cluster | die
  deriving DecidableEq, Repr

/-- A matrix A operand of MMA (R211): a fragment base v0, v8 or v16, or a K-step of the own ab buffer. -/
inductive ASel where
  | regs (base8 : Fin 3)
  | kstep (k : BitVec 2)
  deriving DecidableEq, Repr

/-- A matrix B operand (R211): a fragment base, or a bb buffer. -/
inductive BSel where
  | regs (base8 : Fin 3)
  | buf (n : BitVec 2)
  deriving DecidableEq, Repr

/-- A location in the address space as a leaf entry or a window names it (R264, R265). -/
inductive Space where
  | dev | peer (d : Nat) | host | pcie
  deriving DecidableEq, Repr

/-- What a COMPLETION_EVENT completes (R72): the oldest pending store flag of a thread, or the acceptance
of the head command of a thread's FIFO by its engine (R305). -/
inductive Completion where
  | storeDone (wg t : Nat)
  | accept (wg t : Nat)
  deriving DecidableEq, Repr

/-- A place on the scoreboard (R76). -/
inductive RegName where
  | s (r : R5) | v (r : R5) | q (r : R5) | k (r : R5)
  deriving DecidableEq, Repr

/-- A 256-byte flit of the Eweaz link (R410, R411). -/
structure Flit where
  hdr : BitVec 64
  payload : List Byte
  crc : BitVec 32
  deriving DecidableEq, Repr

/-- The part that a rank on another device takes in a collective (R327, R328), as it reaches this device. -/
structure RemotePart where
  rank : Nat
  /-- its place in the count of its group and rank -/
  seq : Nat
  op : Nat
  p : Nat
  n : Nat
  ty : Nat
  oper : Nat
  root : Nat
  chunk : Nat
  ranks : List Nat
  data : List Byte
  failed : Bool
  deriving DecidableEq, Repr

/-- What a soft error perturbs (R304, R414). -/
inductive SoftErr where
  | credit (port vc : Nat) (up : Bool)
  | sent (port vc value : Nat)
  | corrected
  | uncorrectable (sector : Nat)
  | silent (addr : Nat) (flip : Byte)
  | sramUncorrectable (cluster sector : Nat)
  | sramSilent (cluster addr : Nat) (flip : Byte)
  deriving DecidableEq, Repr

/-- A host access's target (R404): a base address register and an offset in it. -/
inductive HostTarget where
  | bar0 (off : Nat)
  | bar2 (off : Nat)
  deriving DecidableEq, Repr

/-- PCIe AtomicOps (R403). -/
inductive HostAtom where
  | fetchAdd | swap | cas
  deriving DecidableEq, Repr

/-- A firmware stage as it stands at boot (R416). -/
structure FwStage where
  image : List Byte
  signature : List Byte
  version : Nat
  deriving DecidableEq, Repr

/-- A code object presented for verification (R92): its context, the physical address of the copy, its size
and the virtual address at which each section is to be mapped. -/
structure ObjPresent where
  ctx : Nat
  pa : Nat
  size : Nat
  vas : List Nat
  deriving DecidableEq, Repr

/-- The instructions and events, in the order of spec/opcode_table.json. Register fields keep the width of the
word; operation codes are constructors of the types above. -/
inductive Instr where
  -- OPR (R134)
  | add (w : Bool) (rd ra rb : R5)
  | sub (w : Bool) (rd ra rb : R5)
  | and (w : Bool) (rd ra rb : R5)
  | or (w : Bool) (rd ra rb : R5)
  | xor (w : Bool) (rd ra rb : R5)
  | sll (w : Bool) (rd ra rb : R5)
  | srl (w : Bool) (rd ra rb : R5)
  | sra (w : Bool) (rd ra rb : R5)
  | rotl (w : Bool) (rd ra rb : R5)
  | slt (w : Bool) (rd ra rb : R5)
  | sltu (w : Bool) (rd ra rb : R5)
  | min (w : Bool) (rd ra rb : R5)
  | max (w : Bool) (rd ra rb : R5)
  | minu (w : Bool) (rd ra rb : R5)
  | maxu (w : Bool) (rd ra rb : R5)
  | mul (w : Bool) (rd ra rb : R5)
  | mulh (w : Bool) (rd ra rb : R5)
  | mulhu (w : Bool) (rd ra rb : R5)
  | div (w : Bool) (rd ra rb : R5)
  | divu (w : Bool) (rd ra rb : R5)
  | rem (w : Bool) (rd ra rb : R5)
  | remu (w : Bool) (rd ra rb : R5)
  | clz (w : Bool) (rd ra : R5)
  | ctz (w : Bool) (rd ra : R5)
  | popc (w : Bool) (rd ra : R5)
  -- immediates (R136 to R138)
  | addi (rd ra : R5) (imm : BitVec 16)
  | andi (rd ra : R5) (imm : BitVec 16)
  | ori (rd ra : R5) (imm : BitVec 16)
  | xori (rd ra : R5) (imm : BitVec 16)
  | slti (rd ra : R5) (imm : BitVec 16)
  | sltiu (rd ra : R5) (imm : BitVec 16)
  | slli (w : Bool) (rd ra : R5) (count : BitVec 6)
  | srli (w : Bool) (rd ra : R5) (count : BitVec 6)
  | srai (w : Bool) (rd ra : R5) (count : BitVec 6)
  | lui (rd : R5) (imm : BitVec 16)
  | auipc (rd : R5) (imm : BitVec 16)
  -- control transfer (R139 to R142)
  | beq (ra rb : R5) (off : BitVec 13)
  | bne (ra rb : R5) (off : BitVec 13)
  | blt (ra rb : R5) (off : BitVec 13)
  | bge (ra rb : R5) (off : BitVec 13)
  | bltu (ra rb : R5) (off : BitVec 13)
  | bgeu (ra rb : R5) (off : BitVec 13)
  | jal (rd : R5) (off : BitVec 21)
  | jalr (rd ra : R5) (imm : BitVec 16)
  | jpt (off : BitVec 26)
  -- loads and stores (R145)
  | lb (h : Hint) (rd ra : R5) (imm : BitVec 11)
  | lh (h : Hint) (rd ra : R5) (imm : BitVec 11)
  | lw (h : Hint) (rd ra : R5) (imm : BitVec 11)
  | ld (h : Hint) (rd ra : R5) (imm : BitVec 11)
  | lbu (h : Hint) (rd ra : R5) (imm : BitVec 11)
  | lhu (h : Hint) (rd ra : R5) (imm : BitVec 11)
  | lwu (h : Hint) (rd ra : R5) (imm : BitVec 11)
  | sb (h : Hint) (rs ra : R5) (imm : BitVec 11)
  | sh (h : Hint) (rs ra : R5) (imm : BitVec 11)
  | sw (h : Hint) (rs ra : R5) (imm : BitVec 11)
  | sd (h : Hint) (rs ra : R5) (imm : BitVec 11)
  -- atomics (R286); `sz` true is the word form .W
  | amoadd (sz : Bool) (sc : Scope) (o : Ord) (rd ra rb : R5)
  | amoand (sz : Bool) (sc : Scope) (o : Ord) (rd ra rb : R5)
  | amoor (sz : Bool) (sc : Scope) (o : Ord) (rd ra rb : R5)
  | amoxor (sz : Bool) (sc : Scope) (o : Ord) (rd ra rb : R5)
  | amomin (sz : Bool) (sc : Scope) (o : Ord) (rd ra rb : R5)
  | amomax (sz : Bool) (sc : Scope) (o : Ord) (rd ra rb : R5)
  | amominu (sz : Bool) (sc : Scope) (o : Ord) (rd ra rb : R5)
  | amomaxu (sz : Bool) (sc : Scope) (o : Ord) (rd ra rb : R5)
  | amoswap (sz : Bool) (sc : Scope) (o : Ord) (rd ra rb : R5)
  | amofadd (sz : Bool) (sc : Scope) (o : Ord) (rd ra rb : R5)
  | amocas (sz : Bool) (sc : Scope) (o : Ord) (rd ra rb : R5)
  | ldaq (sz : Bool) (sc : Scope) (rd ra : R5)
  | strl (sz : Bool) (sc : Scope) (ra rb : R5)
  -- SYNC (R289)
  | fence (sc : Scope) (kinds : BitVec 5) (io : Bool) (ra : R5)
  | ifence
  | waitf (mask : BitVec 12)
  | txbegin (rd : R5)
  | txend
  | txabort (code : BitVec 8)
  | txstat (rd : R5)
  | acqh
  | relh
  -- FPS (R148)
  | fadd (f : Fmt) (rm : Rm) (rd ra rb : R5)
  | fsub (f : Fmt) (rm : Rm) (rd ra rb : R5)
  | fmul (f : Fmt) (rm : Rm) (rd ra rb : R5)
  | fdiv (f : Fmt) (rm : Rm) (rd ra rb : R5)
  | fsqrt (f : Fmt) (rm : Rm) (rd ra : R5)
  | fmin (f : Fmt) (rd ra rb : R5)
  | fmax (f : Fmt) (rd ra rb : R5)
  | fsgn (f : Fmt) (op : SgnOp) (rd ra rb : R5)
  | fcmp (f : Fmt) (op : CmpOp) (rd ra rb : R5)
  | fclass (f : Fmt) (rd ra : R5)
  | fma (dbl : Bool) (negp negc : Bool) (rm : Rm) (rd ra rb rc : R5)
  -- VINT (R156 to R158)
  | vadd (et : ElemTy) (qp : BitVec 3) (rd ra rb : R5)
  | vsub (et : ElemTy) (qp : BitVec 3) (rd ra rb : R5)
  | vmul (et : ElemTy) (qp : BitVec 3) (rd ra rb : R5)
  | vmin (et : ElemTy) (qp : BitVec 3) (rd ra rb : R5)
  | vmax (et : ElemTy) (qp : BitVec 3) (rd ra rb : R5)
  | vlog (op : LogOp) (qp : BitVec 3) (rd ra rb : R5)
  | vsh (et : ElemTy) (qp : BitVec 3) (rd ra rb : R5)
  -- VFP (R159 to R161)
  | vfadd (et : ElemTy) (qp : BitVec 3) (rd ra rb : R5)
  | vfsub (et : ElemTy) (qp : BitVec 3) (rd ra rb : R5)
  | vfmul (et : ElemTy) (qp : BitVec 3) (rd ra rb : R5)
  | vfmin (et : ElemTy) (qp : BitVec 3) (rd ra rb : R5)
  | vfmax (et : ElemTy) (qp : BitVec 3) (rd ra rb : R5)
  | vfcmp (et : ElemTy) (qp : BitVec 3) (rd ra rb : R5)
  | vcmp (et : ElemTy) (qp : BitVec 3) (rd ra rb : R5)
  | vfma (half : Bool) (negp negc : Bool) (rm : Rm) (rd ra rb rc : R5)
  -- VMISC (R162 to R167)
  | vsel (et : ElemTy) (qp : BitVec 3) (rd ra rb : R5)
  | vsplat (et : ElemTy) (qp : BitVec 3) (rd ra : R5)
  | vext (et : ElemTy) (rd ra rb : R5)
  | vins (et : ElemTy) (rd ra rb : R5)
  | vperm (et : ElemTy) (qp : BitVec 3) (rd ra rb : R5)
  | vred (et : ElemTy) (op : RedOp) (qp : BitVec 3) (rd ra : R5)
  | vdot (et : ElemTy) (qp : BitVec 3) (rd ra rb : R5)
  -- VMEM (R168)
  | vld (et : ElemTy) (qp : BitVec 3) (rd ra rb : R5)
  | vst (et : ElemTy) (qp : BitVec 3) (rs ra rb : R5)
  | vlds (et : ElemTy) (qp : BitVec 3) (rd ra rb : R5)
  | vgath (et : ElemTy) (qp : BitVec 3) (rd ra rb : R5)
  | vscat (et : ElemTy) (qp : BitVec 3) (rs ra rb : R5)
  -- LANE (R171 to R174)
  | lshfl (et : ElemTy) (qp : BitVec 3) (rd ra rb : R5)
  | lbcast (et : ElemTy) (qp : BitVec 3) (rd ra rb : R5)
  | lrot (et : ElemTy) (qp : BitVec 3) (rd ra rb : R5)
  | lred (et : ElemTy) (op : RedOp) (qp : BitVec 3) (rd ra : R5)
  | lscan (et : ElemTy) (excl : Bool) (op : RedOp) (qp : BitVec 3) (rd ra : R5)
  | vote (kind : VoteKind) (rd ra : R5)
  -- CVT (R175 to R180)
  | cvt (dst src : ElemTy) (rm : Rm) (rd ra : R5)
  | vcvt (dst src : Fmt) (rm : Rm) (part : BitVec 3) (qp : BitVec 2) (rd ra : R5)
  | vcvtsc (dst src : Fmt) (rm : Rm) (qp : BitVec 2) (rd ra rb : R5)
  | vcvtus (dst src : ElemTy) (rm : Rm) (part : BitVec 2) (rd ra : R5)
  -- SFU (R181)
  | exp2 (rd ra : R5)
  | exp2V (et : ElemTy) (qp : BitVec 3) (rd ra : R5)
  | log2 (rd ra : R5)
  | log2V (et : ElemTy) (qp : BitVec 3) (rd ra : R5)
  | rcp (rd ra : R5)
  | rcpV (et : ElemTy) (qp : BitVec 3) (rd ra : R5)
  | rsq (rd ra : R5)
  | rsqV (et : ElemTy) (qp : BitVec 3) (rd ra : R5)
  | sin (rd ra : R5)
  | sinV (et : ElemTy) (qp : BitVec 3) (rd ra : R5)
  | cos (rd ra : R5)
  | cosV (et : ElemTy) (qp : BitVec 3) (rd ra : R5)
  -- UNI (R182 to R187)
  | kalu (op : KOp) (kd ka kb : BitVec 4)
  | kli (kd : BitVec 4) (imm : BitVec 18)
  | kget (rd : R5) (ka : BitVec 4)
  | kput (kd : BitVec 4) (ra : R5)
  | kbr (cond : KCond) (ka : BitVec 4) (off : BitVec 15)
  | qlog (op : QOp) (qd qa qb : BitVec 3)
  | qfrom (et : ElemTy) (set : BitVec 5) (qd : BitVec 3) (ra : R5)
  | qfromS (qd : BitVec 3) (ra : R5)
  | qto (rd : R5) (qa : BitVec 3)
  -- MODE and ports (R188, R232)
  | fuse (f : FSize)
  | split
  | rejoin
  | pcfg (d : Dir) (wrap : Bool) (t : Topo)
  | pqry (rd : R5) (d : Dir)
  | pwaite (mask : BitVec 4)
  -- MMA (R211, R220)
  | mma (ty : MType) (sc z : Bool) (mrow : BitVec 2) (acc : BitVec 3) (a : ASel) (b : BSel)
  | mmas (sc z : Bool) (mrow : BitVec 2) (acc : BitVec 3) (slot : Bool) (term2 : Bool) (b : BSel)
  | mres (sc : Bool) (mrow : BitVec 2) (acc : BitVec 3) (slot : Bool) (b : BSel)
  | mplan (ty : MType) (loss : Bool) (slot : Bool) (k : BitVec 2) (rb : R5)
  | mplanS (ty : MType) (loss : Bool) (slot : Bool) (ra rb : R5)
  -- MAT (R214)
  | mzacc (mrow : BitVec 2) (acc : BitVec 3)
  | mldacc (mrow : BitVec 2) (acc : BitVec 3) (ra rb : R5)
  | mstacc (ty : Fmt) (rm : Rm) (mrow : BitVec 2) (acc : BitVec 3) (ra rb : R5)
  | mldob (isB : Bool) (n : BitVec 2) (part : BitVec 2) (all : Bool) (ra : R5)
  | mstat (kind : Bool) (slot : Bool) (rd : R5)
  | mscl (isB : Bool) (ra : R5)
  -- KEY (R247)
  | ktclaim (kt : BitVec 2) (ra rb : R5)
  | ktfree (kt : BitVec 2)
  | ktins (kt : BitVec 2) (rd ra rb : R5)
  | ktprb (kt : BitVec 2) (rd ra : R5)
  | ktdel (kt : BitVec 2) (rd ra : R5)
  | ktacc (kt : BitVec 2) (rd ra rb : R5)
  | ktdrn (kt : BitVec 2) (clr : Bool) (rd ra : R5)
  | ktstat (kt : BitVec 2) (sel : BitVec 2) (rd : R5)
  -- ENG (R312)
  | enq (nb : Bool) (rd ra : R5)
  | deq (rd ra : R5)
  | eqry (sel : Bool) (rd ra : R5)
  | stginit (ra rb : R5)
  | stgexp (ra rb : R5)
  | stgarv (rd ra rb : R5)
  | stgwait (rd ra rb : R5)
  | stgtry (rd ra rb : R5)
  | semsig (ra rb : R5)
  | semwait (rd ra rb : R5)
  | semtry (rd ra rb : R5)
  -- MSG (R312)
  | send (ra rb : R5)
  | recv (rd : R5)
  | waitmsg
  | mbqry (rd : R5)
  | hbinit (ens : Bool) (hb : BitVec 4) (ra rb : R5)
  | hbarv (hb : BitVec 4) (rd : R5)
  | hbwait (hb : BitVec 4) (rd rb : R5)
  | hbsync (hb : BitVec 4) (rd : R5)
  | hbinv (hb : BitVec 4)
  | hbqry (hb : BitVec 4) (rd : R5)
  -- TASK (R367)
  | launch (rd ra : R5)
  | joinwait (rd : R5)
  | depalloc (rd ra : R5)
  | depsig (ra : R5)
  | depfree (rd ra : R5)
  | yield
  | exit
  -- SYS (R189)
  | csrr (n : BitVec 12) (rd : R5)
  | csrw (n : BitVec 12) (ra : R5)
  | trap (code : BitVec 12)
  | tret
  | featq (cls : BitVec 4) (index : BitVec 8) (rd : R5)
  | brk (code : BitVec 12)
  | tlbw (ra rb : R5)
  | tlbinv (ra rb : R5)
  | ctxsv (ra : R5)
  | ctxld (ra : R5)
  -- CLAUSE (R71)
  | clause (wait : BitVec 12) (f1 f2 : BitVec 4) (len : BitVec 3)
  -- events (spec/95)
  | illegalInstruction (w : Insn)
  | groupForm (wg col base : Nat) (f : FSize)
  | refusion (wg t : Nat)
  | lowOccupancySplit (wg t : Nat)
  | translationWalk (cluster entry : Nat)
  | faultRecordPost
  | pendingResult (wg t : Nat) (r : RegName)
  | completionEvent (c : Completion)
  | remoteStoreArrive (n : Nat)
  | remoteStoreAck (n : Nat)
  | l1Eviction (cluster n : Nat)
  | epochEnd
  | txAbort (wg t : Nat)
  | matrixQueueStart (cluster n : Nat)
  | matrixRetire (cluster n : Nat)
  | portValueArrive (wg t : Nat) (d : Dir) (vector : Bool)
  | portCreditArrive (wg t : Nat) (d : Dir) (vector : Bool)
  | messageArrive (n : Nat)
  | sendRefusal (n : Nat)
  | taskActivate (cluster pipe : Nat)
  | taskWatchdog (wg t : Nat)
  | waitWatchdog (wg t : Nat)
  | critExpiry (wg t : Nat)
  | copy (cluster n : Nat)
  | copyz (cluster n : Nat)
  | tensor (cluster n : Nat)
  | gather (cluster n : Nat)
  | scatter (cluster n : Nat)
  | fillob (cluster n : Nat)
  | mcast (cluster n : Nat)
  | wopen (cluster n : Nat)
  | wclose (cluster n : Nat)
  | mcastPacketArrive (n : Nat)
  | allred (n : Nat)
  | redscat (n : Nat)
  | allgath (n : Nat)
  | bcast (n : Nat)
  | collectiveStart (gid : Nat) (remote : List RemotePart)
  | sread (n : Nat)
  | swrite (n : Nat)
  | sflush (n : Nat)
  | storageSubmit (q : Nat)
  | storageCompletion (q : Nat)
  | commandComplete (n : Nat)
  | doorbell (fn q : Nat) (value : BitVec 32)
  | launchQueueTake (q : Nat)
  | rangeListStaging (launch : Nat)
  | dispatchPlace
  | levelAging (launch : Nat)
  | gatherExpiry (launch : Nat)
  | joinspinExpiry (wg : Nat)
  | workgroupSave (wg : Nat)
  | workgroupRestore (unit : Nat)
  | srseedWrite (seed : Word)
  | featsetWrite (ctx : Nat) (value : Word)
  | frespRetry (ticket : BitVec 32)
  | frespKill (ticket : BitVec 32)
  | frespDeliver (ticket : BitVec 32)
  | preempt (ctx : Nat) (imm hold : Bool)
  | resume (ctx : Nat)
  | semvalWrite (value : Word)
  | semvalRead (rd : R5)
  | depvalWrite (value : Word)
  | objectVerify (o : ObjPresent)
  | regkey
  | delkey
  | attest
  | setdev
  | bindvf
  | pwrcap
  | telem
  | aperture
  | mailboxBadcmd
  | storageQueueTableWrite (fn off : Nat) (bytes : List Byte)
  | hostWrite (fn : Nat) (target : HostTarget) (bytes : List Byte)
  | hostRead (fn : Nat) (target : HostTarget) (len : Nat)
  | hostAtomicop (fn : Nat) (target : HostTarget) (op : HostAtom) (wide : Bool) (operand compare : Word)
  | dataFlit (port : Nat) (f : Flit)
  | idleFlit (port : Nat) (f : Flit)
  | nak (port : Nat) (f : Flit)
  | audit (port : Nat) (f : Flit)
  | auditDue (port : Nat)
  | portRetrain (port : Nat) (ok : Bool)
  | linkRequestTimeout (n : Nat)
  | jointFailure
  | powerOn (stages : List FwStage)
  | moduleReset
  | linkUp (port : Nat) (fullWidth : Bool)
  | softError (e : SoftErr)
  | arithmeticClockChange (khz : Nat)
  | powerLoss
  deriving DecidableEq, Repr

end Sys2Proof
end

