-- ==== Sys2Proof/WellFormed.lean ====
section
/-!
DEFINITION. Which terms of `Instr` are instructions: the field values that each instruction's description accepts
(spec/03 R62 to R71, and each family's rule). A word whose fields hold anything else is not an encoding (R65).
-/

namespace Sys2Proof

/-- I8 to N64 (R62). -/
def ElemTy.isInt : ElemTy → Bool
  | .i8 | .i16 | .i32 | .i64 | .n8 | .n16 | .n32 | .n64 => true
  | .f64 | .f32 | .f16 | .bf16 | .e4m3 | .e5m2 | .e2m1 => false

/-- F64, F32, F16 and BF16. -/
def ElemTy.isFloat4 : ElemTy → Bool
  | .f64 | .f32 | .f16 | .bf16 => true
  | .i8 | .i16 | .i32 | .i64 | .n8 | .n16 | .n32 | .n64 | .e4m3 | .e5m2 | .e2m1 => false

/-- I8 to I64. -/
def ElemTy.isSigned : ElemTy → Bool
  | .i8 | .i16 | .i32 | .i64 => true
  | .n8 | .n16 | .n32 | .n64 | .f64 | .f32 | .f16 | .bf16 | .e4m3 | .e5m2 | .e2m1 => false

/-- Element width in bits (R95). -/
def ElemTy.bits : ElemTy → Nat
  | .i8 | .n8 | .e4m3 | .e5m2 => 8
  | .i16 | .n16 | .f16 | .bf16 => 16
  | .i32 | .n32 | .f32 => 32
  | .i64 | .n64 | .f64 => 64
  | .e2m1 => 4

/-- Format width in bits (R111). -/
def Fmt.bits : Fmt → Nat
  | .f64 => 64
  | .f32 => 32
  | .f16 | .bf16 => 16
  | .e4m3 | .e5m2 => 8
  | .e2m1 => 4

/-- F64, F32, F16 and BF16, the formats of FN-F (R64). -/
def Fmt.isFloat4 : Fmt → Bool
  | .f64 | .f32 | .f16 | .bf16 => true
  | .e4m3 | .e5m2 | .e2m1 => false

/-- Ratio of the wider to the narrower width (R177). -/
def widthRatio (a b : Nat) : Nat := if b ≤ a then a / b else b / a

/-- Control-register numbers that a table assigns (R99, R100, R380), the firmware range included. -/
def csrAssigned (n : Nat) : Bool :=
  n ≤ 0x00C || n == 0x010 || (0x020 ≤ n && n ≤ 0x023) || (0x040 ≤ n && n ≤ 0x043) || (0x050 ≤ n && n ≤ 0x053)
    || n == 0x060 || (0x100 ≤ n && n ≤ 0x10D) || (0x110 ≤ n && n ≤ 0x114) || (0x118 ≤ n && n ≤ 0x11E)
    || (0x120 ≤ n && n ≤ 0x12B) || (0x130 ≤ n && n ≤ 0x132) || (0xF00 ≤ n && n ≤ 0xFFF)

/-- The rm of an instruction that accepts RNE, RTZ, RDN, RUP and DYN (R63). -/
def Rm.noSr (r : Rm) : Bool := r ≠ .sr

/-- A term is an instruction, or an event, when its fields hold values that its description accepts. -/
def Instr.wf : Instr → Bool
  | .slli w _ _ c | .srli w _ _ c | .srai w _ _ c => !w || c.toNat < 32
  | .fadd f rm _ _ _ | .fsub f rm _ _ _ | .fmul f rm _ _ _ | .fdiv f rm _ _ _ => f.isFloat4 && rm.noSr
  | .fsqrt f rm _ _ => f.isFloat4 && rm.noSr
  | .fmin f _ _ _ | .fmax f _ _ _ => f.isFloat4
  | .fsgn f _ _ _ _ => f.isFloat4
  | .fcmp f _ _ _ _ => f.isFloat4
  | .fclass f _ _ => f.isFloat4
  | .fma _ _ _ rm _ _ _ _ | .vfma _ _ _ rm _ _ _ _ => rm.noSr
  | .vadd et _ _ _ _ | .vsub et _ _ _ _ | .vmul et _ _ _ _ | .vmin et _ _ _ _ | .vmax et _ _ _ _
  | .vsh et _ _ _ _ | .vcmp et _ _ _ _ | .vperm et _ _ _ _ => et.isInt
  | .vfadd et _ _ _ _ | .vfsub et _ _ _ _ | .vfmul et _ _ _ _ | .vfmin et _ _ _ _ | .vfmax et _ _ _ _
  | .vfcmp et _ _ _ _ => et.isFloat4
  | .vext et _ _ _ | .vins et _ _ _ => et ≠ .e2m1
  | .vld et _ _ _ _ | .vst et _ _ _ _ | .vlds et _ _ _ _ | .vgath et _ _ _ _ | .vscat et _ _ _ _ => et ≠ .e2m1
  | .vred et _ _ _ _ | .lred et _ _ _ _ => et.isInt || et.isFloat4
  | .lscan et _ _ _ _ _ => et.isInt || et.isFloat4
  | .vdot et _ _ _ _ => et = .i8 || et = .n8 || et = .f16 || et = .bf16
  | .cvt dst src rm _ _ =>
    (dst.isInt || dst.isFloat4) && (src.isInt || src.isFloat4) && dst ≠ src && rm.noSr
      && (!(dst.isInt && src.isInt) || rm = .rne)
  | .vcvt dst src _ part _ _ _ =>
    dst ≠ src && widthRatio dst.bits src.bits ≤ 8 && part.toNat < widthRatio dst.bits src.bits
  | .vcvtsc dst src _ _ _ _ _ =>
    (src = .f32 || src = .f16 || src = .bf16) && (dst = .e4m3 || dst = .e5m2 || dst = .e2m1)
  | .vcvtus dst src rm part _ _ =>
    (dst.isInt || dst.isFloat4) && (src.isInt || src.isFloat4) && (dst.isInt || src.isInt) && dst ≠ src && rm.noSr
      && (!(dst.isInt && src.isInt) || rm = .rne)
      && widthRatio dst.bits src.bits ≤ 4 && part.toNat < widthRatio dst.bits src.bits
  | .exp2V et _ _ _ | .log2V et _ _ _ | .rcpV et _ _ _ | .rsqV et _ _ _ | .sinV et _ _ _ | .cosV et _ _ _ =>
    et = .f32 || et = .f16 || et = .bf16
  | .qlog op _ _ qb => op ≠ .not || qb = 0
  | .qfrom et _ _ _ => et.isSigned
  | .pcfg _ wrap t => !wrap || t = .cluster
  | .pwaite mask => mask ≠ 0
  | .mma ty sc _ _ _ _ _ => !sc || ty = .e4m3 || ty = .e5m2 || ty = .e2m1
  | .mplan _ loss _ _ rb => loss || rb = 0
  | .mplanS _ loss _ _ rb => loss || rb = 0
  | .mstacc ty rm _ _ _ _ => (ty ≠ .f64 && ty ≠ .e2m1) && rm.noSr && rm ≠ .dyn && (ty ≠ .f32 || rm = .rne)
  | .mldob _ _ part all _ => !all || part = 0
  | .enq _ _ ra => 1 ≤ ra.toNat && ra.toNat ≤ 24
  | .deq rd _ => 1 ≤ rd.toNat && rd.toNat ≤ 26
  | .recv rd => 1 ≤ rd.toNat && rd.toNat ≤ 26
  | .fence sc kinds io ra => (kinds ≠ 0 || io) && (sc = .rect || ra = 0)
  | .csrr n _ | .csrw n _ => csrAssigned n.toNat
  | .clause _ f1 f2 _ => f1.toNat ≤ 12 && f2.toNat ≤ 12
  | .add .. | .sub .. | .and .. | .or .. | .xor .. | .sll .. | .srl .. | .sra .. | .rotl .. | .slt ..
  | .sltu .. | .min .. | .max .. | .minu .. | .maxu .. | .mul .. | .mulh .. | .mulhu .. | .div .. | .divu ..
  | .rem .. | .remu .. | .clz .. | .ctz .. | .popc .. | .addi .. | .andi .. | .ori .. | .xori .. | .slti ..
  | .sltiu .. | .lui .. | .auipc .. | .beq .. | .bne .. | .blt .. | .bge .. | .bltu .. | .bgeu .. | .jal ..
  | .jalr .. | .jpt .. | .lb .. | .lh .. | .lw .. | .ld .. | .lbu .. | .lhu .. | .lwu .. | .sb .. | .sh ..
  | .sw .. | .sd .. | .amoadd .. | .amoand .. | .amoor .. | .amoxor .. | .amomin .. | .amomax .. | .amominu ..
  | .amomaxu .. | .amoswap .. | .amofadd .. | .amocas .. | .ldaq .. | .strl .. | .ifence .. | .waitf ..
  | .txbegin .. | .txend .. | .txabort .. | .txstat .. | .acqh .. | .relh .. | .vlog .. | .vsel .. | .vsplat ..
  | .lshfl .. | .lbcast .. | .lrot .. | .vote .. | .exp2 .. | .log2 .. | .rcp .. | .rsq .. | .sin .. | .cos ..
  | .kalu .. | .kli .. | .kget .. | .kput .. | .kbr .. | .qfromS .. | .qto .. | .fuse .. | .split ..
  | .rejoin .. | .pqry .. | .mmas .. | .mres .. | .mzacc .. | .mldacc .. | .mstat .. | .mscl .. | .ktclaim ..
  | .ktfree .. | .ktins .. | .ktprb .. | .ktdel .. | .ktacc .. | .ktdrn .. | .ktstat .. | .eqry ..
  | .stginit .. | .stgexp .. | .stgarv .. | .stgwait .. | .stgtry .. | .semsig .. | .semwait .. | .semtry ..
  | .send .. | .waitmsg .. | .mbqry .. | .hbinit .. | .hbarv .. | .hbwait .. | .hbsync .. | .hbinv ..
  | .hbqry .. | .launch .. | .joinwait .. | .depalloc .. | .depsig .. | .depfree .. | .yield .. | .exit ..
  | .trap .. | .tret .. | .featq .. | .brk .. | .tlbw .. | .tlbinv .. | .ctxsv .. | .ctxld ..
  | .illegalInstruction .. | .groupForm .. | .refusion .. | .lowOccupancySplit .. | .translationWalk ..
  | .faultRecordPost .. | .pendingResult .. | .completionEvent .. | .remoteStoreArrive .. | .remoteStoreAck ..
  | .l1Eviction .. | .epochEnd .. | .txAbort .. | .matrixQueueStart .. | .matrixRetire .. | .portValueArrive ..
  | .portCreditArrive .. | .messageArrive .. | .sendRefusal .. | .taskActivate .. | .taskWatchdog ..
  | .waitWatchdog .. | .critExpiry .. | .copy .. | .copyz .. | .tensor .. | .gather .. | .scatter ..
  | .fillob .. | .mcast .. | .wopen .. | .wclose .. | .mcastPacketArrive .. | .allred .. | .redscat ..
  | .allgath .. | .bcast .. | .collectiveStart .. | .sread .. | .swrite .. | .sflush .. | .storageSubmit ..
  | .storageCompletion .. | .commandComplete .. | .doorbell .. | .launchQueueTake .. | .rangeListStaging ..
  | .dispatchPlace .. | .levelAging .. | .gatherExpiry .. | .joinspinExpiry .. | .workgroupSave ..
  | .workgroupRestore .. | .srseedWrite .. | .featsetWrite .. | .frespRetry .. | .frespKill ..
  | .frespDeliver .. | .preempt .. | .resume .. | .semvalWrite .. | .semvalRead .. | .depvalWrite ..
  | .objectVerify .. | .regkey .. | .delkey .. | .attest .. | .setdev .. | .bindvf .. | .pwrcap .. | .telem ..
  | .aperture .. | .mailboxBadcmd .. | .storageQueueTableWrite .. | .hostWrite .. | .hostRead ..
  | .hostAtomicop .. | .dataFlit .. | .idleFlit .. | .nak .. | .audit .. | .auditDue .. | .portRetrain ..
  | .linkRequestTimeout .. | .jointFailure .. | .powerOn .. | .moduleReset .. | .linkUp .. | .softError ..
  | .arithmeticClockChange .. | .powerLoss .. => true

/-- The well-formedness of a term as a proposition. -/
abbrev Instr.WellFormed (i : Instr) : Prop := i.wf = true

end Sys2Proof
end

