-- ==== Sys2Proof/Decode.lean ====
section
/-!
DEFINITION. The decoder of instruction words (spec/03 R58 to R71 and the layouts of each family), total and
rejecting by name, and after it the encoder, written from the same tables. An event has no word.
-/

namespace Sys2Proof

/-- Why a word is not an encoding (R65). -/
inductive Reject where
  /-- a reserved major -/
  | major
  /-- a sub-op or an operation code that no table lists -/
  | sub
  /-- a field that the instruction does not use, or a reserved one, is not zero -/
  | unusedField
  /-- a field holds a value that the instruction's description does not accept -/
  | fieldValue
  deriving DecidableEq, Repr

/-! ### Shared field codes -/

/-- R62. -/
def elemTyOf (c : BitVec 4) : Option ElemTy :=
  match c.toNat with
  | 0 => some .i8 | 1 => some .i16 | 2 => some .i32 | 3 => some .i64
  | 4 => some .n8 | 5 => some .n16 | 6 => some .n32 | 7 => some .n64
  | 8 => some .f64 | 9 => some .f32 | 10 => some .f16 | 11 => some .bf16
  | 12 => some .e4m3 | 13 => some .e5m2 | 14 => some .e2m1 | _ => none

/-- R62. -/
def ElemTy.code : ElemTy → BitVec 4
  | .i8 => 0 | .i16 => 1 | .i32 => 2 | .i64 => 3 | .n8 => 4 | .n16 => 5 | .n32 => 6 | .n64 => 7
  | .f64 => 8 | .f32 => 9 | .f16 => 10 | .bf16 => 11 | .e4m3 => 12 | .e5m2 => 13 | .e2m1 => 14

/-- R63. -/
def rmOf (c : BitVec 3) : Option Rm :=
  match c.toNat with
  | 0 => some .rne | 1 => some .rtz | 2 => some .rdn | 3 => some .rup | 4 => some .sr | 7 => some .dyn | _ => none

/-- R63. -/
def Rm.code : Rm → BitVec 3
  | .rne => 0 | .rtz => 1 | .rdn => 2 | .rup => 3 | .sr => 4 | .dyn => 7

/-- The two-bit fmt of FN-F (R64). -/
def fmtOf2 (c : BitVec 2) : Fmt :=
  match c.toNat with
  | 0 => .f64 | 1 => .f32 | 2 => .f16 | _ => .bf16

/-- The three-bit fmt of VCVT (R175). -/
def fmtOf3 (c : BitVec 3) : Option Fmt :=
  match c.toNat with
  | 0 => some .f64 | 1 => some .f32 | 2 => some .f16 | 3 => some .bf16 | 4 => some .e4m3 | 5 => some .e5m2
  | 6 => some .e2m1 | _ => none

/-- R64, R175. -/
def Fmt.code : Fmt → BitVec 3
  | .f64 => 0 | .f32 => 1 | .f16 => 2 | .bf16 => 3 | .e4m3 => 4 | .e5m2 => 5 | .e2m1 => 6

/-- The source fmt of VCVTSC (R175). -/
def scSrcOf (c : BitVec 2) : Option Fmt :=
  match c.toNat with
  | 0 => some .f32 | 1 => some .f16 | 2 => some .bf16 | _ => none

/-- R175. -/
def Fmt.scSrcCode : Fmt → BitVec 2
  | .f32 => 0 | .f16 => 1 | .bf16 => 2 | .f64 | .e4m3 | .e5m2 | .e2m1 => 3

/-- The destination fmt of VCVTSC (R175). -/
def scDstOf (c : BitVec 2) : Option Fmt :=
  match c.toNat with
  | 0 => some .e4m3 | 1 => some .e5m2 | 2 => some .e2m1 | _ => none

/-- R175. -/
def Fmt.scDstCode : Fmt → BitVec 2
  | .e4m3 => 0 | .e5m2 => 1 | .e2m1 => 2 | .f64 | .f32 | .f16 | .bf16 => 3

/-- R31. -/
def scopeOf (c : BitVec 3) : Scope :=
  match c.toNat with
  | 0 => .pipe | 1 => .quad | 2 => .cluster | 3 => .die | 4 => .device | 5 => .domain | 6 => .system | _ => .rect

/-- R31. -/
def Scope.code : Scope → BitVec 3
  | .pipe => 0 | .quad => 1 | .cluster => 2 | .die => 3 | .device => 4 | .domain => 5 | .system => 6 | .rect => 7

/-- R69. -/
def ordOf (c : BitVec 2) : Ord :=
  match c.toNat with
  | 0 => .rlx | 1 => .acq | 2 => .rel | _ => .ar

/-- R69. -/
def Ord.code : Ord → BitVec 2
  | .rlx => 0 | .acq => 1 | .rel => 2 | .ar => 3

/-- R68. -/
def hintOf (c : BitVec 2) : Option Hint :=
  match c.toNat with
  | 0 => some .none | 1 => some .na1 | 2 => some .ef | _ => none

/-- R68. -/
def Hint.code : Hint → BitVec 2
  | .none => 0 | .na1 => 1 | .ef => 2

/-- R66. -/
def fsizeOf (c : BitVec 2) : Option FSize :=
  match c.toNat with
  | 1 => some .f8 | 2 => some .f16 | 3 => some .f32 | _ => none

/-- R66, R102. -/
def FSize.code : FSize → BitVec 2
  | .f8 => 1 | .f16 => 2 | .f32 => 3

/-- R157. -/
def logOpOf (c : BitVec 2) : LogOp :=
  match c.toNat with
  | 0 => .and | 1 => .or | 2 => .xor | _ => .andn

/-- R157. -/
def LogOp.code : LogOp → BitVec 2
  | .and => 0 | .or => 1 | .xor => 2 | .andn => 3

/-- R166, R173. -/
def redOpOf (c : BitVec 2) : Option RedOp :=
  match c.toNat with
  | 0 => some .add | 1 => some .min | 2 => some .max | _ => none

/-- R166, R173. -/
def RedOp.code : RedOp → BitVec 2
  | .add => 0 | .min => 1 | .max => 2

/-- R174. -/
def voteKindOf (c : BitVec 5) : Option VoteKind :=
  match c.toNat with
  | 0 => some .any | 1 => some .all | 2 => some .ballot | 3 => some .count | _ => none

/-- R174. -/
def VoteKind.code : VoteKind → BitVec 5
  | .any => 0 | .all => 1 | .ballot => 2 | .count => 3

/-- R151. -/
def sgnOpOf (c : BitVec 3) : Option SgnOp :=
  match c.toNat with
  | 0 => some .copy | 1 => some .neg | 2 => some .xor | _ => none

/-- R151. -/
def SgnOp.code : SgnOp → BitVec 3
  | .copy => 0 | .neg => 1 | .xor => 2

/-- R152. -/
def cmpOpOf (c : BitVec 3) : Option CmpOp :=
  match c.toNat with
  | 0 => some .eq | 1 => some .lt | 2 => some .le | 3 => some .un | _ => none

/-- R152. -/
def CmpOp.code : CmpOp → BitVec 3
  | .eq => 0 | .lt => 1 | .le => 2 | .un => 3

/-- R183. -/
def kOpOf (c : BitVec 4) : Option KOp :=
  match c.toNat with
  | 0 => some .add | 1 => some .sub | 2 => some .and | 3 => some .or | 4 => some .xor | 5 => some .sll | 6 => some .srl
  | 7 => some .sra | 8 => some .mul | 9 => some .slt | 10 => some .sltu | 11 => some .min | 12 => some .max | _ => none

/-- R183. -/
def KOp.code : KOp → BitVec 4
  | .add => 0 | .sub => 1 | .and => 2 | .or => 3 | .xor => 4 | .sll => 5 | .srl => 6 | .sra => 7 | .mul => 8
  | .slt => 9 | .sltu => 10 | .min => 11 | .max => 12

/-- R185. -/
def kCondOf (c : BitVec 3) : Option KCond :=
  match c.toNat with
  | 0 => some .eqz | 1 => some .nez | 2 => some .ltz | 3 => some .gez | 4 => some .gtz | 5 => some .lez | _ => none

/-- R185. -/
def KCond.code : KCond → BitVec 3
  | .eqz => 0 | .nez => 1 | .ltz => 2 | .gez => 3 | .gtz => 4 | .lez => 5

/-- R187. -/
def qOpOf (c : BitVec 4) : Option QOp :=
  match c.toNat with
  | 0 => some .and | 1 => some .or | 2 => some .xor | 3 => some .andn | 4 => some .not | _ => none

/-- R187. -/
def QOp.code : QOp → BitVec 4
  | .and => 0 | .or => 1 | .xor => 2 | .andn => 3 | .not => 4

/-- R211. -/
def mtypeOf (c : BitVec 3) : Option MType :=
  match c.toNat with
  | 0 => some .e4m3 | 1 => some .e5m2 | 2 => some .e2m1 | 3 => some .f16 | 4 => some .bf16 | 5 => some .i8 | _ => none

/-- R211. -/
def MType.code : MType → BitVec 3
  | .e4m3 => 0 | .e5m2 => 1 | .e2m1 => 2 | .f16 => 3 | .bf16 => 4 | .i8 => 5

/-- The type of MSTACC (R214). -/
def staccTyOf (c : BitVec 3) : Option Fmt :=
  match c.toNat with
  | 0 => some .f32 | 1 => some .f16 | 2 => some .bf16 | 3 => some .e4m3 | 4 => some .e5m2 | _ => none

/-- R214. -/
def Fmt.staccCode : Fmt → BitVec 3
  | .f32 => 0 | .f16 => 1 | .bf16 => 2 | .e4m3 => 3 | .e5m2 => 4 | .f64 => 5 | .e2m1 => 6

/-- The rounding field of MSTACC (R214). -/
def staccRmOf (c : BitVec 2) : Rm :=
  match c.toNat with
  | 0 => .rne | 1 => .rtz | 2 => .rdn | _ => .rup

/-- R232. -/
def dirOf (c : BitVec 2) : Dir :=
  match c.toNat with
  | 0 => .n | 1 => .e | 2 => .s | _ => .w

/-- R232. -/
def Dir.code : Dir → BitVec 2
  | .n => 0 | .e => 1 | .s => 2 | .w => 3

/-- R108. -/
def topoOf (c : BitVec 2) : Topo :=
  match c.toNat with
  | 0 => .off | 1 => .lane | 2 => .cluster | _ => .die

/-- R108. -/
def Topo.code : Topo → BitVec 2
  | .off => 0 | .lane => 1 | .cluster => 2 | .die => 3

/-- A fragment base code (R211): 3 is not an encoding. -/
def base8Of (c : BitVec 2) : Option (Fin 3) :=
  match c.toNat with
  | 0 => some 0 | 1 => some 1 | 2 => some 2 | _ => none

/-- The asel field of MMA (R211). -/
def aselOf (c : BitVec 5) : Option ASel :=
  if c.extractLsb' 0 2 ≠ 0 then none
  else if c.getLsbD 4 then some (.kstep (c.extractLsb' 2 2))
  else (base8Of (c.extractLsb' 2 2)).map .regs

/-- R211. -/
def ASel.code : ASel → BitVec 5
  | .regs b => 0#1 ++ BitVec.ofNat 2 b.val ++ 0#2
  | .kstep k => 1#1 ++ k ++ 0#2

/-- The bsel field (R211). -/
def bselOf (c : BitVec 5) : Option BSel :=
  if c.extractLsb' 0 2 ≠ 0 then none
  else if c.getLsbD 4 then some (.buf (c.extractLsb' 2 2))
  else (base8Of (c.extractLsb' 2 2)).map .regs

/-- R211. -/
def BSel.code : BSel → BitVec 5
  | .regs b => 0#1 ++ BitVec.ofNat 2 b.val ++ 0#2
  | .buf n => 1#1 ++ n ++ 0#2

/-- Accept when a condition on unused fields holds. -/
def need (c : Bool) (i : Instr) : Except Reject Instr := if c then .ok i else .error .unusedField

/-- Read a coded field, or reject its value. -/
def coded (o : Option α) (k : α → Except Reject Instr) : Except Reject Instr :=
  match o with
  | some x => k x
  | none => .error .fieldValue

/-! ### Families -/

/-- OPR, major 0x01 (R134). -/
def decodeOpr (w : Insn) : Except Reject Instr :=
  let rd := w.extractLsb' 21 5
  let ra := w.extractLsb' 16 5
  let rb := w.extractLsb' 11 5
  let z := w.extractLsb' 1 4 = 0
  let x := w.getLsbD 0
  match (w.extractLsb' 5 6).toNat with
  | 0 => need z (.add x rd ra rb)
  | 1 => need z (.sub x rd ra rb)
  | 2 => need z (.and x rd ra rb)
  | 3 => need z (.or x rd ra rb)
  | 4 => need z (.xor x rd ra rb)
  | 5 => need z (.sll x rd ra rb)
  | 6 => need z (.srl x rd ra rb)
  | 7 => need z (.sra x rd ra rb)
  | 8 => need z (.rotl x rd ra rb)
  | 9 => need z (.slt x rd ra rb)
  | 10 => need z (.sltu x rd ra rb)
  | 11 => need z (.min x rd ra rb)
  | 12 => need z (.max x rd ra rb)
  | 13 => need z (.minu x rd ra rb)
  | 14 => need z (.maxu x rd ra rb)
  | 15 => need z (.mul x rd ra rb)
  | 16 => need z (.mulh x rd ra rb)
  | 17 => need z (.mulhu x rd ra rb)
  | 18 => need z (.div x rd ra rb)
  | 19 => need z (.divu x rd ra rb)
  | 20 => need z (.rem x rd ra rb)
  | 21 => need z (.remu x rd ra rb)
  | 22 => need (z && rb = 0) (.clz x rd ra)
  | 23 => need (z && rb = 0) (.ctz x rd ra)
  | 24 => need (z && rb = 0) (.popc x rd ra)
  | _ => .error .sub

/-- SHI, major 0x08 (R70, R137). -/
def decodeShi (w : Insn) : Except Reject Instr :=
  let rd := w.extractLsb' 21 5
  let ra := w.extractLsb' 16 5
  let c := w.extractLsb' 0 6
  let z := w.extractLsb' 6 7 = 0
  let x := w.getLsbD 13
  match (w.extractLsb' 14 2).toNat with
  | 0 => need z (.slli x rd ra c)
  | 1 => need z (.srli x rd ra c)
  | 2 => need z (.srai x rd ra c)
  | _ => .error .sub

/-- BR, major 0x0B (R67, R139). -/
def decodeBr (w : Insn) : Except Reject Instr :=
  let ra := w.extractLsb' 21 5
  let rb := w.extractLsb' 16 5
  let o := w.extractLsb' 0 13
  match (w.extractLsb' 13 3).toNat with
  | 0 => .ok (.beq ra rb o)
  | 1 => .ok (.bne ra rb o)
  | 2 => .ok (.blt ra rb o)
  | 3 => .ok (.bge ra rb o)
  | 4 => .ok (.bltu ra rb o)
  | 5 => .ok (.bgeu ra rb o)
  | _ => .error .sub

/-- LOAD, major 0x0F (R68, R145). -/
def decodeLoad (w : Insn) : Except Reject Instr :=
  let rd := w.extractLsb' 21 5
  let ra := w.extractLsb' 16 5
  let i := w.extractLsb' 0 11
  coded (hintOf (w.extractLsb' 11 2)) fun h =>
  match (w.extractLsb' 13 3).toNat with
  | 0 => .ok (.lb h rd ra i)
  | 1 => .ok (.lh h rd ra i)
  | 2 => .ok (.lw h rd ra i)
  | 3 => .ok (.ld h rd ra i)
  | 4 => .ok (.lbu h rd ra i)
  | 5 => .ok (.lhu h rd ra i)
  | 6 => .ok (.lwu h rd ra i)
  | _ => .error .sub

/-- STORE, major 0x10 (R68, R145). -/
def decodeStore (w : Insn) : Except Reject Instr :=
  let rd := w.extractLsb' 21 5
  let ra := w.extractLsb' 16 5
  let i := w.extractLsb' 0 11
  coded (hintOf (w.extractLsb' 11 2)) fun h =>
  match (w.extractLsb' 13 3).toNat with
  | 0 => .ok (.sb h rd ra i)
  | 1 => .ok (.sh h rd ra i)
  | 2 => .ok (.sw h rd ra i)
  | 3 => .ok (.sd h rd ra i)
  | _ => .error .sub

/-- ATOM, major 0x11 (R69, R286). -/
def decodeAtom (w : Insn) : Except Reject Instr :=
  let rd := w.extractLsb' 21 5
  let ra := w.extractLsb' 16 5
  let rb := w.extractLsb' 11 5
  let sc := scopeOf (w.extractLsb' 4 3)
  let o := w.extractLsb' 2 2
  let sz := w.getLsbD 1
  let z := !w.getLsbD 0
  match (w.extractLsb' 7 4).toNat with
  | 0 => need z (.amoadd sz sc (ordOf o) rd ra rb)
  | 1 => need z (.amoand sz sc (ordOf o) rd ra rb)
  | 2 => need z (.amoor sz sc (ordOf o) rd ra rb)
  | 3 => need z (.amoxor sz sc (ordOf o) rd ra rb)
  | 4 => need z (.amomin sz sc (ordOf o) rd ra rb)
  | 5 => need z (.amomax sz sc (ordOf o) rd ra rb)
  | 6 => need z (.amominu sz sc (ordOf o) rd ra rb)
  | 7 => need z (.amomaxu sz sc (ordOf o) rd ra rb)
  | 8 => need z (.amoswap sz sc (ordOf o) rd ra rb)
  | 9 => need z (.amofadd sz sc (ordOf o) rd ra rb)
  | 10 => need z (.amocas sz sc (ordOf o) rd ra rb)
  | 11 => if o = 1 then need (z && rb = 0) (.ldaq sz sc rd ra) else .error .fieldValue
  | 12 => if o = 2 then need (z && rd = 0) (.strl sz sc ra rb) else .error .fieldValue
  | _ => .error .sub

/-- SYNC, major 0x12 (R289). -/
def decodeSync (w : Insn) : Except Reject Instr :=
  let rd := w.extractLsb' 21 5
  let ra := w.extractLsb' 16 5
  let rb := w.extractLsb' 11 5
  let m := w.extractLsb' 0 5
  match (w.extractLsb' 5 6).toNat with
  | 0 => need (rd = 0 && !w.getLsbD 3) (.fence (scopeOf (w.extractLsb' 0 3)) rb (w.getLsbD 4) ra)
  | 1 => need (rd = 0 && ra = 0 && rb = 0 && m = 0) .ifence
  | 2 => need (w.extractLsb' 11 3 = 0 && m = 0) (.waitf (w.extractLsb' 14 12))
  | 3 => need (ra = 0 && rb = 0 && m = 0) (.txbegin rd)
  | 4 => need (rd = 0 && ra = 0 && rb = 0 && m = 0) .txend
  | 5 => need (w.extractLsb' 11 7 = 0 && m = 0) (.txabort (w.extractLsb' 18 8))
  | 6 => need (ra = 0 && rb = 0 && m = 0) (.txstat rd)
  | 7 => need (rd = 0 && ra = 0 && rb = 0 && m = 0) .acqh
  | 8 => need (rd = 0 && ra = 0 && rb = 0 && m = 0) .relh
  | _ => .error .sub

/-- FPS, major 0x13 (R148). -/
def decodeFps (w : Insn) : Except Reject Instr :=
  let rd := w.extractLsb' 21 5
  let ra := w.extractLsb' 16 5
  let rb := w.extractLsb' 11 5
  let f := fmtOf2 (w.extractLsb' 4 2)
  let c := w.extractLsb' 1 3
  let z := !w.getLsbD 0
  match (w.extractLsb' 6 5).toNat with
  | 0 => coded (rmOf c) fun rm => need z (.fadd f rm rd ra rb)
  | 1 => coded (rmOf c) fun rm => need z (.fsub f rm rd ra rb)
  | 2 => coded (rmOf c) fun rm => need z (.fmul f rm rd ra rb)
  | 3 => coded (rmOf c) fun rm => need z (.fdiv f rm rd ra rb)
  | 4 => coded (rmOf c) fun rm => need (z && rb = 0) (.fsqrt f rm rd ra)
  | 5 => need (z && c = 0) (.fmin f rd ra rb)
  | 6 => need (z && c = 0) (.fmax f rd ra rb)
  | 7 => coded (sgnOpOf c) fun op => need z (.fsgn f op rd ra rb)
  | 8 => coded (cmpOpOf c) fun op => need z (.fcmp f op rd ra rb)
  | 9 => need (z && c = 0 && rb = 0) (.fclass f rd ra)
  | _ => .error .sub

/-- FMA, major 0x14 (R154). -/
def decodeFma (w : Insn) : Except Reject Instr :=
  let rd := w.extractLsb' 21 5
  let ra := w.extractLsb' 16 5
  let rb := w.extractLsb' 11 5
  let rc := w.extractLsb' 6 5
  coded (rmOf (w.extractLsb' 0 3)) fun rm =>
  .ok (.fma (w.getLsbD 5) (w.getLsbD 4) (w.getLsbD 3) rm rd ra rb rc)

/-- VFMA, major 0x17 (R160). -/
def decodeVfma (w : Insn) : Except Reject Instr :=
  let rd := w.extractLsb' 21 5
  let ra := w.extractLsb' 16 5
  let rb := w.extractLsb' 11 5
  let rc := w.extractLsb' 6 5
  coded (rmOf (w.extractLsb' 0 3)) fun rm =>
  .ok (.vfma (w.getLsbD 5) (w.getLsbD 4) (w.getLsbD 3) rm rd ra rb rc)

/-- VINT, major 0x15 (R155 to R158). -/
def decodeVint (w : Insn) : Except Reject Instr :=
  let rd := w.extractLsb' 21 5
  let ra := w.extractLsb' 16 5
  let rb := w.extractLsb' 11 5
  let q := w.extractLsb' 0 3
  let e := w.extractLsb' 3 4
  match (w.extractLsb' 7 4).toNat with
  | 0 => coded (elemTyOf e) fun et => .ok (.vadd et q rd ra rb)
  | 1 => coded (elemTyOf e) fun et => .ok (.vsub et q rd ra rb)
  | 2 => coded (elemTyOf e) fun et => .ok (.vmul et q rd ra rb)
  | 3 => coded (elemTyOf e) fun et => .ok (.vmin et q rd ra rb)
  | 4 => coded (elemTyOf e) fun et => .ok (.vmax et q rd ra rb)
  | 5 => if e.toNat < 4 then .ok (.vlog (logOpOf (w.extractLsb' 3 2)) q rd ra rb) else .error .fieldValue
  | 6 => coded (elemTyOf e) fun et => .ok (.vsh et q rd ra rb)
  | _ => .error .sub

/-- VFP, major 0x16 (R155, R159, R161). -/
def decodeVfp (w : Insn) : Except Reject Instr :=
  let rd := w.extractLsb' 21 5
  let ra := w.extractLsb' 16 5
  let rb := w.extractLsb' 11 5
  let q := w.extractLsb' 0 3
  let e := w.extractLsb' 3 4
  coded (elemTyOf e) fun et =>
  match (w.extractLsb' 7 4).toNat with
  | 0 => .ok (.vfadd et q rd ra rb)
  | 1 => .ok (.vfsub et q rd ra rb)
  | 2 => .ok (.vfmul et q rd ra rb)
  | 3 => .ok (.vfmin et q rd ra rb)
  | 4 => .ok (.vfmax et q rd ra rb)
  | 5 => .ok (.vfcmp et q rd ra rb)
  | 6 => .ok (.vcmp et q rd ra rb)
  | _ => .error .sub

/-- VMISC, major 0x18 (R155, R162 to R167). -/
def decodeVmisc (w : Insn) : Except Reject Instr :=
  let rd := w.extractLsb' 21 5
  let ra := w.extractLsb' 16 5
  let rb := w.extractLsb' 11 5
  let q := w.extractLsb' 0 3
  let e := w.extractLsb' 3 4
  coded (elemTyOf e) fun et =>
  match (w.extractLsb' 7 4).toNat with
  | 0 => .ok (.vsel et q rd ra rb)
  | 1 => need (rb = 0) (.vsplat et q rd ra)
  | 2 => need (q = 0) (.vext et rd ra rb)
  | 3 => need (q = 0) (.vins et rd ra rb)
  | 4 => .ok (.vperm et q rd ra rb)
  | 5 => if rb.toNat < 3 then coded (redOpOf (w.extractLsb' 11 2)) fun op => .ok (.vred et op q rd ra)
         else .error .fieldValue
  | 6 => .ok (.vdot et q rd ra rb)
  | _ => .error .sub

/-- VMEM, major 0x19 (R155, R168). -/
def decodeVmem (w : Insn) : Except Reject Instr :=
  let rd := w.extractLsb' 21 5
  let ra := w.extractLsb' 16 5
  let rb := w.extractLsb' 11 5
  let q := w.extractLsb' 0 3
  let e := w.extractLsb' 3 4
  coded (elemTyOf e) fun et =>
  match (w.extractLsb' 7 4).toNat with
  | 0 => .ok (.vld et q rd ra rb)
  | 1 => .ok (.vst et q rd ra rb)
  | 2 => .ok (.vlds et q rd ra rb)
  | 3 => .ok (.vgath et q rd ra rb)
  | 4 => .ok (.vscat et q rd ra rb)
  | _ => .error .sub

/-- LANE, major 0x1A (R155, R171 to R174). -/
def decodeLane (w : Insn) : Except Reject Instr :=
  let rd := w.extractLsb' 21 5
  let ra := w.extractLsb' 16 5
  let rb := w.extractLsb' 11 5
  let q := w.extractLsb' 0 3
  let e := w.extractLsb' 3 4
  coded (elemTyOf e) fun et =>
  match (w.extractLsb' 7 4).toNat with
  | 0 => .ok (.lshfl et q rd ra rb)
  | 1 => .ok (.lbcast et q rd ra rb)
  | 2 => .ok (.lrot et q rd ra rb)
  | 3 => coded (redOpOf (w.extractLsb' 11 2)) fun op => need (w.extractLsb' 13 3 = 0) (.lred et op q rd ra)
  | 4 => coded (redOpOf (w.extractLsb' 11 2)) fun op =>
         need (w.extractLsb' 14 2 = 0) (.lscan et (w.getLsbD 13) op q rd ra)
  | 5 => coded (voteKindOf rb) fun k => need (q = 0 && e = 0) (.vote k rd ra)
  | _ => .error .sub

/-- CVT, major 0x1B (R175). -/
def decodeCvt (w : Insn) : Except Reject Instr :=
  let rd := w.extractLsb' 21 5
  let ra := w.extractLsb' 16 5
  let rb := w.extractLsb' 11 5
  match (w.extractLsb' 9 2).toNat with
  | 0 => coded (elemTyOf (w.extractLsb' 5 4)) fun dst => coded (elemTyOf (w.extractLsb' 11 4)) fun src =>
         coded (rmOf (w.extractLsb' 2 3)) fun rm =>
         need (!w.getLsbD 15 && w.extractLsb' 0 2 = 0) (.cvt dst src rm rd ra)
  | 1 => coded (fmtOf3 (w.extractLsb' 6 3)) fun dst => coded (fmtOf3 (w.extractLsb' 3 3)) fun src =>
         coded (rmOf (w.extractLsb' 0 3)) fun rm =>
         .ok (.vcvt dst src rm (w.extractLsb' 13 3) (w.extractLsb' 11 2) rd ra)
  | 2 => coded (scDstOf (w.extractLsb' 5 2)) fun dst => coded (scSrcOf (w.extractLsb' 7 2)) fun src =>
         coded (rmOf (w.extractLsb' 2 3)) fun rm =>
         .ok (.vcvtsc dst src rm (w.extractLsb' 0 2) rd ra rb)
  | _ => coded (elemTyOf (w.extractLsb' 5 4)) fun dst => coded (elemTyOf (w.extractLsb' 11 4)) fun src =>
         coded (rmOf (w.extractLsb' 2 3)) fun rm =>
         need (!w.getLsbD 15) (.vcvtus dst src rm (w.extractLsb' 0 2) rd ra)

/-- SFU, major 0x1C (R181). -/
def decodeSfu (w : Insn) : Except Reject Instr :=
  let rd := w.extractLsb' 21 5
  let ra := w.extractLsb' 16 5
  let z := w.extractLsb' 11 5 = 0
  let s := z && w.extractLsb' 0 7 = 0
  let q := w.extractLsb' 0 3
  let e := w.extractLsb' 3 4
  match (w.extractLsb' 8 3).toNat, w.getLsbD 7 with
  | 0, false => need s (.exp2 rd ra)
  | 0, true => coded (elemTyOf e) fun et => need z (.exp2V et q rd ra)
  | 1, false => need s (.log2 rd ra)
  | 1, true => coded (elemTyOf e) fun et => need z (.log2V et q rd ra)
  | 2, false => need s (.rcp rd ra)
  | 2, true => coded (elemTyOf e) fun et => need z (.rcpV et q rd ra)
  | 3, false => need s (.rsq rd ra)
  | 3, true => coded (elemTyOf e) fun et => need z (.rsqV et q rd ra)
  | 4, false => need s (.sin rd ra)
  | 4, true => coded (elemTyOf e) fun et => need z (.sinV et q rd ra)
  | 5, false => need s (.cos rd ra)
  | 5, true => coded (elemTyOf e) fun et => need z (.cosV et q rd ra)
  | _, _ => .error .sub

/-- UNI, major 0x1D (R182). -/
def decodeUni (w : Insn) : Except Reject Instr :=
  let rd := w.extractLsb' 21 5
  let ra := w.extractLsb' 16 5
  let z15 := w.extractLsb' 3 13 = 0
  let kd := w.extractLsb' 21 4
  let ka := w.extractLsb' 16 4
  let kb := w.extractLsb' 11 4
  let kdz := !w.getLsbD 25
  let kaz := !w.getLsbD 20
  let kbz := !w.getLsbD 15
  let qdz := w.extractLsb' 24 2 = 0
  let qd := w.extractLsb' 21 3
  match (w.extractLsb' 0 3).toNat with
  | 0 => coded (kOpOf (w.extractLsb' 7 4)) fun op =>
         need (kdz && kaz && kbz && w.extractLsb' 3 4 = 0) (.kalu op kd ka kb)
  | 1 => need kdz (.kli kd (w.extractLsb' 3 18))
  | 2 => need (kaz && z15) (.kget rd ka)
  | 3 => need (kdz && z15) (.kput kd ra)
  | 4 => coded (kCondOf (w.extractLsb' 18 3)) fun c => need kdz (.kbr c kd (w.extractLsb' 3 15))
  | 5 => coded (qOpOf (w.extractLsb' 7 4)) fun op =>
         need (qdz && w.extractLsb' 19 2 = 0 && w.extractLsb' 14 2 = 0 && w.extractLsb' 3 4 = 0)
           (.qlog op qd (w.extractLsb' 16 3) (w.extractLsb' 11 3))
  | 6 => if w.getLsbD 6 then need (qdz && w.extractLsb' 7 9 = 0 && w.extractLsb' 3 3 = 0) (.qfromS qd ra)
         else coded (elemTyOf (w.extractLsb' 12 4)) fun et =>
              need (qdz && w.extractLsb' 3 3 = 0) (.qfrom et (w.extractLsb' 7 5) qd ra)
  | _ => need (w.extractLsb' 19 2 = 0 && z15) (.qto rd (w.extractLsb' 16 3))

/-- MODE, major 0x1E (R188, R232). -/
def decodeMode (w : Insn) : Except Reject Instr :=
  let rd := w.extractLsb' 21 5
  let z := w.extractLsb' 11 10 = 0
  let m := w.extractLsb' 0 5
  match (w.extractLsb' 5 6).toNat with
  | 0 => coded (fsizeOf (w.extractLsb' 0 2)) fun f => need (rd = 0 && z && w.extractLsb' 2 3 = 0) (.fuse f)
  | 1 => need (rd = 0 && z && m = 0) .split
  | 2 => need (rd = 0 && z && m = 0) .rejoin
  | 3 => need (rd = 0 && z) (.pcfg (dirOf (w.extractLsb' 3 2)) (w.getLsbD 2) (topoOf (w.extractLsb' 0 2)))
  | 4 => need (z && w.extractLsb' 0 3 = 0) (.pqry rd (dirOf (w.extractLsb' 3 2)))
  | 5 => need (rd = 0 && z && !w.getLsbD 4) (.pwaite (w.extractLsb' 0 4))
  | _ => .error .sub

/-- MMA, major 0x1F (R211, R220). -/
def decodeMma (w : Insn) : Except Reject Instr :=
  let mrow := w.extractLsb' 24 2
  let acc := w.extractLsb' 21 3
  let asel := w.extractLsb' 16 5
  let bsel := w.extractLsb' 11 5
  let ty := w.extractLsb' 2 3
  let b1 := w.getLsbD 1
  let b0 := w.getLsbD 0
  match (w.extractLsb' 5 6).toNat with
  | 0 => coded (mtypeOf ty) fun t => coded (aselOf asel) fun a => coded (bselOf bsel) fun b =>
         .ok (.mma t b1 b0 mrow acc a b)
  | 1 => coded (bselOf bsel) fun b =>
         need (w.extractLsb' 19 2 = 0 && !w.getLsbD 16 && ty = 0)
           (.mmas b1 b0 mrow acc (w.getLsbD 18) (w.getLsbD 17) b)
  | 2 => coded (bselOf bsel) fun b =>
         need (w.extractLsb' 19 2 = 0 && w.extractLsb' 16 2 = 0 && ty = 0 && !b0) (.mres b1 mrow acc (w.getLsbD 18) b)
  | 3 => coded (mtypeOf ty) fun t =>
         if b0 then need (w.extractLsb' 22 4 = 0) (.mplanS t b1 (w.getLsbD 21) asel bsel)
         else need (w.extractLsb' 22 4 = 0 && w.extractLsb' 18 3 = 0)
           (.mplan t b1 (w.getLsbD 21) (w.extractLsb' 16 2) bsel)
  | _ => .error .sub

/-- MAT, major 0x20 (R214). -/
def decodeMat (w : Insn) : Except Reject Instr :=
  let rd := w.extractLsb' 21 5
  let ra := w.extractLsb' 16 5
  let rb := w.extractLsb' 11 5
  let mrow := w.extractLsb' 24 2
  let acc := w.extractLsb' 21 3
  let m := w.extractLsb' 0 5
  match (w.extractLsb' 5 6).toNat with
  | 0 => need (ra = 0 && rb = 0 && m = 0) (.mzacc mrow acc)
  | 1 => need (m = 0) (.mldacc mrow acc ra rb)
  | 2 => coded (staccTyOf (w.extractLsb' 2 3)) fun t => .ok (.mstacc t (staccRmOf (w.extractLsb' 0 2)) mrow acc ra rb)
  | 3 => need (!w.getLsbD 25 && !w.getLsbD 23 && w.extractLsb' 13 3 = 0 && w.extractLsb' 1 4 = 0)
           (.mldob (w.getLsbD 24) (w.extractLsb' 21 2) (w.extractLsb' 11 2) (w.getLsbD 0) ra)
  | 4 => need (w.extractLsb' 17 4 = 0 && rb = 0 && w.extractLsb' 1 4 = 0) (.mstat (w.getLsbD 0) (w.getLsbD 16) rd)
  | 5 => need (w.extractLsb' 22 4 = 0 && rb = 0 && m = 0) (.mscl (w.getLsbD 21) ra)
  | _ => .error .sub

/-- KEY, major 0x21 (R247). -/
def decodeKey (w : Insn) : Except Reject Instr :=
  let rd := w.extractLsb' 21 5
  let ra := w.extractLsb' 16 5
  let rb := w.extractLsb' 11 5
  let kt := w.extractLsb' 0 2
  let c := w.getLsbD 2
  let z := w.extractLsb' 3 2 = 0
  match (w.extractLsb' 5 6).toNat with
  | 0 => need (z && !c && rd = 0) (.ktclaim kt ra rb)
  | 1 => need (z && !c && rd = 0 && ra = 0 && rb = 0) (.ktfree kt)
  | 2 => need (z && !c) (.ktins kt rd ra rb)
  | 3 => need (z && !c && rb = 0) (.ktprb kt rd ra)
  | 4 => need (z && !c && rb = 0) (.ktdel kt rd ra)
  | 5 => need (z && !c) (.ktacc kt rd ra rb)
  | 6 => need (z && rb = 0) (.ktdrn kt c rd ra)
  | 7 => if rb.toNat < 4 then need (z && !c && ra = 0) (.ktstat kt (w.extractLsb' 11 2) rd) else .error .fieldValue
  | _ => .error .sub

/-- ENG, major 0x22 (R312). -/
def decodeEng (w : Insn) : Except Reject Instr :=
  let rd := w.extractLsb' 21 5
  let ra := w.extractLsb' 16 5
  let rb := w.extractLsb' 11 5
  let m := w.extractLsb' 0 5
  match (w.extractLsb' 5 6).toNat with
  | 0 => need (rb = 0 && w.extractLsb' 1 4 = 0) (.enq (w.getLsbD 0) rd ra)
  | 1 => need (rb = 0 && m = 0) (.deq rd ra)
  | 2 => if rb.toNat < 2 then need (m = 0) (.eqry (w.getLsbD 11) rd ra) else .error .fieldValue
  | 3 => need (rd = 0 && m = 0) (.stginit ra rb)
  | 4 => need (rd = 0 && m = 0) (.stgexp ra rb)
  | 5 => need (m = 0) (.stgarv rd ra rb)
  | 6 => need (m = 0) (.stgwait rd ra rb)
  | 7 => need (m = 0) (.stgtry rd ra rb)
  | 8 => need (rd = 0 && m = 0) (.semsig ra rb)
  | 9 => need (m = 0) (.semwait rd ra rb)
  | 10 => need (m = 0) (.semtry rd ra rb)
  | _ => .error .sub

/-- MSG, major 0x23 (R312). -/
def decodeMsg (w : Insn) : Except Reject Instr :=
  let rd := w.extractLsb' 21 5
  let ra := w.extractLsb' 16 5
  let rb := w.extractLsb' 11 5
  let m := w.extractLsb' 0 5
  let hb := w.extractLsb' 0 4
  let e := w.getLsbD 4
  match (w.extractLsb' 5 6).toNat with
  | 0 => need (rd = 0 && m = 0) (.send ra rb)
  | 1 => need (ra = 0 && rb = 0 && m = 0) (.recv rd)
  | 2 => need (rd = 0 && ra = 0 && rb = 0 && m = 0) .waitmsg
  | 3 => need (ra = 0 && rb = 0 && m = 0) (.mbqry rd)
  | 4 => need (rd = 0) (.hbinit e hb ra rb)
  | 5 => need (ra = 0 && rb = 0 && !e) (.hbarv hb rd)
  | 6 => need (ra = 0 && !e) (.hbwait hb rd rb)
  | 7 => need (ra = 0 && rb = 0 && !e) (.hbsync hb rd)
  | 8 => need (rd = 0 && ra = 0 && rb = 0 && !e) (.hbinv hb)
  | 9 => need (ra = 0 && rb = 0 && !e) (.hbqry hb rd)
  | _ => .error .sub

/-- TASK, major 0x24 (R367). -/
def decodeTask (w : Insn) : Except Reject Instr :=
  let rd := w.extractLsb' 21 5
  let ra := w.extractLsb' 16 5
  let z := w.extractLsb' 11 5 = 0 && w.extractLsb' 0 5 = 0
  match (w.extractLsb' 5 6).toNat with
  | 0 => need z (.launch rd ra)
  | 1 => need (z && ra = 0) (.joinwait rd)
  | 2 => need z (.depalloc rd ra)
  | 3 => need (z && rd = 0) (.depsig ra)
  | 4 => need z (.depfree rd ra)
  | 5 => need (z && rd = 0 && ra = 0) .yield
  | 6 => need (z && rd = 0 && ra = 0) .exit
  | _ => .error .sub

/-- SYS, major 0x25 (R189). -/
def decodeSys (w : Insn) : Except Reject Instr :=
  let rd := w.extractLsb' 21 5
  let ra := w.extractLsb' 16 5
  let rb := w.extractLsb' 11 5
  let n := w.extractLsb' 4 12
  let n7 := w.extractLsb' 4 7 = 0
  match (w.extractLsb' 0 4).toNat with
  | 0 => need (ra = 0) (.csrr n rd)
  | 1 => need (rd = 0) (.csrw n ra)
  | 2 => need (rd = 0 && ra = 0) (.trap n)
  | 3 => need (rd = 0 && ra = 0 && n = 0) .tret
  | 4 => need (ra = 0) (.featq (w.extractLsb' 12 4) (w.extractLsb' 4 8) rd)
  | 5 => need (rd = 0 && ra = 0) (.brk n)
  | 6 => need (rd = 0 && n7) (.tlbw ra rb)
  | 7 => need (rd = 0 && n7) (.tlbinv ra rb)
  | 8 => need (rd = 0 && n = 0) (.ctxsv ra)
  | 9 => need (rd = 0 && n = 0) (.ctxld ra)
  | _ => .error .sub

/-- CLAUSE, major 0x3E (R59, R71). -/
def decodeClause (w : Insn) : Except Reject Instr :=
  need (w.extractLsb' 0 3 = 0)
    (.clause (w.extractLsb' 14 12) (w.extractLsb' 10 4) (w.extractLsb' 6 4) (w.extractLsb' 3 3))

/-- The instruction that a word's fields name, before the values accepted are checked (R66). -/
def decodeFields (w : Insn) : Except Reject Instr :=
  let rd := w.extractLsb' 21 5
  let ra := w.extractLsb' 16 5
  let imm := w.extractLsb' 0 16
  match (w.extractLsb' 26 6).toNat with
  | 0x01 => decodeOpr w
  | 0x02 => .ok (.addi rd ra imm)
  | 0x03 => .ok (.andi rd ra imm)
  | 0x04 => .ok (.ori rd ra imm)
  | 0x05 => .ok (.xori rd ra imm)
  | 0x06 => .ok (.slti rd ra imm)
  | 0x07 => .ok (.sltiu rd ra imm)
  | 0x08 => decodeShi w
  | 0x09 => need (ra = 0) (.lui rd imm)
  | 0x0A => need (ra = 0) (.auipc rd imm)
  | 0x0B => decodeBr w
  | 0x0C => .ok (.jal rd (w.extractLsb' 0 21))
  | 0x0D => .ok (.jalr rd ra imm)
  | 0x0E => .ok (.jpt (w.extractLsb' 0 26))
  | 0x0F => decodeLoad w
  | 0x10 => decodeStore w
  | 0x11 => decodeAtom w
  | 0x12 => decodeSync w
  | 0x13 => decodeFps w
  | 0x14 => decodeFma w
  | 0x15 => decodeVint w
  | 0x16 => decodeVfp w
  | 0x17 => decodeVfma w
  | 0x18 => decodeVmisc w
  | 0x19 => decodeVmem w
  | 0x1A => decodeLane w
  | 0x1B => decodeCvt w
  | 0x1C => decodeSfu w
  | 0x1D => decodeUni w
  | 0x1E => decodeMode w
  | 0x1F => decodeMma w
  | 0x20 => decodeMat w
  | 0x21 => decodeKey w
  | 0x22 => decodeEng w
  | 0x23 => decodeMsg w
  | 0x24 => decodeTask w
  | 0x25 => decodeSys w
  | 0x3E => decodeClause w
  | _ => .error .major

/-- The decoder (R65): a word is an instruction only if its fields name one and hold values that it accepts. -/
def decode (w : Insn) : Except Reject Instr :=
  match decodeFields w with
  | .error r => .error r
  | .ok i => if i.wf then .ok i else .error .fieldValue

/-- The decoder on bytes as memory holds them, little-endian (R58, R10): four bytes, and the rest of the list. -/
def decodeBytes : List Byte → Except Reject (Instr × List Byte)
  | b0 :: b1 :: b2 :: b3 :: rest =>
    match decode (b3 ++ b2 ++ b1 ++ b0) with
    | .ok i => .ok (i, rest)
    | .error r => .error r
  | _ => .error .fieldValue

/-- The instruction that the decoder reads from a word of spec/opcode_table.json. Every instruction has 32 bits. -/
def decodeTableWord (nbits w : Nat) : Option Instr :=
  if nbits = 0 then none
  else match decode (BitVec.ofNat 32 (w % 2 ^ nbits)) with
    | .ok i => some i
    | .error _ => none

/-! ### The encoder -/

/-- One bit. -/
def bit (b : Bool) : BitVec 1 := BitVec.ofBool b

/-- RRF words (R59). -/
def rrf (op : BitVec 6) (rd ra rb : R5) (fn : BitVec 11) : Insn := op ++ rd ++ ra ++ rb ++ fn

/-- RRF words with FN-A (R64). -/
def rrfA (op : BitVec 6) (rd ra rb : R5) (sub : BitVec 6) (mod : BitVec 5) : Insn := rrf op rd ra rb (sub ++ mod)

/-- RRF words with FN-V (R64). -/
def rrfV (op : BitVec 6) (rd ra rb : R5) (sub et : BitVec 4) (qp : BitVec 3) : Insn := rrf op rd ra rb (sub ++ et ++ qp)

/-- RRF words with FN-F (R64). -/
def rrfF (rd ra rb : R5) (sub : BitVec 5) (f : Fmt) (c : BitVec 3) : Insn :=
  rrf 0x13 rd ra rb (sub ++ f.code.setWidth 2 ++ c ++ 0#1)

/-- I16 words (R59). -/
def i16 (op : BitVec 6) (rd ra : R5) (imm : BitVec 16) : Insn := op ++ rd ++ ra ++ imm

/-- SHI words (R137). -/
def shi (sub : BitVec 2) (w : Bool) (rd ra : R5) (c : BitVec 6) : Insn :=
  i16 0x08 rd ra (sub ++ bit w ++ 0#7 ++ c)

/-- B words (R59). -/
def brw (c : BitVec 3) (ra rb : R5) (o : BitVec 13) : Insn := 0x0B#6 ++ ra ++ rb ++ c ++ o

/-- M words (R59). -/
def mw (op : BitVec 6) (size : BitVec 3) (h : Hint) (rd ra : R5) (i : BitVec 11) : Insn :=
  op ++ rd ++ ra ++ size ++ h.code ++ i

/-- A words (R59). -/
def aw (aop : BitVec 4) (sz : Bool) (sc : Scope) (o : BitVec 2) (rd ra rb : R5) : Insn :=
  0x11#6 ++ rd ++ ra ++ rb ++ aop ++ sc.code ++ o ++ bit sz ++ 0#1

/-- RRRR words (R59). -/
def rrrr (op : BitVec 6) (p n1 n0 : Bool) (rm : Rm) (rd ra rb rc : R5) : Insn :=
  op ++ rd ++ ra ++ rb ++ rc ++ bit p ++ bit n1 ++ bit n0 ++ rm.code

/-- SFU words (R181). -/
def sfuw (sub : BitVec 3) (v : Bool) (rd ra : R5) (et : BitVec 4) (qp : BitVec 3) : Insn :=
  rrf 0x1C rd ra 0 (sub ++ bit v ++ et ++ qp)

/-- SYS words (R189). -/
def sysw (sub : BitVec 4) (rd ra : R5) (n : BitVec 12) : Insn := 0x25#6 ++ rd ++ ra ++ n ++ sub

/-- The word of an instruction; an event has none. -/
def encode : Instr → Option Insn
  | .add w rd ra rb => some (rrf 0x01 rd ra rb (0#6 ++ 0#4 ++ bit w))
  | .sub w rd ra rb => some (rrf 0x01 rd ra rb (1#6 ++ 0#4 ++ bit w))
  | .and w rd ra rb => some (rrf 0x01 rd ra rb (2#6 ++ 0#4 ++ bit w))
  | .or w rd ra rb => some (rrf 0x01 rd ra rb (3#6 ++ 0#4 ++ bit w))
  | .xor w rd ra rb => some (rrf 0x01 rd ra rb (4#6 ++ 0#4 ++ bit w))
  | .sll w rd ra rb => some (rrf 0x01 rd ra rb (5#6 ++ 0#4 ++ bit w))
  | .srl w rd ra rb => some (rrf 0x01 rd ra rb (6#6 ++ 0#4 ++ bit w))
  | .sra w rd ra rb => some (rrf 0x01 rd ra rb (7#6 ++ 0#4 ++ bit w))
  | .rotl w rd ra rb => some (rrf 0x01 rd ra rb (8#6 ++ 0#4 ++ bit w))
  | .slt w rd ra rb => some (rrf 0x01 rd ra rb (9#6 ++ 0#4 ++ bit w))
  | .sltu w rd ra rb => some (rrf 0x01 rd ra rb (10#6 ++ 0#4 ++ bit w))
  | .min w rd ra rb => some (rrf 0x01 rd ra rb (11#6 ++ 0#4 ++ bit w))
  | .max w rd ra rb => some (rrf 0x01 rd ra rb (12#6 ++ 0#4 ++ bit w))
  | .minu w rd ra rb => some (rrf 0x01 rd ra rb (13#6 ++ 0#4 ++ bit w))
  | .maxu w rd ra rb => some (rrf 0x01 rd ra rb (14#6 ++ 0#4 ++ bit w))
  | .mul w rd ra rb => some (rrf 0x01 rd ra rb (15#6 ++ 0#4 ++ bit w))
  | .mulh w rd ra rb => some (rrf 0x01 rd ra rb (16#6 ++ 0#4 ++ bit w))
  | .mulhu w rd ra rb => some (rrf 0x01 rd ra rb (17#6 ++ 0#4 ++ bit w))
  | .div w rd ra rb => some (rrf 0x01 rd ra rb (18#6 ++ 0#4 ++ bit w))
  | .divu w rd ra rb => some (rrf 0x01 rd ra rb (19#6 ++ 0#4 ++ bit w))
  | .rem w rd ra rb => some (rrf 0x01 rd ra rb (20#6 ++ 0#4 ++ bit w))
  | .remu w rd ra rb => some (rrf 0x01 rd ra rb (21#6 ++ 0#4 ++ bit w))
  | .clz w rd ra => some (rrf 0x01 rd ra 0 (22#6 ++ 0#4 ++ bit w))
  | .ctz w rd ra => some (rrf 0x01 rd ra 0 (23#6 ++ 0#4 ++ bit w))
  | .popc w rd ra => some (rrf 0x01 rd ra 0 (24#6 ++ 0#4 ++ bit w))
  | .addi rd ra i => some (i16 0x02 rd ra i)
  | .andi rd ra i => some (i16 0x03 rd ra i)
  | .ori rd ra i => some (i16 0x04 rd ra i)
  | .xori rd ra i => some (i16 0x05 rd ra i)
  | .slti rd ra i => some (i16 0x06 rd ra i)
  | .sltiu rd ra i => some (i16 0x07 rd ra i)
  | .slli w rd ra c => some (shi 0 w rd ra c)
  | .srli w rd ra c => some (shi 1 w rd ra c)
  | .srai w rd ra c => some (shi 2 w rd ra c)
  | .lui rd i => some (i16 0x09 rd 0 i)
  | .auipc rd i => some (i16 0x0A rd 0 i)
  | .beq ra rb o => some (brw 0 ra rb o)
  | .bne ra rb o => some (brw 1 ra rb o)
  | .blt ra rb o => some (brw 2 ra rb o)
  | .bge ra rb o => some (brw 3 ra rb o)
  | .bltu ra rb o => some (brw 4 ra rb o)
  | .bgeu ra rb o => some (brw 5 ra rb o)
  | .jal rd o => some (0x0C#6 ++ rd ++ o)
  | .jalr rd ra i => some (i16 0x0D rd ra i)
  | .jpt o => some (0x0E#6 ++ o)
  | .lb h rd ra i => some (mw 0x0F 0 h rd ra i)
  | .lh h rd ra i => some (mw 0x0F 1 h rd ra i)
  | .lw h rd ra i => some (mw 0x0F 2 h rd ra i)
  | .ld h rd ra i => some (mw 0x0F 3 h rd ra i)
  | .lbu h rd ra i => some (mw 0x0F 4 h rd ra i)
  | .lhu h rd ra i => some (mw 0x0F 5 h rd ra i)
  | .lwu h rd ra i => some (mw 0x0F 6 h rd ra i)
  | .sb h rs ra i => some (mw 0x10 0 h rs ra i)
  | .sh h rs ra i => some (mw 0x10 1 h rs ra i)
  | .sw h rs ra i => some (mw 0x10 2 h rs ra i)
  | .sd h rs ra i => some (mw 0x10 3 h rs ra i)
  | .amoadd sz sc o rd ra rb => some (aw 0 sz sc o.code rd ra rb)
  | .amoand sz sc o rd ra rb => some (aw 1 sz sc o.code rd ra rb)
  | .amoor sz sc o rd ra rb => some (aw 2 sz sc o.code rd ra rb)
  | .amoxor sz sc o rd ra rb => some (aw 3 sz sc o.code rd ra rb)
  | .amomin sz sc o rd ra rb => some (aw 4 sz sc o.code rd ra rb)
  | .amomax sz sc o rd ra rb => some (aw 5 sz sc o.code rd ra rb)
  | .amominu sz sc o rd ra rb => some (aw 6 sz sc o.code rd ra rb)
  | .amomaxu sz sc o rd ra rb => some (aw 7 sz sc o.code rd ra rb)
  | .amoswap sz sc o rd ra rb => some (aw 8 sz sc o.code rd ra rb)
  | .amofadd sz sc o rd ra rb => some (aw 9 sz sc o.code rd ra rb)
  | .amocas sz sc o rd ra rb => some (aw 10 sz sc o.code rd ra rb)
  | .ldaq sz sc rd ra => some (aw 11 sz sc 1 rd ra 0)
  | .strl sz sc ra rb => some (aw 12 sz sc 2 0 ra rb)
  | .fence sc k io ra => some (rrfA 0x12 0 ra k 0 (bit io ++ 0#1 ++ sc.code))
  | .ifence => some (rrfA 0x12 0 0 0 1 0)
  | .waitf m => some (0x12#6 ++ m ++ 0#3 ++ 2#6 ++ 0#5)
  | .txbegin rd => some (rrfA 0x12 rd 0 0 3 0)
  | .txend => some (rrfA 0x12 0 0 0 4 0)
  | .txabort c => some (0x12#6 ++ c ++ 0#7 ++ 5#6 ++ 0#5)
  | .txstat rd => some (rrfA 0x12 rd 0 0 6 0)
  | .acqh => some (rrfA 0x12 0 0 0 7 0)
  | .relh => some (rrfA 0x12 0 0 0 8 0)
  | .fadd f rm rd ra rb => some (rrfF rd ra rb 0 f rm.code)
  | .fsub f rm rd ra rb => some (rrfF rd ra rb 1 f rm.code)
  | .fmul f rm rd ra rb => some (rrfF rd ra rb 2 f rm.code)
  | .fdiv f rm rd ra rb => some (rrfF rd ra rb 3 f rm.code)
  | .fsqrt f rm rd ra => some (rrfF rd ra 0 4 f rm.code)
  | .fmin f rd ra rb => some (rrfF rd ra rb 5 f 0)
  | .fmax f rd ra rb => some (rrfF rd ra rb 6 f 0)
  | .fsgn f op rd ra rb => some (rrfF rd ra rb 7 f op.code)
  | .fcmp f op rd ra rb => some (rrfF rd ra rb 8 f op.code)
  | .fclass f rd ra => some (rrfF rd ra 0 9 f 0)
  | .fma p n1 n0 rm rd ra rb rc => some (rrrr 0x14 p n1 n0 rm rd ra rb rc)
  | .vadd et q rd ra rb => some (rrfV 0x15 rd ra rb 0 et.code q)
  | .vsub et q rd ra rb => some (rrfV 0x15 rd ra rb 1 et.code q)
  | .vmul et q rd ra rb => some (rrfV 0x15 rd ra rb 2 et.code q)
  | .vmin et q rd ra rb => some (rrfV 0x15 rd ra rb 3 et.code q)
  | .vmax et q rd ra rb => some (rrfV 0x15 rd ra rb 4 et.code q)
  | .vlog op q rd ra rb => some (rrfV 0x15 rd ra rb 5 (0#2 ++ op.code) q)
  | .vsh et q rd ra rb => some (rrfV 0x15 rd ra rb 6 et.code q)
  | .vfadd et q rd ra rb => some (rrfV 0x16 rd ra rb 0 et.code q)
  | .vfsub et q rd ra rb => some (rrfV 0x16 rd ra rb 1 et.code q)
  | .vfmul et q rd ra rb => some (rrfV 0x16 rd ra rb 2 et.code q)
  | .vfmin et q rd ra rb => some (rrfV 0x16 rd ra rb 3 et.code q)
  | .vfmax et q rd ra rb => some (rrfV 0x16 rd ra rb 4 et.code q)
  | .vfcmp et q rd ra rb => some (rrfV 0x16 rd ra rb 5 et.code q)
  | .vcmp et q rd ra rb => some (rrfV 0x16 rd ra rb 6 et.code q)
  | .vfma p n1 n0 rm rd ra rb rc => some (rrrr 0x17 p n1 n0 rm rd ra rb rc)
  | .vsel et q rd ra rb => some (rrfV 0x18 rd ra rb 0 et.code q)
  | .vsplat et q rd ra => some (rrfV 0x18 rd ra 0 1 et.code q)
  | .vext et rd ra rb => some (rrfV 0x18 rd ra rb 2 et.code 0)
  | .vins et rd ra rb => some (rrfV 0x18 rd ra rb 3 et.code 0)
  | .vperm et q rd ra rb => some (rrfV 0x18 rd ra rb 4 et.code q)
  | .vred et op q rd ra => some (rrfV 0x18 rd ra (0#3 ++ op.code) 5 et.code q)
  | .vdot et q rd ra rb => some (rrfV 0x18 rd ra rb 6 et.code q)
  | .vld et q rd ra rb => some (rrfV 0x19 rd ra rb 0 et.code q)
  | .vst et q rd ra rb => some (rrfV 0x19 rd ra rb 1 et.code q)
  | .vlds et q rd ra rb => some (rrfV 0x19 rd ra rb 2 et.code q)
  | .vgath et q rd ra rb => some (rrfV 0x19 rd ra rb 3 et.code q)
  | .vscat et q rd ra rb => some (rrfV 0x19 rd ra rb 4 et.code q)
  | .lshfl et q rd ra rb => some (rrfV 0x1A rd ra rb 0 et.code q)
  | .lbcast et q rd ra rb => some (rrfV 0x1A rd ra rb 1 et.code q)
  | .lrot et q rd ra rb => some (rrfV 0x1A rd ra rb 2 et.code q)
  | .lred et op q rd ra => some (rrfV 0x1A rd ra (0#3 ++ op.code) 3 et.code q)
  | .lscan et x op q rd ra => some (rrfV 0x1A rd ra (0#2 ++ bit x ++ op.code) 4 et.code q)
  | .vote k rd ra => some (rrfV 0x1A rd ra k.code 5 0 0)
  | .cvt dst src rm rd ra => some (rrf 0x1B rd ra (0#1 ++ src.code) (0#2 ++ dst.code ++ rm.code ++ 0#2))
  | .vcvt dst src rm p q rd ra => some (rrf 0x1B rd ra (p ++ q) (1#2 ++ dst.code ++ src.code ++ rm.code))
  | .vcvtsc dst src rm q rd ra rb =>
    some (rrf 0x1B rd ra rb (2#2 ++ src.scSrcCode ++ dst.scDstCode ++ rm.code ++ q))
  | .vcvtus dst src rm p rd ra => some (rrf 0x1B rd ra (0#1 ++ src.code) (3#2 ++ dst.code ++ rm.code ++ p))
  | .exp2 rd ra => some (sfuw 0 false rd ra 0 0)
  | .exp2V et q rd ra => some (sfuw 0 true rd ra et.code q)
  | .log2 rd ra => some (sfuw 1 false rd ra 0 0)
  | .log2V et q rd ra => some (sfuw 1 true rd ra et.code q)
  | .rcp rd ra => some (sfuw 2 false rd ra 0 0)
  | .rcpV et q rd ra => some (sfuw 2 true rd ra et.code q)
  | .rsq rd ra => some (sfuw 3 false rd ra 0 0)
  | .rsqV et q rd ra => some (sfuw 3 true rd ra et.code q)
  | .sin rd ra => some (sfuw 4 false rd ra 0 0)
  | .sinV et q rd ra => some (sfuw 4 true rd ra et.code q)
  | .cos rd ra => some (sfuw 5 false rd ra 0 0)
  | .cosV et q rd ra => some (sfuw 5 true rd ra et.code q)
  | .kalu op kd ka kb => some (rrf 0x1D (0#1 ++ kd) (0#1 ++ ka) (0#1 ++ kb) (op.code ++ 0#4 ++ 0#3))
  | .kli kd i => some (0x1D#6 ++ 0#1 ++ kd ++ i ++ 1#3)
  | .kget rd ka => some (rrf 0x1D rd (0#1 ++ ka) 0 2)
  | .kput kd ra => some (rrf 0x1D (0#1 ++ kd) ra 0 3)
  | .kbr c ka o => some (0x1D#6 ++ 0#1 ++ ka ++ c.code ++ o ++ 4#3)
  | .qlog op qd qa qb => some (rrf 0x1D (0#2 ++ qd) (0#2 ++ qa) (0#2 ++ qb) (op.code ++ 0#4 ++ 5#3))
  | .qfrom et st qd ra => some (0x1D#6 ++ 0#2 ++ qd ++ ra ++ et.code ++ st ++ 0#4 ++ 6#3)
  | .qfromS qd ra => some (0x1D#6 ++ 0#2 ++ qd ++ ra ++ 0#9 ++ 1#1 ++ 0#3 ++ 6#3)
  | .qto rd qa => some (rrf 0x1D rd (0#2 ++ qa) 0 7)
  | .fuse f => some (rrfA 0x1E 0 0 0 0 (0#3 ++ f.code))
  | .split => some (rrfA 0x1E 0 0 0 1 0)
  | .rejoin => some (rrfA 0x1E 0 0 0 2 0)
  | .pcfg dr wr t => some (rrfA 0x1E 0 0 0 3 (dr.code ++ bit wr ++ t.code))
  | .pqry rd dr => some (rrfA 0x1E rd 0 0 4 (dr.code ++ 0#3))
  | .pwaite m => some (rrfA 0x1E 0 0 0 5 (0#1 ++ m))
  | .mma t sc z mrow acc a b => some (rrfA 0x1F (mrow ++ acc) a.code b.code 0 (t.code ++ bit sc ++ bit z))
  | .mmas sc z mrow acc slot t2 b =>
    some (rrfA 0x1F (mrow ++ acc) (0#2 ++ bit slot ++ bit t2 ++ 0#1) b.code 1 (0#3 ++ bit sc ++ bit z))
  | .mres sc mrow acc slot b => some (rrfA 0x1F (mrow ++ acc) (0#2 ++ bit slot ++ 0#2) b.code 2 (0#3 ++ bit sc ++ 0#1))
  | .mplan t l slot k rb => some (rrfA 0x1F (0#4 ++ bit slot) (0#3 ++ k) rb 3 (t.code ++ bit l ++ 0#1))
  | .mplanS t l slot ra rb => some (rrfA 0x1F (0#4 ++ bit slot) ra rb 3 (t.code ++ bit l ++ 1#1))
  | .mzacc mrow acc => some (rrfA 0x20 (mrow ++ acc) 0 0 0 0)
  | .mldacc mrow acc ra rb => some (rrfA 0x20 (mrow ++ acc) ra rb 1 0)
  | .mstacc t rm mrow acc ra rb => some (rrfA 0x20 (mrow ++ acc) ra rb 2 (t.staccCode ++ rm.code.setWidth 2))
  | .mldob k n p all ra => some (rrfA 0x20 (0#1 ++ bit k ++ 0#1 ++ n) ra (0#3 ++ p) 3 (0#4 ++ bit all))
  | .mstat k slot rd => some (rrfA 0x20 rd (0#4 ++ bit slot) 0 4 (0#4 ++ bit k))
  | .mscl k ra => some (rrfA 0x20 (0#4 ++ bit k) ra 0 5 0)
  | .ktclaim kt ra rb => some (rrfA 0x21 0 ra rb 0 (0#3 ++ kt))
  | .ktfree kt => some (rrfA 0x21 0 0 0 1 (0#3 ++ kt))
  | .ktins kt rd ra rb => some (rrfA 0x21 rd ra rb 2 (0#3 ++ kt))
  | .ktprb kt rd ra => some (rrfA 0x21 rd ra 0 3 (0#3 ++ kt))
  | .ktdel kt rd ra => some (rrfA 0x21 rd ra 0 4 (0#3 ++ kt))
  | .ktacc kt rd ra rb => some (rrfA 0x21 rd ra rb 5 (0#3 ++ kt))
  | .ktdrn kt c rd ra => some (rrfA 0x21 rd ra 0 6 (0#2 ++ bit c ++ kt))
  | .ktstat kt sel rd => some (rrfA 0x21 rd 0 (0#3 ++ sel) 7 (0#3 ++ kt))
  | .enq nb rd ra => some (rrfA 0x22 rd ra 0 0 (0#4 ++ bit nb))
  | .deq rd ra => some (rrfA 0x22 rd ra 0 1 0)
  | .eqry sel rd ra => some (rrfA 0x22 rd ra (0#4 ++ bit sel) 2 0)
  | .stginit ra rb => some (rrfA 0x22 0 ra rb 3 0)
  | .stgexp ra rb => some (rrfA 0x22 0 ra rb 4 0)
  | .stgarv rd ra rb => some (rrfA 0x22 rd ra rb 5 0)
  | .stgwait rd ra rb => some (rrfA 0x22 rd ra rb 6 0)
  | .stgtry rd ra rb => some (rrfA 0x22 rd ra rb 7 0)
  | .semsig ra rb => some (rrfA 0x22 0 ra rb 8 0)
  | .semwait rd ra rb => some (rrfA 0x22 rd ra rb 9 0)
  | .semtry rd ra rb => some (rrfA 0x22 rd ra rb 10 0)
  | .send ra rb => some (rrfA 0x23 0 ra rb 0 0)
  | .recv rd => some (rrfA 0x23 rd 0 0 1 0)
  | .waitmsg => some (rrfA 0x23 0 0 0 2 0)
  | .mbqry rd => some (rrfA 0x23 rd 0 0 3 0)
  | .hbinit e hb ra rb => some (rrfA 0x23 0 ra rb 4 (bit e ++ hb))
  | .hbarv hb rd => some (rrfA 0x23 rd 0 0 5 (0#1 ++ hb))
  | .hbwait hb rd rb => some (rrfA 0x23 rd 0 rb 6 (0#1 ++ hb))
  | .hbsync hb rd => some (rrfA 0x23 rd 0 0 7 (0#1 ++ hb))
  | .hbinv hb => some (rrfA 0x23 0 0 0 8 (0#1 ++ hb))
  | .hbqry hb rd => some (rrfA 0x23 rd 0 0 9 (0#1 ++ hb))
  | .launch rd ra => some (rrfA 0x24 rd ra 0 0 0)
  | .joinwait rd => some (rrfA 0x24 rd 0 0 1 0)
  | .depalloc rd ra => some (rrfA 0x24 rd ra 0 2 0)
  | .depsig ra => some (rrfA 0x24 0 ra 0 3 0)
  | .depfree rd ra => some (rrfA 0x24 rd ra 0 4 0)
  | .yield => some (rrfA 0x24 0 0 0 5 0)
  | .exit => some (rrfA 0x24 0 0 0 6 0)
  | .csrr n rd => some (sysw 0 rd 0 n)
  | .csrw n ra => some (sysw 1 0 ra n)
  | .trap c => some (sysw 2 0 0 c)
  | .tret => some (sysw 3 0 0 0)
  | .featq c i rd => some (sysw 4 rd 0 (c ++ i))
  | .brk c => some (sysw 5 0 0 c)
  | .tlbw ra rb => some (sysw 6 0 ra (rb ++ 0#7))
  | .tlbinv ra rb => some (sysw 7 0 ra (rb ++ 0#7))
  | .ctxsv ra => some (sysw 8 0 ra 0)
  | .ctxld ra => some (sysw 9 0 ra 0)
  | .clause wt f1 f2 l => some (0x3E#6 ++ wt ++ f1 ++ f2 ++ l ++ 0#3)
  | .illegalInstruction .. | .groupForm .. | .refusion .. | .lowOccupancySplit .. | .translationWalk ..
  | .faultRecordPost .. | .pendingResult .. | .completionEvent .. | .remoteStoreArrive .. | .remoteStoreAck ..
  | .l1Eviction .. | .epochEnd .. | .txAbort .. | .matrixQueueStart .. | .matrixRetire .. | .portValueArrive ..
  | .portCreditArrive .. | .messageArrive .. | .sendRefusal .. | .taskActivate .. | .taskWatchdog ..
  | .waitWatchdog .. | .critExpiry .. | .copy .. | .copyz .. | .tensor .. | .gather .. | .scatter ..
  | .fillob .. | .mcast .. | .wopen .. | .wclose .. | .mcastPacketArrive .. | .allred .. | .redscat ..
  | .allgath .. | .bcast .. | .collectiveStart .. | .sread .. | .swrite .. | .sflush .. | .storageSubmit ..
  | .storageCompletion .. | .commandComplete .. | .doorbell .. | .launchQueueTake .. | .rangeListStaging ..
  | .dispatchPlace .. | .levelAging .. | .gatherExpiry .. | .joinspinExpiry .. | .workgroupSave ..
  | .workgroupRestore .. | .srseedWrite .. | .featsetWrite .. | .frespRetry .. | .frespKill ..
  | .frespDeliver .. | .preempt .. | .resume .. | .semvalWrite .. | .semvalRead .. | .depvalWrite ..
  | .objectVerify .. | .regkey .. | .delkey .. | .attest .. | .setdev .. | .bindvf .. | .pwrcap .. | .telem ..
  | .aperture .. | .mailboxBadcmd .. | .storageQueueTableWrite .. | .hostWrite .. | .hostRead ..
  | .hostAtomicop .. | .dataFlit .. | .idleFlit .. | .nak .. | .audit .. | .auditDue .. | .portRetrain ..
  | .linkRequestTimeout .. | .jointFailure .. | .powerOn .. | .moduleReset .. | .linkUp .. | .softError ..
  | .arithmeticClockChange .. | .powerLoss .. => none

/-- The bytes of an instruction as memory holds them (R58, R10). -/
def encodeBytes (i : Instr) : Option (List Byte) :=
  (encode i).map fun w =>
    [w.extractLsb' 0 8, w.extractLsb' 8 8, w.extractLsb' 16 8, w.extractLsb' 24 8]

end Sys2Proof
end

