-- ==== Sys2Proof/Config.lean ====
section
/-!
DEFINITION. What an implementation fixes and what the spec leaves open. Constants of the device are plain
numbers; every open value is an opaque constant: nothing can evaluate it, so a statement holds for each value.
-/

namespace Sys2Proof.Config

/-- Columns and rows of the device's mesh (R2). -/
def meshCols : Nat := 36
def meshRows : Nat := 16
/-- Clusters of the device (R2, R5). -/
def clusters : Nat := 576
/-- Bytes of device memory (R194 class 0x2 index 0, R264). -/
def devBytes : Nat := 412316860416
/-- Bytes of one HBM4 stack (R5). -/
def stackBytes : Nat := 51539607552
/-- Bytes of a cluster's SRAM (R5, R18). -/
def sramBytes : Nat := 524288
/-- Bytes of the scratchpad at most (R18, R348). -/
def scratchMax : Nat := 458752
/-- The rated clock in kHz (R4). -/
def ratedKHz : Nat := 1700000

/-- Free value (R129): what a special function delivers before it is held inside its error bound. Log entry 15. -/
opaque sfuRaw : SfuOp → BitVec 32 → BitVec 32
/-- Free value (R370): which of the free dependence slots DEPALLOC takes. Log entry 28. -/
opaque slotPick : Nat → Nat
/-- Free value (R317): for an overlapped byte of a COPY, whether its source byte was read after the copy
wrote it. Log entry 29. -/
opaque copyLate : Nat → Bool
/-- Free value (R328, R331): a byte that the spec calls undefined. Log entry 29. -/
opaque freeByte : Nat → Byte
/-- Free value (R171): the 256 bits that a lane which is not active supplies where an instruction reads its port register,
for a numbered draw, unit, lane and field. Log entry 17. -/
opaque freePort : Nat × Nat → Nat → Nat → Nat → BitVec 256
/-- Free value: a word whose value the spec does not state. Log entry 3. -/
opaque freeWord : Nat → Word
/-- Free value (R385): which member of a disagreeing CONTIG group a translation uses. Log entry 30. -/
opaque contigPick : Nat → Nat
/-- Free value (R275): the die that MIGRATE takes where no workgroup of the launch is placed or would be now. Log
entry 60. -/
opaque diePick : Nat → Nat
/-- Free value (R195): the level of the page that a leaf given to TLBW is taken for, held to what its PA allows. Log
entry 19. -/
opaque leafLevel : Word → Nat
/-- Memory outside the device (R264): what an address of a peer device, of the host or of PCIe peer space holds
until the device or the outside writes it. Log entry 7. -/
opaque outsideByte : Space → Nat → Byte
/-- ML-DSA-87 signing with the device identity key (R418, R419): 4,627 bytes of a signature of the message. Log
entry 32. -/
opaque identitySign : List Byte → Nat → Byte
/-- The device identity public key, 2,592 bytes (R418). Log entry 32. -/
opaque identityKey : Nat → Byte
/-- The Sahnal key whose digest is fused in the device (R416), 2,592 bytes. Log entry 32. -/
opaque sahnalKey : Nat → Byte
/-- The fused minimum version of each firmware stage (R416). Log entry 32. -/
opaque fusedMin : Nat → Nat
/-- Free value (R419): byte `j` of the digest of firmware stage `i`, for a boot whose stages the model was not
given. Log entry 65. -/
opaque fwDigest : Nat → Nat → Byte
/-- Telemetry bytes, of the count of corrected errors (R304) and of counters that the spec does not name (R405). Log
entry 65. -/
opaque telemByte : Nat → Nat → Byte
/-- The certificate chain of the identity key (R418): its length and its bytes. Log entry 65. -/
opaque chainLen : Nat
opaque chainByte : Nat → Byte
/-- Whether a completer outside the device performs an AtomicOp (R288). Log entry 25. -/
opaque completerAccepts : Space → Nat → Nat → Bool

end Sys2Proof.Config
end

