-- ==== Sys2Proof/Machine/State.lean ====
section
/-!
DEFINITION. The state of the device as plain data: everything spec/00 to spec/22 give it, one structure for each
thing the spec names. Sparse storage is a list of (index, value) pairs, sorted, with no entry equal to the value
that an unlisted index reads as; each reader says what that value is. `State.reset` is the device after module
reset (spec/21 R421).
-/

namespace Sys2Proof.Machine

/-- Sparse storage: index and value, indices rising. -/
abbrev Map (α : Type) := List (Nat × α)

/-- The levels of pipe threads (R373): U and S. No pipe thread runs at F. -/
inductive Priv where
  | u | s
  deriving DecidableEq, Repr

/-- One thing for each direction (R227). -/
structure Four (α : Type) where
  n : α
  e : α
  s : α
  w : α
  deriving DecidableEq, Repr

/-- A resolved location (R265, R268): bytes of a cluster's SRAM, or memory that a leaf entry names. -/
inductive Loc where
  | sram (cluster off : Nat)
  | mem (sp : Space) (pa : Nat) (nc : Bool)
  deriving DecidableEq, Repr

/-- The flag that a claused flag-bearing instruction was assigned (R72, R75); of a task, with the task's start. `half`
names the pair of events that an ENQ with a port destination waits for: the flag's one count falls at the later of the
two. -/
structure FlagRef where
  wg : Nat
  lanes : List Nat
  cf : Nat
  taskAt : Option Nat := none
  half : Option Nat := none
  deriving DecidableEq, Repr

/-- The registers of a lane or thread that a transaction saves (R93, R294). Unlisted registers read 0. -/
structure LaneRegs where
  s : Map Word := []
  v : Map Vec := []
  q : Map Mask := []
  deriving DecidableEq, Repr

/-- Why a workgroup is to be saved: PREEMPT or a migration of R361, which R56 defers, PREEMPT with IMM (R57), JOINWAIT
(R365), or room for a unit of a higher level (R362). -/
inductive SaveWhy where
  | normal | imm | join | prio
  deriving DecidableEq, Repr

/-- What exists once per unit, a split thread or a fused group (R36). `crit` is the clock at which the critical
mark ends (R56). -/
structure Shared where
  priv : Priv := .u
  kdivtrap : Bool := false
  kdiff : Bool := false
  kdiv : Bool := false
  fcsr : Word := 0
  srseed : BitVec 16 := 0x9C3B
  splitthr : BitVec 16 := 256
  trapvec : Word := 0
  k : Map Word := []
  crit : Option Nat := none
  deriving DecidableEq, Repr

/-- A claused run (R71, R72): covered words left, and the flags still to assign, in order. -/
structure ClauseRun where
  left : Nat
  flags : List (Option Nat)
  deriving DecidableEq, Repr

/-- An entry of the reconvergence stack (R42). -/
structure StackEnt where
  join : Bool
  pc : Word
  mask : Mask
  deriving DecidableEq, Repr

/-- A keyed table (R109, R240): the descriptor's fields and the items that the keyed unit holds beside it. `off`
is the bucket array's offset in the keyed allocation; `pins` are the pinned translations of the spill buffer's
pages (R253). -/
structure KtTable where
  valid : Bool := false
  spilled : Bool := false
  aop : Nat := 0
  vt : Nat := 0
  plim : Nat := 0
  logb : Nat := 0
  off : Nat := 0
  spillVa : Nat := 0
  cap : Nat := 0
  used : Nat := 0
  live : Nat := 0
  tomb : Nat := 0
  pins : List (Nat × Loc) := []
  deriving DecidableEq, Repr

/-- A 32-byte line as transactions name it (R295): in the own cluster's SRAM, or in device memory. -/
structure LineId where
  sram : Bool
  n : Nat
  deriving DecidableEq, Repr

/-- An open transaction (R294 to R298): checkpoint, sets, buffered writes, the lines of which one store wrote every byte
(`whole`, R302), the changes that its keyed steps make to
each table's used, live and tombstone counts, and the abort status once something has doomed it. -/
structure Tx where
  rd : R5
  regs : List (Nat × LaneRegs)
  k : Map Word
  fcsr : Word
  active : Mask
  stack : List StackEnt
  low : Nat
  pc : Word
  reads : List LineId := []
  writes : List LineId := []
  redoSram : Map Byte := []
  redoMem : Map Byte := []
  whole : List LineId := []
  ktd : List (Int × Int × Int) := [(0, 0, 0), (0, 0, 0), (0, 0, 0), (0, 0, 0)]
  doomed : Option (BitVec 24) := none
  deriving DecidableEq, Repr

/-- What a unit that is not ready waits in: nothing timed, a wait of R347, or JOINWAIT (R365). -/
inductive Wait where
  | none | watched | join
  deriving DecidableEq, Repr

/-- A TLB entry (R195, R382, R385): context, level of the leaf, virtual page at that level, the leaf. -/
structure TlbEnt where
  ctx : Nat
  level : Nat
  vpn : Nat
  leaf : Word
  deriving DecidableEq, Repr

/-- The issue state of a unit. `waitSince` is the clock at which the current timed wait began (R347, R365), before 0 where
a restored wait has lasted longer than the device's clock has run; `waitSeen`
the last clock at which its instruction was found not ready. `walked` holds the translations that walks have answered
the waiting instruction with (R383): what its accesses retry with, whatever the TLBs keep. `passed` is the model's own: on
how many clocks in a row the unit was ready and its pipe, which hosts a group, passed it over, with the first of them
(R21, log entry 9). -/
structure UState where
  pc : Word := 0
  sh : Shared := {}
  clause : Option ClauseRun := none
  waiting : Wait := .none
  waitSince : Option Int := none
  waitSeen : Nat := 0
  walked : List TlbEnt := []
  tx : Option Tx := none
  txLast : BitVec 24 := 0
  yieldLeft : Nat := 0
  passed : Option (Nat × Nat) := none
  deriving DecidableEq, Repr

/-- A mailbox message (R311), with the scope at which its pop acquires (R310, R341). -/
structure Msg where
  body : Word
  hdr : Word
  sc : Scope := .system
  deriving DecidableEq, Repr

/-- A mailbox (R339, R341). -/
structure Mailbox where
  msgs : List Msg := []
  reserved : Nat := 0
  lost : Nat := 0
  refused : Nat := 0
  deriving DecidableEq, Repr

/-- An engine command (R306) with its tag (R314), the level of the thread that pushed it and the flag it was
assigned. -/
structure Cmd where
  d0 : Word
  d1 : Word
  d2 : Word
  d3 : Word
  tag : Nat := 0
  priv : Priv := .u
  flag : Option FlagRef := none
  deriving DecidableEq, Repr

/-- One direction's ports of a thread (R108, R227, R229): PORTCFG, the incoming queues, the outgoing buffers, and
the credits of the incoming queues still on their way to the source. Where the receiver's PCFG has revoked the credit on
which a value of an outgoing buffer goes, `goS` or `goV` keeps the thread whose queue it still enters, and that queue's
`dueS` or `dueV` counts it (R233). -/
structure Port where
  topo : Topo := .off
  wrap : Bool := false
  inS : List Word := []
  inV : List Vec := []
  outS : Option (Word × Option FlagRef) := none
  outV : Option (Vec × Option FlagRef) := none
  retS : Nat := 0
  retV : Nat := 0
  goS : Option (Nat × Nat) := none
  goV : Option (Nat × Nat) := none
  dueS : Nat := 0
  dueV : Nat := 0
  deriving DecidableEq, Repr

/-- A rejoin record (R48). -/
structure Rejoin where
  col : Nat
  base : Nat
  f : FSize
  live : Mask
  pc : Word
  deriving DecidableEq, Repr

/-- A parked fault (R387): the ticket's index, the thread's own cause and faulting address. -/
structure Park where
  ticket : Nat
  cause : Nat
  va : Word
  fused : Bool
  deriving DecidableEq, Repr

/-- An HBSYNC whose arrival has been made at issue (R344, R347): barrier, token, and the destination register. -/
structure HbSync where
  hb : Nat
  token : Bool
  rd : R5
  deriving DecidableEq, Repr

/-- The flag of a store that has still to fall in a thread (R72): the flag, the lines of device and peer memory that the
store wrote through the L1, the number of its stores in flight where it has such too, and whether it stands in the open
transaction. -/
structure StoreFlag where
  cf : Nat
  lines : List (Space × Nat) := []
  batch : Nat := 0
  inTx : Bool := false
  deriving DecidableEq, Repr

/-- A thread (R22, R93, R99 to R110): its registers and everything that belongs to it alone. `u` is its issue
state while it is split; in a group the group's own is used (R36). -/
structure Thread where
  r : LaneRegs := {}
  cf : Map Nat := []
  u : UState := {}
  gen : BitVec 16 := 0x9C3B
  trapcause : Word := 0
  trappc : Word := 0
  trapval : Word := 0
  utcause : Word := 0
  utpc : Word := 0
  utval : Word := 0
  sscratch : Word := 0
  ctxsel : Nat := 0
  uhnd : Bool := false
  shnd : Bool := false
  ppriv : BitVec 2 := 0
  ports : Four Port := ⟨{}, {}, {}, {}⟩
  mbox : Mailbox := {}
  fifo : List Cmd := []
  nextTag : Nat := 0
  children : Nat := 0
  childDone : Nat := 0
  remote : Nat := 0
  exited : Bool := false
  arrival : Option FSize := none
  rejoin : Option Rejoin := none
  park : Option Park := none
  busy : List RegName := []
  storeFlags : List StoreFlag := []
  /-- pairs of events (`FlagRef.half`) of which one has happened -/
  halves : List Nat := []
  hbsync : Option HbSync := none
  /-- the barrier that the thread waits on in HBWAIT or HBSYNC (R344) -/
  hbWait : Option Nat := none
  /-- clocks that an image loaded by CTXLD has waited in the watched wait that TRET resumes (R197, R347) -/
  waited : Nat := 0
  /-- a task's start clock and the column that its SEND named (R30, R342) -/
  task : Option (Nat × Nat) := none
  /-- killed, with port values still to deliver before it ends (R392) -/
  dying : Bool := false
  /-- the task watchdog has raised its trap (R30) -/
  wdDone : Bool := false
  deriving DecidableEq, Repr

/-- A fused group (R25, R42, R49). The head of `stack` is its top. -/
structure Group where
  col : Nat
  base : Nat
  f : FSize
  live : Mask
  active : Mask
  stack : List StackEnt := []
  low : Nat := 0
  u : UState := {}
  deriving DecidableEq, Repr

/-- A hardware barrier (R343). -/
structure Hb where
  member : BitVec 128 := 0
  arrived : BitVec 128 := 0
  phase : Bool := false
  valid : Bool := false
  inv : Bool := false
  ens : Bool := false
  /-- threads that an HBINV released and that have not yet returned (R344) -/
  released : BitVec 128 := 0
  deriving DecidableEq, Repr

/-- A launch record (R348). -/
structure LaunchRec where
  code : Nat := 0
  entry : Nat := 0
  wgx : Nat := 1
  wgy : Nat := 1
  wgz : Nat := 1
  threads : Nat := 32
  fusion : Nat := 1
  taskSlots : Nat := 0
  priority : Nat := 0
  scratch : Nat := 0
  kt : Nat := 0
  tiles : Nat := 0
  hb : Nat := 0
  ensW : Nat := 0
  ensH : Nat := 0
  torus : Bool := false
  gate : Bool := false
  done : Bool := false
  deps : List Nat := []
  gateSem : Nat := 0
  doneSem : Nat := 0
  gateThr : Nat := 0
  ranges : Nat := 0
  args : List Word := []
  deriving DecidableEq, Repr

/-- A workgroup placed on a cluster (R23, R26, R360). `cols` gives the physical slot of each workgroup column and
then of each task column. `unit` identifies the dispatched unit it belongs to (its ensemble). Threads 0 to 127 are
the workgroup's; task column j's slot in pipe p is index 128 + 32·j + p. `saveReq` is a pending save, and
`begun` says that it is past step 2 of R394. -/
structure Workgroup where
  id : Nat
  unit : Nat
  launch : Nat
  ctx : Nat
  gx : Nat
  gy : Nat
  gz : Nat
  cluster : Nat
  cols : List Nat
  threads : Map Thread
  groups : List Group := []
  cfg : LaunchRec
  obj : Nat := 0
  scratchBase : Nat := 0
  ktBase : Nat := 0
  hbs : Map Hb := []
  kt : List KtTable := [{}, {}, {}, {}]
  level : Nat := 0
  pinned : BitVec 7 := 0x7F
  ex : Nat := 0
  ey : Nat := 0
  saveReq : Option SaveWhy := none
  begun : Bool := false
  /-- the model's own record, by a stage barrier's offset in the view: the scopes of the commands that have charged its
  current phase, and of those that charged the phase completed last (R310) -/
  stgScopes : Map (List Scope × List Scope) := []
  deriving DecidableEq, Repr

/-- States of a launch (R356); a complete launch is removed. -/
inductive LState where
  | published | ready | staging | dispatching | running
  deriving DecidableEq, Repr

/-- Where a launch's pool entry was taken (R354). -/
inductive Pool where
  | host | shared | reserve (depth : Nat)
  deriving DecidableEq, Repr

/-- A launch published and not complete (R353 to R358). `next` is the linear index of its next unit, `ended` how
many of its workgroups have ended, `since` the moment from which w counts, `rect` the rectangle R361 has chosen. -/
structure Launch where
  id : Nat
  ctx : Nat
  cfg : LaunchRec
  depth : Nat := 0
  parent : Option (Nat × Nat) := none
  /-- the start of the task that launched it, if a task did (R365) -/
  parentTask : Option Nat := none
  pre : Bool := false
  ceil : Nat := 47
  obj : Nat := 0
  state : LState := .published
  next : Nat := 0
  ended : Nat := 0
  since : Nat := 0
  level : Nat := 0
  passed : Option Nat := none
  pool : Pool := .host
  rect : Option (Nat × Nat × Nat) := none
  deriving DecidableEq, Repr

/-- A saved workgroup (R393 to R396): its area in device memory and what the area has no place for. -/
structure SavedWg where
  id : Nat
  gx : Nat
  gy : Nat
  gz : Nat
  ex : Nat
  ey : Nat
  area : Nat
  size : Nat
  cols : Nat
  /-- child counts and completed-child counts by thread (R365, R369) -/
  children : List (Nat × Nat × Nat)
  /-- flags (R75) and levels of the commands held in FIFOs, by thread -/
  fifoFlags : List (Nat × List (Option FlagRef × Priv))
  /-- the threads' CTXSEL (R380) -/
  ctxsels : List (Nat × Nat)
  /-- arrivals that an HBSYNC made, by thread (R346, R347), and waiters that HBINV released, by barrier (R344) -/
  hbsyncs : List (Nat × HbSync)
  released : List (Nat × BitVec 128)
  /-- the barriers that threads wait on in HBWAIT or HBSYNC, by thread (R344) -/
  hbWaits : List (Nat × Nat)
  /-- the columns of the saved run-queue entries, in their order (R342, R366) -/
  runCols : List Nat
  deriving DecidableEq, Repr

/-- A saved unit that waits to resume (R358, R362, R365). `passed` and `rect` are R361's, as in a launch. -/
structure SavedUnit where
  id : Nat
  launch : Nat
  ctx : Nat
  wgs : List SavedWg
  pinned : BitVec 7
  since : Nat
  level : Nat
  joinWait : Bool
  passed : Option Nat := none
  rect : Option (Nat × Nat × Nat) := none
  /-- its spill buffers could not be pinned when it was last to resume (R398) -/
  pinFail : Bool := false
  deriving DecidableEq, Repr

/-- The launch-queue state of a context that has been brought from another device (R399): its launches and its saved
units, under the numbers of that device, each area at its offset in the context's save region. -/
structure Moved where
  ctx : Nat
  launches : List Launch
  units : List SavedUnit
  deriving DecidableEq, Repr

/-- An access that waits in the merge table (R383, R387), with the PC of its instruction. -/
structure Waiter where
  wg : Nat
  t : Nat
  pc : Word
  cause : Nat
  va : Word
  deriving DecidableEq, Repr

/-- An entry of the merge table (R383). Once its walk has failed, `failed` says whether a malformed entry was met, and
the first thread that it parks gives it the ticket of its fault record (R387). -/
structure MergeEnt where
  ctx : Nat
  vpn : Nat
  waiters : List Waiter
  failed : Option Bool := none
  ticket : Option Nat := none
  deriving DecidableEq, Repr

/-- An L1 line (R270, R271): bank 0 to 31 is a pipe's private bank, bank 32 the cluster-shared part. `syn` is the
difference between the sector check held and the check of the data (R301, R302). `owner` is the thread that last
dirtied a line of peer memory, with its address: it hears of a write-back that no link can carry (R415). -/
structure L1Line where
  bank : Nat
  sp : Space
  line : Nat
  data : BitVec 256
  dirty : Mask := 0
  syn : BitVec 16 := 0
  ecc : Bool := false
  owner : Nat × Nat × Word := (0, 0, 0)
  deriving DecidableEq, Repr

/-- States of a landing window (R323). -/
inductive WinState where
  | closed | opened | inv
  deriving DecidableEq, Repr

/-- A landing-window entry (R323). -/
structure Window where
  st : WinState := .closed
  gen : Nat := 0
  off : Nat := 0
  size : Nat := 0
  link : Bool := false
  bar : Nat := 0
  owner : Option Nat := none
  deriving DecidableEq, Repr

/-- A matrix instruction in the queues (R208): the instruction, the issuing group and its active lanes, the
operands taken at issue (R203, R204), and whether it has started. -/
structure MatOp where
  ins : Instr
  wg : Nat
  col : Nat
  base : Nat
  f : FSize
  lanes : List Nat
  a : List Vec := []
  b : List Vec := []
  addr : Nat := 0
  stride : Int := 0
  loss : BitVec 32 := 0
  flag : Option FlagRef := none
  started : Bool := false
  /-- bytes read from scratchpad when it started (R209) -/
  mem : List Byte := []
  deriving DecidableEq, Repr

/-- An entry of the trace ring (R284), newest first in the ring's list. -/
structure TraceEnt where
  clock : Nat
  x : Nat
  y : Nat
  colPipe : Nat
  atomic : Bool
  size : Nat
  off : Nat
  deriving DecidableEq, Repr

/-- An entry of a pipe's run queue (R366). -/
structure RunEnt where
  wg : Nat
  pipe : Nat
  hoff : Nat
  col : Nat
  body : Word
  hdr : Word
  deriving DecidableEq, Repr

/-- A pipe's selection state (R20): the slot that it selected last under rule 2 and under rule 1, the critical
selections in a row, the slot that was selected on its clock before, the clock of its last selection, and its last
clock. -/
structure PipeSel where
  last : Option Nat := none
  lastCrit : Option Nat := none
  critRun : Nat := 0
  prev : Option Nat := none
  at' : Option Nat := none
  seen : Option Nat := none
  deriving DecidableEq, Repr

/-- A cluster (R18). Memory-like arrays are sparse with default 0: SRAM bytes by offset, ab and bb by
8192·n + byte, acc by 4096·tile + 64·i + j, SA and SB by 128·q and 512·q + byte. -/
structure Cluster where
  sram : Map Byte := []
  sramSyn : Map (BitVec 16) := []
  sramEcc : List Nat := []
  l1 : List L1Line := []
  icache : List (Nat × Insn) := []
  tlb : List TlbEnt := []
  utlb : Map (List TlbEnt) := []
  merge : List MergeEnt := []
  ab : Map Byte := []
  bb : Map Byte := []
  acc : Map (BitVec 32) := []
  sa : Map Byte := []
  sb : Map Byte := []
  plan : BitVec 8 := 0
  mq : List MatOp := []
  windows : Map Window := []
  trace : List TraceEnt := []
  traceOn : Bool := false
  traceCount : Nat := 0
  runq : List RunEnt := []
  pipes : Map PipeSel := []
  deriving DecidableEq, Repr

/-- A participant's place in a collective (R328): group, rank and count, its descriptor and rank table, whether the
table has been read, the status and body of a check that its descriptor failed, whether the collective has started, all
source vectors by rank, and whether this participant has written its result. -/
structure CollPart where
  gid : Nat
  rank : Nat
  seq : Nat
  desc : List Byte
  table : List Nat
  tabled : Bool := true
  bad : Option (Nat × Word) := none
  started : Bool := false
  srcs : List (Nat × List Byte) := []
  written : Bool := false
  deriving DecidableEq, Repr

/-- A granted claim of a multicast (R324): member bit, cluster, the entry's generation, and with LINK the barrier that
is charged: its workgroup, its offset and the generation recorded. -/
structure Grant where
  bit : Nat
  cluster : Nat
  gen : Nat
  link : Option (Nat × Nat × Nat)
  deriving DecidableEq, Repr

/-- An accepted engine command (R305, R309): the owner of its FIFO, the cluster it was issued on, its result once
it has run, the stage-barrier generation it recorded (R332), what a multicast has been granted (R324), and a
collective's place. -/
structure EngCmd where
  id : Nat
  wg : Nat
  t : Nat
  cluster : Nat
  /-- the unit that the issuing workgroup belongs to, and the engine that accepted the command -/
  unit : Nat
  engine : Nat
  ctx : Nat
  launch : Nat
  cmd : Cmd
  /-- the start of the task that pushed it, if a task did (R339) -/
  taskAt : Option Nat := none
  stgGen : Option Nat := none
  /-- of a multicast: the members that a packet was dropped for, the status and body so far -/
  dropped : Nat := 0
  soFar : Nat × Word := (0, 0)
  result : Option (Nat × Word) := none
  grants : List Grant := []
  coll : Option CollPart := none
  submitted : Bool := false
  /-- of a storage command: the run of its queue (R407), and its buffer's pages, the PRP list that the engine builds
  (R329), as virtual and physical addresses -/
  run : Nat := 0
  prps : List (Nat × Nat) := []
  /-- the clock of its acceptance -/
  since : Nat := 0
  deriving DecidableEq, Repr

/-- A multicast packet in flight (R324): its command, entry, position and data. -/
structure McPacket where
  id : Nat
  cmd : Nat
  grant : Grant
  entry : Nat
  pos : Nat
  data : List Byte
  deriving DecidableEq, Repr

/-- A remote window store in flight, or its acknowledgement (`done`: some refused) on its way back (R283). -/
structure RemoteStore where
  id : Nat
  wg : Nat
  t : Nat
  src : Nat
  launch : Nat
  target : Nat
  off : Nat
  va : Word
  bytes : List Byte
  flag : Option FlagRef
  /-- the start of the task that issued it, if a task did -/
  taskAt : Option Nat := none
  /-- the instruction that it belongs to: its flag is done when the last of them is -/
  batch : Nat
  done : Option Bool := none
  deriving DecidableEq, Repr

/-- A message in flight, or its refusal on its way back (R340). -/
structure MsgFlight where
  id : Nat
  wg : Nat
  t : Nat
  src : Nat
  launch : Nat
  desc : Word
  body : Word
  hdr : Word
  flag : Option FlagRef
  /-- the start of the task that sent it, if a task did (R339) -/
  taskAt : Option Nat := none
  refused : Bool := false
  deriving DecidableEq, Repr

/-- A request that waits for a link that is down (R415), on a cluster. A store writes those of its bytes that `mask`
names, and is an instruction's (its `batch`) or a write-back of a line (`wb`, R271). -/
structure LinkReq where
  id : Nat
  wg : Nat
  t : Nat
  va : Word
  store : Bool
  since : Nat
  cl : Nat
  sp : Space := .dev
  addr : Nat := 0
  bytes : List Byte := []
  mask : Mask := BitVec.allOnes 32
  flag : Option FlagRef := none
  batch : Nat := 0
  taskAt : Option Nat := none
  wb : Bool := false
  /-- a write-back of all 32 bytes: the cause that a read of the line fails with (R304) -/
  bad : Option Nat := none
  /-- set for a load or atomic once the 1 ms has passed: its next issue traps 0x0A -/
  dead : Bool := false
  deriving DecidableEq, Repr

/-- A fault record that waits to be written (R388, R389). -/
structure FaultRec where
  va : Word
  pc : Word
  ticket : Nat
  ctx : Nat
  cause : Nat
  malformed : Bool
  fused : Bool
  x : Nat
  y : Nat
  colPipe : Nat
  deriving DecidableEq, Repr

/-- A context (R374, R380, R381). -/
structure Ctx where
  stvec : Word := 0
  sdeleg : Word := 0
  ptroot : Word := 0
  featset : BitVec 7 := 0x7F
  clkoff : Word := 0
  semBase : Nat := 0
  semSize : Nat := 0
  svbase : Word := 0
  svsize : Word := 0
  hold : Bool := false
  /-- the clock at which HOLD was set (R358) -/
  holdAt : Nat := 0
  deriving DecidableEq, Repr

/-- A launch queue (R352, R381): ring base, configuration, head-word address, head and tail indices. -/
structure LQueue where
  base : Word := 0
  cfg : Word := 4
  headWord : Word := 0
  head : BitVec 32 := 0
  tail : BitVec 32 := 0
  deriving DecidableEq, Repr

/-- A dependence slot that is held (R355). -/
structure Dep where
  ctx : Nat
  count : Int
  deriving DecidableEq, Repr

/-- A role of a code object (R87): text and read-only data as mapped, the entry offset and the region table. -/
structure Role where
  textVa : Nat
  textSize : Nat
  roVa : Nat := 0
  roSize : Nat := 0
  entry : Nat
  regions : List (Nat × Nat)
  deriving DecidableEq, Repr

/-- A placement entry (R88). -/
structure Place where
  ex0 : Nat
  ey0 : Nat
  ex1 : Nat
  ey1 : Nat
  cols : Nat
  role : Nat
  deriving DecidableEq, Repr

/-- A verified code object (R92). -/
structure CodeObj where
  handle : Nat
  ctx : Nat
  roles : List Role
  places : List Place
  boot : List (Nat × Nat × Nat × Bool)
  digest : List Byte
  deriving DecidableEq, Repr

/-- A page's counts in the current epoch, its mode (R274), the clusters whose L2 slices a boot tree has given copies
(R89), and the dies whose slices REPLICATE has given copies (R275). -/
structure PageInfo where
  reads : Nat := 0
  writes : Nat := 0
  replicated : Bool := false
  copies : List Nat := []
  dies : List Nat := []
  deriving DecidableEq, Repr

/-- The run-time part of a storage queue (R329, R407): the queue table's entry as it was when its EN was set, submission
tail, the tail last written to the doorbell, the submission head, completion head, phase, and the commands submitted by
their NVMe command identifier. -/
structure SqRun where
  entry : List Byte := []
  subTail : Nat := 0
  rung : Nat := 0
  subHead : Nat := 0
  compHead : Nat := 0
  phase : Bool := true
  inflight : List (Nat × Nat) := []
  deriving DecidableEq, Repr

/-- An Eweaz port (R410 to R415). Lists of four are per virtual channel. -/
structure LinkPort where
  up : Bool := false
  full : Bool := true
  seqNext : Nat := 0
  accepted : Nat := 4095
  replay : List Flit := []
  credits : List Nat := [64, 64, 64, 64]
  sent : List Nat := [0, 0, 0, 0]
  ret : List Nat := [0, 0, 0, 0]
  rxAcc : List Nat := [0, 0, 0, 0]
  rxOcc : List Nat := [0, 0, 0, 0]
  sinceAudit : Nat := 0
  lastAudit : Nat := 0
  replays : Nat := 0
  fails : Nat := 0
  retrain : Bool := false
  out : List Flit := []
  /-- data flits of each channel that wait for a credit or for room in the replay buffer, and the channel whose credits a
  flit returned last -/
  waiting : List Nat := [0, 0, 0, 0]
  lastCvc : Nat := 3
  deriving DecidableEq, Repr

/-- The host mailbox of BAR0 (R404, R405). -/
structure HostBox where
  busy : Bool := false
  status : Nat := 0
  fstage : Nat := 0
  fver : Bool := false
  req : Map Byte := []
  resp : Map Byte := []
  deriving DecidableEq, Repr

/-- A unit of issue: a thread of a workgroup, or the group whose lowest thread it is. -/
structure UnitId where
  wg : Nat
  t : Nat
  deriving DecidableEq, Repr

/-- What the device reports to system software beside its registers and queues: a read that ended with Completer Abort
(R303), a failed joint that stopped the module (R408), and an object that was refused (R92). -/
inductive Report where
  | completerAbort (addr : Nat)
  | jointFailure
  | objectRefused (ctx pa : Nat)
  deriving DecidableEq, Repr

/-- What moves in a step: a pipe takes an issue clock, an event happens, memory changes from outside, a peer device
writes or reads device memory over the link (R410), a sector of a peer device fails its check or holds an uncorrectable
error (R303), or system software brings the launch-queue state of a context from another device (R399). -/
inductive Agent where
  | pipe (cluster pipe : Nat)
  | event (i : Instr)
  | outside (sp : Space) (addr : Nat) (bytes : List Byte)
  | peerWrite (addr : Nat) (bytes : List Byte)
  | peerRead (addr n : Nat)
  | peerFail (device addr : Nat) (ecc : Bool)
  | bring (m : Moved)
  deriving DecidableEq, Repr

/-- A turn of the agenda: what moves, and how many clocks pass. -/
structure Turn where
  agent : Agent
  clocks : Nat := 1
  deriving DecidableEq, Repr

/-- The device. The first six fields are the model's own, not the spec's: the agenda says which agent moves next,
`cur` is the unit whose instruction is executing, `stalled` marks an instruction that was not ready, `curFlag` is
the flag the executing instruction is assigned, `free` counts free values taken, `nextId` numbers things in
flight. -/
structure State where
  agenda : List Turn := []
  cur : Option UnitId := none
  stalled : Bool := false
  curFlag : Option Nat := none
  free : Nat := 0
  nextId : Nat := 1
  -- time (R106, R420)
  clock : Nat := 0
  rateKHz : Nat := Config.ratedKHz
  -- memory (R264, R301 to R304, R274)
  mem : List Host.Cell := []
  memSyn : Map (BitVec 16) := []
  memEcc : List Nat := []
  outside : Map Byte := []
  /-- sectors of peer devices whose read ends with an error (R303), by index of their first byte over 32: the cause -/
  peerBad : Map Nat := []
  pages : Map PageInfo := []
  eccCount : Nat := 0
  -- clusters, workgroups, launches (R18, R23, R348 to R366)
  clusters : Map Cluster := []
  wgs : List Workgroup := []
  launches : List Launch := []
  saved : List SavedUnit := []
  /-- the model's own: launch-queue states brought from other devices, which a RESUME has not taken over yet (R399) -/
  incoming : List Moved := []
  lastDie : Option Nat := none
  rrQueue : Nat := 0
  rrPipe : Nat := 0
  epochAt : Nat := 0
  -- in flight (R283, R324, R340, R305, R415)
  remote : List RemoteStore := []
  flights : List MsgFlight := []
  packets : List McPacket := []
  cmds : List EngCmd := []
  collSeq : List (Nat × Nat × Nat) := []
  /-- collectives, by group and count, of which a participant has ended because no link could carry its requests (R415) -/
  collGone : List (Nat × Nat) := []
  rrEng : Map Nat := []
  /-- the TLBs of the I/O dies, through which storage commands translate (R382, R407) -/
  ioTlb : Map (List TlbEnt) := []
  linkReqs : List LinkReq := []
  -- semaphores and dependence slots (R336, R355)
  sems : Map Word := []
  deps : Map Dep := []
  -- contexts and device registers (R374, R380, R381)
  ctxs : Map Ctx := []
  wdtask : Word := 50
  wdwait : Word := 100000
  ageq : Word := 1000
  gather : Word := 50
  joinspin : Word := 20
  fqbase : Word := 0
  fqEn : Bool := false
  fqLog2n : Nat := 4
  fqSem : Nat := 0
  fqTail : BitVec 32 := 0
  fqHead : BitVec 32 := 0
  eqbase : Word := 0
  eqEn : Bool := false
  eqLog2n : Nat := 4
  eqDrop : Nat := 0
  eqTail : BitVec 32 := 0
  eqHead : BitVec 32 := 0
  trIdx : Nat := 0
  trX : Nat := 0
  trY : Nat := 0
  semidx : Nat := 0
  depidx : Nat := 1
  lqsel : Nat := 0
  queues : Map LQueue := []
  faults : List FaultRec := []
  nextTicket : Nat := 0
  -- code objects and keys (R92, R417)
  objects : List CodeObj := []
  keys : List (List Byte) := []
  /-- SHA3-512 digests of the firmware stages that the last boot verified (R416, R419) -/
  fw : List (List Byte) := []
  -- host interface (R404 to R407)
  host : HostBox := {}
  aperture : Nat := 0
  devNum : Nat := 0
  domSize : Nat := 1
  bindings : Map Nat := []
  pwrcap : Nat := 2800
  sqTable : Map Byte := []
  /-- runs of the storage queues, one for each time that EN was set: of queue q and number g at q + 256·g; `sqGen` is
  the number of the queue's last run (R407) -/
  sqRun : Map SqRun := []
  sqGen : Map Nat := []
  hostReply : Option (Bool × List Byte) := none
  /-- reports to system software, oldest first -/
  reports : List Report := []
  -- links and power (R408, R410 to R416)
  links : Map LinkPort := []
  /-- the clock at which the last port that was up went down (R415) -/
  linkDownAt : Nat := 0
  stopped : Bool := false
  /-- no boot stands behind the device: it failed (R416), or there is no power (R421) -/
  unbooted : Bool := false
  deriving DecidableEq, Repr

/-- The device right after module reset (R421): memory reads as zero, every register holds the reset value of its
map, nothing is placed. -/
def State.reset : State := {}

/-- The model's one fault. -/
inductive Fault where
  /-- Raised by the meaning of an instruction word in a state that names no current unit, or whose current unit does
  not exist. The step never raises it: it executes a word only for a unit it has found. Safe: no hardware behaviour
  is cut off. -/
  | noUnit
  deriving DecidableEq, Repr

/-- Reasons an instruction is refused. -/
inductive Refusal where
  /-- Raised by an arm of the dispatch for an instruction that has no meaning yet. Safe: the model stops. -/
  | notModelled (mnemonic : String)
  deriving DecidableEq, Repr

end Sys2Proof.Machine
end

