-- ==== Sys2Proof/Machine/Sparse.lean ====
section
/-!
DEFINITION. Sparse storage (a list of index and value, indices rising, no entry equal to the default), bytes as
little-endian numbers (R10), and the canonical form of memory.
-/

namespace Sys2Proof.Machine

/-- The value at an index; `d` where nothing is listed. -/
def mget {α : Type} (d : α) : Map α → Nat → α
  | [], _ => d
  | (k, v) :: m, i => if k = i then v else mget d m i

/-- The value at an index, if one is listed. -/
def mfind {α : Type} : Map α → Nat → Option α
  | [], _ => none
  | (k, v) :: m, i => if k = i then some v else mfind m i

/-- List a value at an index. -/
def mput {α : Type} : Map α → Nat → α → Map α
  | [], i, v => [(i, v)]
  | (k, w) :: m, i, v =>
    if i < k then (i, v) :: (k, w) :: m
    else if i = k then (i, v) :: m
    else (k, w) :: mput m i v

/-- Unlist an index. -/
def mdel {α : Type} (m : Map α) (i : Nat) : Map α := m.filter fun e => e.1 ≠ i

/-- Write a value at an index of storage whose default is `d`, keeping the canonical form. -/
def mset {α : Type} [DecidableEq α] (d : α) (m : Map α) (i : Nat) (v : α) : Map α :=
  if v = d then mdel m i else mput m i v

/-- Every index from `lo` on, rising, and no value equal to the default. -/
def mwfFrom {α : Type} [DecidableEq α] (d : α) : Nat → Map α → Bool
  | _, [] => true
  | lo, (k, v) :: m => decide (lo ≤ k) && decide (v ≠ d) && mwfFrom d (k + 1) m

/-- The canonical form of sparse storage. -/
def mwf {α : Type} [DecidableEq α] (d : α) (m : Map α) : Bool := mwfFrom d 0 m

/-- The canonical form of device memory: addresses rising, no byte equal to what an unlisted address reads as,
zero (R421). -/
def Memory.wf (m : List Host.Cell) : Bool := mwf (0 : Byte) m

/-- `n` values from index `i` on. -/
def mgets {α : Type} (d : α) (m : Map α) (i : Nat) : Nat → List α
  | 0 => []
  | n + 1 => mget d m i :: mgets d m (i + 1) n

/-- Write a list of values from index `i` on. -/
def msets {α : Type} [DecidableEq α] (d : α) (m : Map α) (i : Nat) : List α → Map α
  | [] => m
  | v :: vs => msets d (mset d m i v) (i + 1) vs

/-- The number that bytes in ascending address hold (R10). -/
def leNat : List Byte → Nat
  | [] => 0
  | b :: bs => b.toNat + 256 * leNat bs

/-- The low `n` bytes of a number, in ascending address (R10). -/
def leBytes : Nat → Nat → List Byte
  | 0, _ => []
  | n + 1, x => BitVec.ofNat 8 x :: leBytes n (x / 256)

/-- The bits [hi:lo] of a number (R14). -/
def nbits (x hi lo : Nat) : Nat := x / 2 ^ lo % 2 ^ (hi + 1 - lo)

/-- One bit of a number. -/
def nbit (x i : Nat) : Bool := x / 2 ^ i % 2 = 1

/-- A `w`-bit number read as two's complement. -/
def sint (w x : Nat) : Int :=
  if 2 * (x % 2 ^ w) < 2 ^ w then (x % 2 ^ w : Nat) else (x % 2 ^ w : Nat) - (2 ^ w : Nat)

/-- An integer narrowed to `w` bits. -/
def wrap (w : Nat) (x : Int) : Nat := (x % (2 ^ w : Nat)).toNat

/-- A number rounded up to a multiple of `a`. -/
def roundUp (x a : Nat) : Nat := (x + a - 1) / a * a

/-- A mask from a predicate on positions. -/
def maskOf (n : Nat) (p : Nat → Bool) : Nat :=
  (List.range n).foldl (fun a i => if p i then a + 2 ^ i else a) 0

/-- The positions of a mask's ones, ascending, below `n`. -/
def bitsOf (n x : Nat) : List Nat := (List.range n).filter (nbit x)

end Sys2Proof.Machine
end

