-- ==== Sys2Proof/Machine/Codec.lean ====
section
/-!
DEFINITION. CRC-32C (R318), and the two codecs of COPYZ (R319): the LZ4 block format and raw Deflate (RFC 1951).
-/

namespace Sys2Proof.Machine

-- CRC-32C (R318).

/-- One bit of the reflected division. -/
def crcBit (c : BitVec 32) : BitVec 32 := if c.getLsbD 0 then (c >>> 1) ^^^ 0x82F63B78 else c >>> 1

/-- One byte. -/
def crcByte (c : BitVec 32) (b : Byte) : BitVec 32 :=
  (List.range 8).foldl (fun c _ => crcBit c) (c ^^^ b.setWidth 32)

/-- CRC-32C of bytes (R318). -/
def crc32c (bs : List Byte) : BitVec 32 := ~~~(bs.foldl crcByte 0xFFFFFFFF)

-- Decoded output. It is kept newest byte first; `ok` says that the stream was well formed.

structure Decoded where
  out : List Byte
  ok : Bool
  deriving DecidableEq, Repr

/-- Append a match: `n` bytes from `dist` back, byte by byte. -/
def copyBack (dist : Nat) : Nat → List Byte → List Byte
  | 0, out => out
  | n + 1, out => copyBack dist n (out.getD (dist - 1) 0 :: out)

-- LZ4 block format.

/-- A length's extension bytes: the length, and the rest; none where the bytes run out. -/
def lz4Ext : List Byte → Nat → Option (Nat × List Byte)
  | [], _ => none
  | b :: bs, n => if b = 255 then lz4Ext bs (n + 255) else some (n + b.toNat, bs)

/-- A length of a token's four bits. -/
def lz4Len (n : Nat) (bs : List Byte) : Option (Nat × List Byte) := if n = 15 then lz4Ext bs 15 else some (n, bs)

/-- Sequences of an LZ4 block, at most `fuel` of them. The last one ends after its literals. -/
def lz4Seq : Nat → List Byte → List Byte → Decoded
  | 0, _, out => ⟨out, false⟩
  | _, [], out => ⟨out, false⟩
  | fuel + 1, t :: bs, out =>
    match lz4Len (t.toNat / 16) bs with
    | none => ⟨out, false⟩
    | some (n, bs) =>
      if bs.length < n then ⟨out, false⟩
      else
        let out := (bs.take n).reverse ++ out
        match bs.drop n with
        | [] => ⟨out, true⟩
        | [_] => ⟨out, false⟩
        | o0 :: o1 :: bs =>
          let dist := o0.toNat + 256 * o1.toNat
          if dist = 0 ∨ out.length < dist then ⟨out, false⟩
          else match lz4Len (t.toNat % 16) bs with
            | none => ⟨out, false⟩
            | some (m, bs) => lz4Seq fuel bs (copyBack dist (m + 4) out)

/-- An LZ4 block. -/
def lz4 (bs : List Byte) : Decoded := lz4Seq (bs.length + 1) bs []

-- Deflate.

/-- Bits of the stream, in the order in which Deflate reads them. -/
abbrev Bits := List Bool

def bitsOfBytes (bs : List Byte) : Bits := bs.flatMap fun b => (List.range 8).map b.getLsbD

/-- A number of `n` bits, low bit first. -/
def takeBits : Nat → Bits → Option (Nat × Bits)
  | 0, b => some (0, b)
  | _ + 1, [] => none
  | n + 1, x :: b => (takeBits n b).map fun y => ((if x then 1 else 0) + 2 * y.1, y.2)

/-- A Huffman code, from the code length of each symbol: how many codes of each length, and the symbols in order. -/
structure Huff where
  counts : List Nat
  syms : List Nat
  deriving DecidableEq, Repr

def mkHuff (lens : List Nat) : Huff :=
  { counts := (List.range 16).map fun n => (lens.filter (· = n)).length
    syms := ((List.range 15).map (· + 1)).flatMap fun n => (List.range lens.length).filter fun i => lens.getD i 0 = n }

/-- Codes left over when every length is used up; negative for an over-subscribed set. -/
def Huff.left (h : Huff) : Int :=
  ((List.range 15).map (· + 1)).foldl (fun (a : Int) n => if a < 0 then a else 2 * a - h.counts.getD n 0) 1

/-- Read a symbol: the length reached, and the code, first code and index there. -/
def Huff.read (h : Huff) : Nat → Nat → Nat → Nat → Nat → Bits → Option (Nat × Bits)
  | 0, _, _, _, _, _ => none
  | _ + 1, _, _, _, _, [] => none
  | fuel + 1, len, code, first, index, x :: b =>
    let code := code + (if x then 1 else 0)
    let count := h.counts.getD len 0
    if code < first + count then some (h.syms.getD (index + code - first) 0, b)
    else h.read fuel (len + 1) (2 * code) (2 * (first + count)) (index + count) b

def Huff.sym (h : Huff) (b : Bits) : Option (Nat × Bits) := h.read 15 1 0 0 0 b

/-- Base and extra bits of the length symbols 257 to 285. -/
def lenBase : List Nat :=
  [3, 4, 5, 6, 7, 8, 9, 10, 11, 13, 15, 17, 19, 23, 27, 31, 35, 43, 51, 59, 67, 83, 99, 115, 131, 163, 195, 227, 258]
def lenExtra : List Nat :=
  [0, 0, 0, 0, 0, 0, 0, 0, 1, 1, 1, 1, 2, 2, 2, 2, 3, 3, 3, 3, 4, 4, 4, 4, 5, 5, 5, 5, 0]
/-- Base and extra bits of the distance symbols 0 to 29. -/
def distBase : List Nat :=
  [1, 2, 3, 4, 5, 7, 9, 13, 17, 25, 33, 49, 65, 97, 129, 193, 257, 385, 513, 769, 1025, 1537, 2049, 3073, 4097, 6145,
   8193, 12289, 16385, 24577]
def distExtra : List Nat :=
  [0, 0, 0, 0, 1, 1, 2, 2, 3, 3, 4, 4, 5, 5, 6, 6, 7, 7, 8, 8, 9, 9, 10, 10, 11, 11, 12, 12, 13, 13]

/-- The order of the code-length code's lengths. -/
def clOrder : List Nat := [16, 17, 18, 0, 8, 7, 9, 6, 10, 5, 11, 4, 12, 3, 13, 2, 14, 1, 15]

/-- A match's length and distance, after its length symbol. -/
def readMatch (sym : Nat) (dist : Huff) (b : Bits) : Option (Nat × Nat × Bits) :=
  if 285 < sym then none
  else
    (takeBits (lenExtra.getD (sym - 257) 0) b).bind fun e =>
    (dist.sym e.2).bind fun d =>
    if 29 < d.1 then none
    else (takeBits (distExtra.getD d.1 0) d.2).map fun g =>
      (lenBase.getD (sym - 257) 0 + e.1, distBase.getD d.1 0 + g.1, g.2)

/-- The codes of a block: the bits after its end, or none where it is malformed. -/
def inflateCodes (lit dist : Huff) : Nat → Bits → List Byte → Option Bits × List Byte
  | 0, _, out => (none, out)
  | fuel + 1, b, out =>
    match lit.sym b with
    | none => (none, out)
    | some (s, b) =>
      if s < 256 then inflateCodes lit dist fuel b (BitVec.ofNat 8 s :: out)
      else if s = 256 then (some b, out)
      else match readMatch s dist b with
        | none => (none, out)
        | some (n, d, b) =>
          if out.length < d then (none, out) else inflateCodes lit dist fuel b (copyBack d n out)

/-- The fixed codes. -/
def fixedLit : Huff :=
  mkHuff (List.replicate 144 8 ++ List.replicate 112 9 ++ List.replicate 24 7 ++ List.replicate 8 8)
def fixedDist : Huff := mkHuff (List.replicate 30 5)

/-- Code lengths of a dynamic block, newest first. -/
def readLens (h : Huff) (n : Nat) : Nat → Bits → List Nat → Option (List Nat × Bits)
  | 0, _, _ => none
  | fuel + 1, b, ls =>
    if ls.length = n then some (ls.reverse, b)
    else match h.sym b with
      | none => none
      | some (s, b) =>
        if s < 16 then readLens h n fuel b (s :: ls)
        else
          let r := if s = 16 then (takeBits 2 b).map fun e => (e.1 + 3, e.2)
            else if s = 17 then (takeBits 3 b).map fun e => (e.1 + 3, e.2)
            else (takeBits 7 b).map fun e => (e.1 + 11, e.2)
          match r with
          | none => none
          | some (k, b) =>
            if s = 16 ∧ ls.isEmpty ∨ n < ls.length + k then none
            else readLens h n fuel b (List.replicate k (if s = 16 then ls.headD 0 else 0) ++ ls)

/-- The lengths of the code-length code. -/
def readClLens : List Nat → Bits → List (Nat × Nat) → Option (List (Nat × Nat) × Bits)
  | [], b, acc => some (acc, b)
  | i :: is, b, acc => (takeBits 3 b).bind fun e => readClLens is e.2 ((i, e.1) :: acc)

/-- The codes of a dynamic block. -/
def readCodes (b : Bits) : Option (Huff × Huff × Bits) :=
  (takeBits 5 b).bind fun a =>
  (takeBits 5 a.2).bind fun c =>
  (takeBits 4 c.2).bind fun e =>
  let nlen := a.1 + 257
  let ndist := c.1 + 1
  if 286 < nlen ∨ 30 < ndist then none
  else (readClLens (clOrder.take (e.1 + 4)) e.2 []).bind fun l =>
    let cl := mkHuff ((List.range 19).map fun i => ((l.1.find? fun x => x.1 == i).map (·.2)).getD 0)
    if cl.left ≠ 0 then none
    else (readLens cl (nlen + ndist) (nlen + ndist + 1) l.2 []).bind fun r =>
      let lit := mkHuff (r.1.take nlen)
      let dist := mkHuff (r.1.drop nlen)
      let bad := fun (h : Huff) (n : Nat) => h.left < 0 || (0 < h.left && n ≠ h.counts.getD 0 0 + h.counts.getD 1 0)
      if r.1.getD 256 0 = 0 ∨ bad lit nlen = true ∨ bad dist ndist = true then none else some (lit, dist, r.2)

/-- A stored block, with the whole stream's bits to align to. -/
def inflateStored (b : Bits) (out : List Byte) : Option Bits × List Byte :=
  let b := b.drop (b.length % 8)
  match takeBits 16 b with
  | none => (none, out)
  | some (n, b) => match takeBits 16 b with
    | none => (none, out)
    | some (k, b) =>
      if n + k ≠ 65535 ∨ b.length < 8 * n then (none, out)
      else
        let bytes := (List.range n).map fun i => BitVec.ofNat 8 (((takeBits 8 (b.drop (8 * i))).map (·.1)).getD 0)
        (some (b.drop (8 * n)), bytes.reverse ++ out)

/-- Blocks of a Deflate stream, at most `fuel` of them. -/
def inflateBlocks : Nat → Bits → List Byte → Decoded
  | 0, _, out => ⟨out, false⟩
  | fuel + 1, b, out =>
    match takeBits 1 b with
    | none => ⟨out, false⟩
    | some (last, b) => match takeBits 2 b with
      | none => ⟨out, false⟩
      | some (ty, b) =>
        let r := match ty with
          | 0 => inflateStored b out
          | 1 => inflateCodes fixedLit fixedDist (b.length + 1) b out
          | 2 => match readCodes b with
            | none => (none, out)
            | some (lit, dist, b) => inflateCodes lit dist (b.length + 1) b out
          | _ => (none, out)
        match r with
        | (none, out) => ⟨out, false⟩
        | (some b, out) => if last = 1 then ⟨out, true⟩ else inflateBlocks fuel b out

/-- A raw Deflate stream. -/
def inflate (bs : List Byte) : Decoded := inflateBlocks (8 * bs.length + 1) (bitsOfBytes bs) []

end Sys2Proof.Machine
end

