-- ==== Sys2Proof/Machine/Flit.lean ====
section
/-!
DEFINITION. Flits of the Eweaz link and what a port sends (R410 to R414).
-/

namespace Sys2Proof.Machine

/-- Bytes of zeros. -/
def zeroBytes (n : Nat) : List Byte := List.replicate n 0

/-- Bytes cut or filled with zeros to a length. -/
def padTo (n : Nat) (bs : List Byte) : List Byte := (bs.take n) ++ zeroBytes (n - bs.length)

def State.port (s : State) (p : Nat) : LinkPort := mget {} s.links p
def State.modPort (s : State) (p : Nat) (f : LinkPort → LinkPort) : State :=
  { s with links := mput s.links p (f (s.port p)) }

-- Flits (R410, R411).

def flitSeq (f : Flit) : Nat := nbits f.hdr.toNat 63 52
def flitAck (f : Flit) : Nat := nbits f.hdr.toNat 51 40
def flitType (f : Flit) : Nat := nbits f.hdr.toNat 39 37
def flitVc (f : Flit) : Nat := nbits f.hdr.toNat 36 35
def flitCvc (f : Flit) : Nat := nbits f.hdr.toNat 34 33
def flitCcnt (f : Flit) : Nat := nbits f.hdr.toNat 32 26

/-- The CRC over bytes 0 to 251. -/
def flitCrc (hdr : BitVec 64) (payload : List Byte) : BitVec 32 := crc32c (leBytes 8 hdr.toNat ++ payload)
def flitGood (f : Flit) : Bool := f.payload.length = 244 && f.crc = flitCrc f.hdr f.payload

/-- A flit with its CRC. -/
def mkFlit (seq ack type vc cvc ccnt : Nat) (payload : List Byte) : Flit :=
  let hdr := w64 (seq * 2 ^ 52 + ack * 2 ^ 40 + type * 2 ^ 37 + vc * 2 ^ 35 + cvc * 2 ^ 33 + ccnt * 2 ^ 26)
  let p := padTo 244 payload
  ⟨hdr, p, flitCrc hdr p⟩

/-- Send flits on a port. -/
def LinkPort.send (p : LinkPort) (fs : List Flit) : LinkPort :=
  { p with out := p.out ++ fs, sinceAudit := p.sinceAudit + fs.length }

/-- The channel whose freed buffers the next sequenced flit returns: each in turn (R413). -/
def LinkPort.owes (p : LinkPort) : Nat :=
  (((List.range 4).map fun i => (p.lastCvc + 1 + i) % 4).find? fun v => p.rxOcc.getD v 0 ≠ 0).getD p.lastCvc

/-- A new sequenced flit goes out and is held until it is acknowledged; it carries the credits of one channel (R412,
R413). -/
def LinkPort.sequence (p : LinkPort) (type vc : Nat) (payload : List Byte) : LinkPort :=
  let v := p.owes
  let n := min (p.rxOcc.getD v 0) 64
  let f := mkFlit p.seqNext p.accepted type vc v n payload
  { p with
    seqNext := (p.seqNext + 1) % 4096, replay := p.replay ++ [f], lastCvc := v
    rxOcc := p.rxOcc.set v (p.rxOcc.getD v 0 - n) }.send [f]

/-- Whether a sequenced flit may go out now (R412, R415). -/
def LinkPort.open? (p : LinkPort) : Bool := p.up && !p.retrain && p.replay.length < 1024

/-- Data flits that wait go out while their channels have credits and the replay buffer has room (R412, R413). No rule
lays out their payload, which is free; `free` is the first free byte to take. -/
def LinkPort.pump : Nat → Nat → LinkPort → LinkPort × Nat
  | 0, free, p => (p, free)
  | fuel + 1, free, p =>
    match if p.open? then (List.range 4).find? fun v => p.waiting.getD v 0 ≠ 0 && p.credits.getD v 0 ≠ 0 else none with
    | none => (p, free)
    | some v =>
      let p := { p with
        waiting := p.waiting.set v (p.waiting.getD v 0 - 1), credits := p.credits.set v (p.credits.getD v 0 - 1)
        sent := p.sent.set v ((p.sent.getD v 0 + 1) % 65536) }
      LinkPort.pump fuel (free + 244) (p.sequence 0 v ((List.range 244).map fun i => Config.freeByte (free + i)))

/-- What waits on a port goes out as far as it may. -/
def State.pumpPort (s : State) (k : Nat) : State :=
  let (p, free) := LinkPort.pump 1024 s.free (s.port k)
  { s with links := mput s.links k p, free := free }

/-- A data flit of a channel is to go out, on the first port that is up. Which port leads to a device, and how many flits
a packet takes, no rule says (log entry 93). -/
def State.sendData (s : State) (vc : Nat) : State :=
  match s.links.find? fun p => p.2.up with
  | none => s
  | some (k, _) => (s.modPort k fun p => { p with waiting := p.waiting.set vc (p.waiting.getD vc 0 + 1) }).pumpPort k

end Sys2Proof.Machine
end

