-- ==== Sys2Proof/Machine/Float.lean ====
section
/-!
DEFINITION. Floating-point arithmetic (spec/05 R111 to R129): exact values, one rounding at the end, and the flags
that each operation raises. Encodings are natural numbers below 2^bits; flags are five bits NV DZ OF UF NX, high
bit first (R105).
-/

namespace Sys2Proof

open Machine

/-- Rounding modes in force (R116); SR carries the generator state (R124). -/
inductive RMode where
  | rne | rtz | rdn | rup | sr (g : Nat)
  deriving DecidableEq, Repr

/-- Raised flags, NV DZ OF UF NX from the high bit (R105). -/
abbrev Fl := BitVec 5

def Fl.nv : Fl := 16
def Fl.dz : Fl := 8
def Fl.of : Fl := 4
def Fl.uf : Fl := 2
def Fl.nx : Fl := 1

/-- An exact value (R112): a NaN, signalling or quiet; an infinity; or (−1)^neg · m · 2^e. -/
inductive FVal where
  | nan (sig : Bool)
  | inf (neg : Bool)
  | num (neg : Bool) (m : Nat) (e : Int)
  deriving DecidableEq, Repr

/-- Mantissa bits M (R111). -/
def Fmt.man : Fmt → Nat
  | .f64 => 52 | .f32 => 23 | .f16 => 10 | .bf16 => 7 | .e4m3 => 3 | .e5m2 => 2 | .e2m1 => 1

/-- Exponent bits (R111). -/
def Fmt.exp : Fmt → Nat
  | .f64 => 11 | .f32 => 8 | .f16 => 5 | .bf16 => 8 | .e4m3 => 4 | .e5m2 => 5 | .e2m1 => 2

/-- Exponent bias (R111). -/
def Fmt.bias : Fmt → Nat
  | .f64 => 1023 | .f32 => 127 | .f16 => 15 | .bf16 => 127 | .e4m3 => 7 | .e5m2 => 15 | .e2m1 => 1

/-- Formats with infinities (R111). -/
def Fmt.hasInf : Fmt → Bool
  | .f64 | .f32 | .f16 | .bf16 | .e5m2 => true
  | .e4m3 | .e2m1 => false

/-- The encoding of the infinity, or the first magnitude past the encodings where there is none. -/
def Fmt.infEnc (f : Fmt) : Nat := (2 ^ f.exp - 1) * 2 ^ f.man

/-- The magnitude encoding of the max finite (R111). -/
def Fmt.maxEnc : Fmt → Nat
  | .e4m3 => 0x7E
  | .e2m1 => 7
  | .f64 => Fmt.infEnc .f64 - 1
  | .f32 => Fmt.infEnc .f32 - 1
  | .f16 => Fmt.infEnc .f16 - 1
  | .bf16 => Fmt.infEnc .bf16 - 1
  | .e5m2 => Fmt.infEnc .e5m2 - 1

/-- The canonical NaN (R111, R118); for E2M1 the +0 that a NaN converts to (R117). -/
def Fmt.nanEnc : Fmt → Nat
  | .f64 => 0x7FF8000000000000 | .f32 => 0x7FC00000 | .f16 => 0x7E00 | .bf16 => 0x7FC0
  | .e4m3 => 0x7F | .e5m2 => 0x7E | .e2m1 => 0

/-- The sign bit as a value. -/
def Fmt.signOf (f : Fmt) (neg : Bool) : Nat := if neg then 2 ^ (f.bits - 1) else 0

/-- The format of a float element type. -/
def elemFmt : ElemTy → Fmt
  | .f64 => .f64 | .f32 => .f32 | .f16 => .f16 | .bf16 => .bf16 | .e4m3 => .e4m3 | .e5m2 => .e5m2
  | .e2m1 => .e2m1 | .i8 | .i16 | .i32 | .i64 | .n8 | .n16 | .n32 | .n64 => .f32

/-- The value of an encoding (R112). -/
def Fmt.dec (f : Fmt) (x : Nat) : FVal :=
  let neg := nbit x (f.bits - 1)
  let e := nbits x (f.bits - 2) f.man
  let m := x % 2 ^ f.man
  if f.hasInf = true ∧ e = 2 ^ f.exp - 1 then
    if m = 0 then .inf neg else .nan (!nbit m (f.man - 1))
  else if f = .e4m3 ∧ e = 15 ∧ m = 7 then .nan false
  else if e = 0 then .num neg m (1 - (f.bias : Int) - f.man)
  else .num neg (2 ^ f.man + m) ((e : Int) - f.bias - f.man)

/-- Whether an encoding is subnormal: nonzero with exponent field zero. -/
def Fmt.isSub (f : Fmt) (x : Nat) : Bool := nbits x (f.bits - 2) f.man = 0 && x % 2 ^ f.man ≠ 0

/-- An encoding with a subnormal read as zero of its sign when FTZ is set (R119). -/
def Fmt.flush (f : Fmt) (ftz : Bool) (x : Nat) : Nat :=
  if ftz && f.isSub x then f.signOf (nbit x (f.bits - 1)) else x % 2 ^ f.bits

/-- The value of an input under FTZ (R119). -/
def Fmt.read (f : Fmt) (ftz : Bool) (x : Nat) : FVal := f.dec (f.flush ftz x)

/-- m / 2^sh rounded to an integer (R116, R124), and whether that was inexact. -/
def roundInt (rm : RMode) (neg : Bool) (m : Nat) (sh : Int) : Nat × Bool :=
  if sh ≤ 0 then (m * 2 ^ (-sh).toNat, false)
  else
    let k := 2 ^ sh.toNat
    let n := m / k
    let r := m % k
    if r = 0 then (n, false)
    else
      let up := match rm with
        | .rne => decide (2 * r > k) || (decide (2 * r = k) && decide (n % 2 = 1))
        | .rtz => false
        | .rdn => neg
        | .rup => !neg
        | .sr g => decide (r * 2 ^ 16 / k + g ≥ 2 ^ 16)
      (if up then n + 1 else n, true)

/-- What an overflow delivers, as a magnitude encoding (R117). -/
def overflowEnc (f : Fmt) (rm : RMode) (neg : Bool) : Nat :=
  if !f.hasInf then f.maxEnc
  else match rm with
    | .rne | .sr _ => f.infEnc
    | .rtz => f.maxEnc
    | .rdn => if neg then f.infEnc else f.maxEnc
    | .rup => if neg then f.maxEnc else f.infEnc

/-- (−1)^neg · m · 2^e rounded to a format (R116, R117, R119): encoding and flags. -/
def roundNum (f : Fmt) (rm : RMode) (ftz : Bool) (neg : Bool) (m : Nat) (e : Int) : Nat × Fl :=
  let sg := f.signOf neg
  if m = 0 then (sg, 0)
  else
    let top : Int := (Nat.log2 m : Int) + e
    let emin : Int := 1 - (f.bias : Int)
    let qmin := emin - f.man
    let q := (if top < emin then emin else top) - f.man
    let (n, inexact) := roundInt rm neg m (q - e)
    let enc := (q - qmin).toNat * 2 ^ f.man + n
    let tiny := decide (top < emin) &&
      !(decide (top + 1 = emin) && decide ((roundInt rm neg m (top - f.man - e)).1 = 2 ^ (f.man + 1)))
    if enc > f.maxEnc then (sg + overflowEnc f rm neg, Fl.of ||| Fl.nx)
    else if tiny && ftz then (sg, Fl.uf ||| Fl.nx)
    else (sg + enc, (if inexact then Fl.nx else 0) ||| (if tiny && inexact then Fl.uf else 0))

/-- An exact value rounded to a format. A NaN is delivered canonical (R118); to E4M3 and E2M1 a NaN or an infinity
also sets NV (R117). -/
def roundVal (f : Fmt) (rm : RMode) (ftz : Bool) : FVal → Nat × Fl
  | .nan _ => (f.nanEnc, if f.hasInf then 0 else Fl.nv)
  | .inf neg => if f.hasInf then (f.signOf neg + f.infEnc, 0) else (f.signOf neg + f.maxEnc, Fl.nv)
  | .num neg m e => roundNum f rm ftz neg m e

def FVal.isNan : FVal → Bool
  | .nan _ => true
  | .inf _ | .num _ _ _ => false

def FVal.isSig : FVal → Bool
  | .nan b => b
  | .inf _ | .num _ _ _ => false

def FVal.negate : FVal → FVal
  | .nan b => .nan b
  | .inf n => .inf (!n)
  | .num n m e => .num (!n) m e

/-- NV for a signalling NaN among the inputs (R118). -/
def sigFl (xs : List FVal) : Fl := if xs.any FVal.isSig then Fl.nv else 0

/-- The exact product (R118: 0 · ∞ is invalid). -/
def mulX (a b : FVal) : FVal × Fl :=
  match a, b with
  | .nan _, _ => (.nan false, sigFl [a, b])
  | _, .nan _ => (.nan false, sigFl [a, b])
  | .inf n, .inf k => (.inf (n ^^ k), 0)
  | .inf n, .num k m _ => if m = 0 then (.nan false, Fl.nv) else (.inf (n ^^ k), 0)
  | .num k m _, .inf n => if m = 0 then (.nan false, Fl.nv) else (.inf (n ^^ k), 0)
  | .num n m e, .num k l d => (.num (n ^^ k) (m * l) (e + d), 0)

/-- The exact sum (R118: ∞ − ∞ is invalid; R149: an exact zero from opposite signs is +0, or −0 under RDN). -/
def addX (rm : RMode) (a b : FVal) : FVal × Fl :=
  match a, b with
  | .nan _, _ => (.nan false, sigFl [a, b])
  | _, .nan _ => (.nan false, sigFl [a, b])
  | .inf n, .inf k => if n = k then (.inf n, 0) else (.nan false, Fl.nv)
  | .inf n, .num _ _ _ => (.inf n, 0)
  | .num _ _ _, .inf n => (.inf n, 0)
  | .num n m e, .num k l d =>
    let lo := if e < d then e else d
    let x : Int := (m * 2 ^ (e - lo).toNat : Nat)
    let y : Int := (l * 2 ^ (d - lo).toNat : Nat)
    let z := (if n then -x else x) + (if k then -y else y)
    if z = 0 then (.num (if n = k then n else decide (rm = .rdn)) 0 lo, 0)
    else (.num (decide (z < 0)) z.natAbs lo, 0)

/-- The exact sum of two values as a real number: zero has no sign, and is +0 (R14, R226). -/
def addReal (a b : FVal) : FVal :=
  match (addX .rne a b).1 with
  | .num n m e => .num (n && m ≠ 0) m e
  | v => v

/-- The order of two values, −0 equal to +0; none when unordered (R152, R161). -/
def cmpX : FVal → FVal → Option Ordering
  | .nan _, _ => none
  | _, .nan _ => none
  | .inf n, .inf k => some (if n = k then .eq else if n then .lt else .gt)
  | .inf n, .num _ _ _ => some (if n then .lt else .gt)
  | .num _ _ _, .inf n => some (if n then .gt else .lt)
  | .num n m e, .num k l d =>
    let lo := if e < d then e else d
    let x : Int := (m * 2 ^ (e - lo).toNat : Nat)
    let y : Int := (l * 2 ^ (d - lo).toNat : Nat)
    some (compare (if n then -x else x) (if k then -y else y))

/-- FADD (R149). -/
def fAdd (f : Fmt) (rm : RMode) (ftz : Bool) (a b : Nat) : Nat × Fl :=
  let (v, fl) := addX rm (f.read ftz a) (f.read ftz b)
  let (r, gl) := roundVal f rm ftz v
  (r, fl ||| gl)

/-- FSUB (R149). -/
def fSub (f : Fmt) (rm : RMode) (ftz : Bool) (a b : Nat) : Nat × Fl :=
  let (v, fl) := addX rm (f.read ftz a) (f.read ftz b).negate
  let (r, gl) := roundVal f rm ftz v
  (r, fl ||| gl)

/-- FMUL (R149). -/
def fMul (f : Fmt) (rm : RMode) (ftz : Bool) (a b : Nat) : Nat × Fl :=
  let (v, fl) := mulX (f.read ftz a) (f.read ftz b)
  let (r, gl) := roundVal f rm ftz v
  (r, fl ||| gl)

/-- ±a·b ± c with one rounding (R154). -/
def fFma (f : Fmt) (rm : RMode) (ftz negp negc : Bool) (a b c : Nat) : Nat × Fl :=
  let (p, fl) := mulX (f.read ftz a) (f.read ftz b)
  let cv := f.read ftz c
  let (v, gl) := addX rm (if negp then p.negate else p) (if negc then cv.negate else cv)
  let (r, hl) := roundVal f rm ftz v
  (r, fl ||| gl ||| hl)

/-- FDIV (R118, R149). The quotient carries a sticky bit below enough bits to round once. -/
def fDiv (f : Fmt) (rm : RMode) (ftz : Bool) (a b : Nat) : Nat × Fl :=
  let x := f.read ftz a
  let y := f.read ftz b
  match x, y with
  | .nan _, _ => (f.nanEnc, sigFl [x, y])
  | _, .nan _ => (f.nanEnc, sigFl [x, y])
  | .inf _, .inf _ => (f.nanEnc, Fl.nv)
  | .inf n, .num k _ _ => (f.signOf (n ^^ k) + f.infEnc, 0)
  | .num n _ _, .inf k => (f.signOf (n ^^ k), 0)
  | .num n m e, .num k l d =>
    if l = 0 then
      if m = 0 then (f.nanEnc, Fl.nv) else (f.signOf (n ^^ k) + f.infEnc, Fl.dz)
    else
      let up := f.man + 4 + Nat.log2 l
      let q := m * 2 ^ up / l
      let sticky := if m * 2 ^ up % l = 0 then 0 else 1
      roundNum f rm ftz (n ^^ k) (2 * q + sticky) (e - d - up - 1)

/-- Integer square root from bit `b` downwards. -/
def isqrtFrom : Nat → Nat → Nat → Nat
  | 0, _, r => r
  | b + 1, n, r => isqrtFrom b n (if (r + 2 ^ b) * (r + 2 ^ b) ≤ n then r + 2 ^ b else r)

/-- The integer square root, rounded down. -/
def isqrt (n : Nat) : Nat := isqrtFrom (Nat.log2 n / 2 + 1) n 0

/-- FSQRT (R118, R149). -/
def fSqrt (f : Fmt) (rm : RMode) (ftz : Bool) (a : Nat) : Nat × Fl :=
  match f.read ftz a with
  | .nan s => (f.nanEnc, sigFl [.nan s])
  | .inf n => if n then (f.nanEnc, Fl.nv) else (f.infEnc, 0)
  | .num n m e =>
    if m = 0 then (f.signOf n, 0)
    else if n then (f.nanEnc, Fl.nv)
    else
      let up := 2 * (f.man + 4) + (if e % 2 = 0 then 0 else 1)
      let x := m * 2 ^ up
      let r := isqrt x
      let sticky := if r * r = x then 0 else 1
      roundNum f rm ftz false (2 * r + sticky) ((e - up) / 2 - 1)

/-- Whether operand a is delivered by FMIN, with −0 below +0. -/
def fLess (a b : FVal) : Bool :=
  match cmpX a b with
  | some .lt => true
  | some .eq =>
    match a, b with
    | .num n _ _, .num k _ _ => n && !k
    | .num _ _ _, .nan _ | .num _ _ _, .inf _ | .nan _, _ | .inf _, _ => false
  | some .gt | none => false

/-- FMIN and FMAX (R150). -/
def fMinMax (f : Fmt) (ftz isMax : Bool) (a b : Nat) : Nat × Fl :=
  let a := f.flush ftz a
  let b := f.flush ftz b
  let x := f.dec a
  let y := f.dec b
  let fl := sigFl [x, y]
  if x.isNan then (if y.isNan then f.nanEnc else b, fl)
  else if y.isNan then (a, fl)
  else if isMax then (if fLess x y then b else a, fl)
  else (if fLess y x then b else a, fl)

/-- FSGN (R151). -/
def fSgn (f : Fmt) (op : SgnOp) (a b : Nat) : Nat × Fl :=
  let x := f.dec (a % 2 ^ f.bits)
  let y := f.dec (b % 2 ^ f.bits)
  let sa := nbit a (f.bits - 1)
  let sb := nbit b (f.bits - 1)
  let sg := match op with
    | .copy => sb
    | .neg => !sb
    | .xor => sa ^^ sb
  (if x.isNan then f.nanEnc else a % 2 ^ (f.bits - 1) + f.signOf sg, sigFl [x, y])

/-- FCMP (R152). -/
def fCmp (f : Fmt) (ftz : Bool) (op : CmpOp) (a b : Nat) : Bool × Fl :=
  let x := f.read ftz a
  let y := f.read ftz b
  let un := x.isNan || y.isNan
  let quiet := sigFl [x, y]
  let loud := if un then Fl.nv else 0
  match op with
  | .eq => (decide (cmpX x y = some .eq), quiet)
  | .lt => (decide (cmpX x y = some .lt), loud)
  | .le => (decide (cmpX x y = some .lt) || decide (cmpX x y = some .eq), loud)
  | .un => (un, quiet)

/-- FCLASS (R153). -/
def fClass (f : Fmt) (a : Nat) : Nat × Fl :=
  let a := a % 2 ^ f.bits
  let sg := if nbit a (f.bits - 1) then 8 else 0
  match f.dec a with
  | .nan s => (sg + (if s then 5 else 4), sigFl [.nan s])
  | .inf _ => (sg + 3, 0)
  | .num _ m e =>
    let kind := if m = 0 then 0 else if f.isSub a then 1 else 2
    let int := if m = 0 ∨ 0 ≤ e ∨ m % 2 ^ (-e).toNat = 0 then 16 else 0
    let pow2 := if m ≠ 0 ∧ m = 2 ^ Nat.log2 m then 32 else 0
    (pow2 + int + sg + kind, 0)

/-- Float to float (R117, R118, R119, R176, R178). FTZ has no effect on conversions to E4M3, E5M2 and E2M1. -/
def cvtFF (dst src : Fmt) (rm : RMode) (ftz : Bool) (a : Nat) : Nat × Fl :=
  let z := ftz && dst.isFloat4
  let v := src.read z a
  let (r, fl) := roundVal dst rm z v
  (r, sigFl [v] ||| fl)

/-- Clamp an integer to the range of an integer type. -/
def clampInt (t : ElemTy) (x : Int) : Int :=
  let lo : Int := if t.isSigned then -(2 ^ (t.bits - 1) : Nat) else 0
  let hi : Int := if t.isSigned then (2 ^ (t.bits - 1) : Nat) - 1 else (2 ^ t.bits : Nat) - 1
  if x < lo then lo else if hi < x then hi else x

/-- Float to integer (R120): the value and the flags. -/
def cvtFI (dst : ElemTy) (src : Fmt) (rm : RMode) (ftz : Bool) (a : Nat) : Int × Fl :=
  match src.read ftz a with
  | .nan _ => (0, Fl.nv)
  | .inf n => (clampInt dst (if n then -(2 ^ 80 : Nat) else (2 ^ 80 : Nat)), Fl.nv)
  | .num n m e =>
    let (k, inexact) := roundInt rm n m (-e)
    let v : Int := if n then -(k : Int) else k
    let c := clampInt dst v
    if c = v then (v, if inexact then Fl.nx else 0) else (c, Fl.nv)

/-- Integer to float (R176). -/
def cvtIF (dst : Fmt) (rm : RMode) (ftz : Bool) (x : Int) : Nat × Fl :=
  roundNum dst rm ftz (decide (x < 0)) x.natAbs 0

/-- The integer that the low bits of a register hold, by its type (R94, R115). -/
def intOf (t : ElemTy) (x : Nat) : Int :=
  if t.isSigned then sint t.bits x else (x % 2 ^ t.bits : Nat)

/-- CVT (R176): a source in the low bits of `a` to the bits of the destination type. -/
def cvtAny (dst src : ElemTy) (rm : RMode) (ftz : Bool) (a : Nat) : Nat × Fl :=
  match src.isInt, dst.isInt with
  | true, true => (wrap dst.bits (clampInt dst (intOf src a)), 0)
  | true, false => cvtIF (elemFmt dst) rm ftz (intOf src a)
  | false, true =>
    let (v, fl) := cvtFI dst (elemFmt src) rm ftz a
    (wrap dst.bits v, fl)
  | false, false => cvtFF (elemFmt dst) (elemFmt src) rm ftz a

/-- VCVTSC's element (R179): x / 2^(e − 127) converted, a NaN for e = 0xFF. -/
def cvtScaled (dst src : Fmt) (rm : RMode) (e : Nat) (a : Nat) : Nat × Fl :=
  let v := src.read false a
  let y := if e = 255 then FVal.nan false else
    match v with
    | .num n m d => .num n m (d - ((e : Int) - 127))
    | .nan s => .nan s
    | .inf n => .inf n
  let (r, fl) := roundVal dst rm false y
  (r, sigFl [v] ||| (if e = 255 then Fl.nv else 0) ||| fl)

/-- One step of the stochastic-rounding generator (R122). -/
def genStep (g : BitVec 16) : BitVec 16 :=
  let h := g >>> 1
  if g.getLsbD 0 then h ^^^ 0xB400#16 else h

/-- The generator's seed for a lane (R123). -/
def genSeed (seed : BitVec 16) (lane : Nat) : BitVec 16 :=
  let g := seed ^^^ BitVec.ofNat 16 lane
  if g = 0 then 0xB400#16 else g

/-- RoundRNE of an exact value, subnormals honoured (R14, R126). -/
def roundRne (f : Fmt) (v : FVal) : Nat := (roundVal f .rne false v).1

/-- AMOFADD's sum (R287): RNE, subnormals honoured, FCSR ignored. -/
def fAddPlain (f : Fmt) (a b : Nat) : Nat := (fAdd f .rne false a b).1

/-- The exact sum of a list of values, from +0 (R126). -/
def sumX (xs : List FVal) : FVal := xs.foldl (fun a x => (addX .rne a x).1) (.num false 0 0)

/-- The value of an E8M0 scale byte (R114). -/
def scaleVal (b : Nat) : FVal := if b = 255 then .nan false else .num false 1 ((b : Int) - 127)

-- Special functions (R128, R129): fixed-point approximants, within which the free raw result is held.

/-- 2^(2^−i) · 2^64 for i = 1 to 32. -/
def exp2Table : List Nat :=
  [26087635650665564424, 21936999301089678046, 20116317054877281741, 19263451207323153961,
   18850675170876015534, 18647615946650685158, 18546908069882975960, 18496758270674070881,
   18471734244850835105, 18459234930309000272, 18452988445124272033, 18449865995240371898,
   18448304968436414829, 18447524504564044945, 18447134285009651015, 18446939178327825412]
  ++ [18446841625760745902, 18446792849670663276, 18446768461673986097, 18446756267687738521,
   18446750170697637485, 18446747122203342655, 18446745597956384161, 18446744835832952145,
   18446744454771247944, 18446744264240398796, 18446744168974974960, 18446744121342263226,
   18446744097525907405, 18446744085617729507, 18446744079663640560, 18446744076686596088]

/-- The product of the table's entries for the ones of a fraction, from bit `b` down. -/
def exp2Frac : List Nat → Nat → Nat → Nat → Nat
  | [], _, _, y => y
  | c :: cs, b, f, y => exp2Frac cs (b - 1) f (if nbit f b then y * c / 2 ^ 64 else y)

/-- 2^x for x = (−1)^n · m · 2^e, as y · 2^k. -/
def approxExp2 (n : Bool) (m : Nat) (e : Int) : Nat × Int :=
  let x := roundInt .rtz n m (-(e + 64))
  let v : Int := if n then -(x.1 : Int) else x.1
  let f := (v % (2 ^ 64 : Nat)).toNat
  (exp2Frac exp2Table 63 f (2 ^ 64), v / (2 ^ 64 : Nat) - 64)

/-- Fraction bits of log2 by repeated squaring, `y` in [2^96, 2^97). -/
def log2Bits : Nat → Nat → Nat → Nat
  | 0, _, acc => acc
  | k + 1, y, acc =>
    let z := y * y / 2 ^ 96
    if z ≥ 2 ^ 97 then log2Bits k (z / 2) (2 * acc + 1) else log2Bits k z (2 * acc)

/-- log2 of m · 2^e as an integer times 2^−40. -/
def approxLog2 (m : Nat) (e : Int) : Int :=
  let l := Nat.log2 m
  ((l : Int) + e) * (2 ^ 40 : Nat) + log2Bits 40 (m * 2 ^ 96 / 2 ^ l) 0

/-- π/2 · 2^96. -/
def halfPi : Int := 124451306656115542615260972311

/-- The Taylor terms of sin or cos in fixed point with 96 fraction bits. -/
def taylor : Nat → Nat → Int → Int → Int → Int
  | 0, _, _, _, acc => acc
  | k + 1, i, r2, t, acc =>
    let t' := -(t * r2 / (2 ^ 96 : Nat)) / ((i * (i + 1) : Nat) : Int)
    taylor k (i + 2) r2 t' (acc + t')

/-- sin (or cos) of (−1)^n · m · 2^e, times 2^96. -/
def approxTrig (isCos n : Bool) (m : Nat) (e : Int) : Int :=
  let x : Int := (roundInt .rtz n m (-(e + 96))).1
  let k := (x + halfPi / 2) / halfPi
  let r := x - k * halfPi
  let r2 := r * r / (2 ^ 96 : Nat)
  let s := taylor 10 2 r2 r r
  let c := taylor 10 1 r2 (2 ^ 96 : Nat) (2 ^ 96 : Nat)
  let kk := k % 4
  if isCos then
    if kk = 0 then c else if kk = 1 then -s else if kk = 2 then -c else s
  else
    let v := if kk = 0 then s else if kk = 1 then c else if kk = 2 then -s else -c
    if n then -v else v

/-- A relative bound 2^−b, held a little inside, or 2^−149 absolute below 2^−126 (R128), as `tol` and `te`. -/
def relTol (b : Nat) (y : Nat) (ye : Int) : Nat × Int :=
  if (Nat.log2 y : Int) + ye < -126 then (1, -149) else (y * (2 ^ 8 - 1), ye - b - 8)

/-- What is known of a special function at a finite input that is no exact case (R129): it lies within tol · 2^te of
y · 2^ye. -/
structure SfuNear where
  y : Int
  ye : Int
  tol : Nat
  te : Int
  deriving DecidableEq, Repr

/-- The exact result and the error bound at (−1)^n · m · 2^e, with m not zero. -/
def sfuNear (op : SfuOp) (n : Bool) (m : Nat) (e : Int) : SfuNear :=
  let l := Nat.log2 m
  match op with
  | .exp2 =>
    let (y, ye) := approxExp2 n m e
    let (tol, te) := relTol 22 y ye
    ⟨y, ye, tol, te⟩
  | .log2 =>
    let y := approxLog2 m e
    if y.natAbs ≤ 2 ^ 40 then ⟨y, -40, 2 ^ 8 - 1, -30⟩ else ⟨y, -40, y.natAbs * (2 ^ 8 - 1), -70⟩
  | .rcp =>
    let y := 2 ^ (64 + l) / m
    let (tol, te) := relTol 23 y (-e - 64 - l)
    ⟨if n then -(y : Int) else y, -e - 64 - l, tol, te⟩
  | .rsq =>
    let odd := e % 2 ≠ 0
    let y := isqrt (2 ^ 160 / (if odd then 2 * m else m))
    let ye := -((if odd then e - 1 else e) / 2) - 80
    let (tol, te) := relTol 22 y ye
    ⟨y, ye, tol, te⟩
  | .sin =>
    if (l : Int) + e < -40 then ⟨if n then -(m : Int) else m, e, 2 ^ 8 - 1, -29⟩
    else ⟨approxTrig false n m e, -96, 2 ^ 8 - 1, -29⟩
  | .cos => ⟨approxTrig true n m e, -96, 2 ^ 8 - 1, -29⟩

/-- The place of an F32 encoding in the order of values, −0 just below +0; and the encoding at a place. -/
def f32Key (b : Nat) : Nat := if 2 ^ 31 ≤ b then 2 ^ 32 - 1 - b else 2 ^ 31 + b
def f32At (k : Nat) : Nat := if k < 2 ^ 31 then 2 ^ 32 - 1 - k else k - 2 ^ 31

/-- A number held between two bounds. -/
def heldIn (lo hi k : Nat) : Nat := Nat.max lo (Nat.min hi k)

/-- The place of the free result at input `x`, held between the least and the greatest F32 that the error bound lets
through, and within ±1 for SIN and COS (R129). -/
def sfuFree (op : SfuOp) (x : Nat) (b : SfuNear) : Nat :=
  let y : FVal := .num (decide (b.y < 0)) b.y.natAbs b.ye
  let lo := f32Key (roundVal .f32 .rup false (addX .rne y (.num true b.tol b.te)).1).1
  let hi := f32Key (roundVal .f32 .rdn false (addX .rne y (.num false b.tol b.te)).1).1
  let v := heldIn lo hi (f32Key (Config.sfuRaw op (BitVec.ofNat 32 x)).toNat)
  match op with
  | .sin | .cos => heldIn (f32Key 0xBF800000) (f32Key 0x3F800000) v
  | .exp2 | .log2 | .rcp | .rsq => v

/-- The place of the result of a monotonic function at the input whose place is `t`, between the inputs at `a` and `b`
that have the results `fa` and `fb` (R129): the input halfway takes its own free result, held between those two, and so
on towards `t`. Every monotonic function within the bounds arises so, and no other. -/
def sfuMono (op : SfuOp) (t : Nat) : Nat → Nat → Nat → Nat → Nat → Nat
  | 0, _, _, fa, _ => fa
  | k + 1, a, b, fa, fb =>
    let m := (a + b) / 2
    let v := match Fmt.dec .f32 (f32At m) with
      | .num n mm e => heldIn fa fb (sfuFree op (f32At m) (sfuNear op n mm e))
      | .nan _ | .inf _ => fa
    if m = t then v else if t < m then sfuMono op t k a m fa v else sfuMono op t k m b v fb

/-- The place of the result at input `x` = (−1)^n · m · 2^e that is no exact case. EXP2 lies between the integers around
its input and LOG2 between the powers of two around it, where both are exact (R129). -/
def sfuPlace (op : SfuOp) (x : Nat) (n : Bool) (m : Nat) (e : Int) : Nat :=
  let int (v : Int) : Nat := (roundNum .f32 .rne false (decide (v < 0)) v.natAbs 0).1
  let pow (v : Int) : Nat := (roundNum .f32 .rne false false 1 v).1
  match op with
  | .exp2 =>
    let k : Int := if n then -((roundInt .rup false m (-e)).1 : Int) else (roundInt .rtz false m (-e)).1
    let right := if k = -1 then f32Key 0x80000000 else f32Key (int (k + 1))
    let (left, fl) := if k ≤ -150 then (f32Key (int (-150)) - 1, f32Key 0) else (f32Key (int k), f32Key (pow k))
    sfuMono op (f32Key x) 33 left right fl (f32Key (pow (k + 1)))
  | .log2 =>
    let k : Int := (Nat.log2 m : Int) + e
    let top := if k = 127 then f32Key 0x7F800000 else f32Key (int (k + 1))
    sfuMono op (f32Key x) 33 (f32Key (pow k)) (f32Key (pow (k + 1))) (f32Key (int k)) top
  | .rcp | .rsq | .sin | .cos => sfuFree op x (sfuNear op n m e)

/-- The result at an input that is no exact case, and its flags: it is inexact (R128), an overflow follows R117, and a
result is tiny where the exact value or what is delivered lies below the min normal (R119). Log entry 15. -/
def sfuHold (op : SfuOp) (ftz : Bool) (x : Nat) (n : Bool) (m : Nat) (e : Int) : Nat × Fl :=
  let b := sfuNear op n m e
  let near := roundNum .f32 .rne ftz (decide (b.y < 0)) b.y.natAbs b.ye
  if near.2 &&& Fl.of ≠ 0 then near
  else
    let res := f32At (sfuPlace op x n m e)
    if (Nat.log2 b.y.natAbs : Int) + b.ye < -126 ∨ res % 2 ^ 31 < 2 ^ 23 then
      (if ftz then res / 2 ^ 31 * 2 ^ 31 else res, Fl.uf ||| Fl.nx)
    else (res, Fl.nx)

/-- A special function of F32 bits (R128, R129): result and flags. -/
def sfu (op : SfuOp) (ftz : Bool) (x : Nat) : Nat × Fl :=
  match Fmt.read .f32 ftz x, op with
  | .nan s, _ => (Fmt.nanEnc .f32, sigFl [.nan s])
  | .inf n, .exp2 => (if n then 0 else Fmt.infEnc .f32, 0)
  | .inf n, .log2 => if n then (Fmt.nanEnc .f32, Fl.nv) else (Fmt.infEnc .f32, 0)
  | .inf n, .rcp => (Fmt.signOf .f32 n, 0)
  | .inf n, .rsq => if n then (Fmt.nanEnc .f32, Fl.nv) else (0, 0)
  | .inf _, .sin => (Fmt.nanEnc .f32, Fl.nv)
  | .inf _, .cos => (Fmt.nanEnc .f32, Fl.nv)
  | .num n m e, .exp2 =>
    let v := FVal.num n m e
    if cmpX v (.num false 128 0) ≠ some .lt then (Fmt.infEnc .f32, Fl.of ||| Fl.nx)
    else if cmpX v (.num true 150 0) = some .lt then (0, Fl.uf ||| Fl.nx)
    else
      let (k, inexact) := roundInt .rtz n m (-e)
      if !inexact && (!n || k ≤ 149) then roundNum .f32 .rne ftz false 1 (if n then -(k : Int) else k)
      else sfuHold .exp2 ftz x n m e
  | .num n m e, .log2 =>
    if m = 0 then (Fmt.signOf .f32 true + Fmt.infEnc .f32, Fl.dz)
    else if n then (Fmt.nanEnc .f32, Fl.nv)
    else if m = 2 ^ Nat.log2 m then
      let v : Int := (Nat.log2 m : Int) + e
      roundNum .f32 .rne ftz (decide (v < 0)) v.natAbs 0
    else sfuHold .log2 ftz x n m e
  | .num n m e, .rcp =>
    if m = 0 then (Fmt.signOf .f32 n + Fmt.infEnc .f32, Fl.dz)
    else if m = 2 ^ Nat.log2 m then roundNum .f32 .rne ftz n 1 (-((Nat.log2 m : Int) + e))
    else sfuHold .rcp ftz x n m e
  | .num n m e, .rsq =>
    if m = 0 then (Fmt.signOf .f32 n + Fmt.infEnc .f32, Fl.dz)
    else if n then (Fmt.nanEnc .f32, Fl.nv)
    else
      let m' := if e % 2 = 0 then m else 2 * m
      let e' := if e % 2 = 0 then e else e - 1
      if m' = 2 ^ Nat.log2 m' ∧ Nat.log2 m' % 2 = 0 then
        roundNum .f32 .rne ftz false 1 (-(e' / 2) - (Nat.log2 m' / 2 : Nat))
      else sfuHold .rsq ftz x n m e
  | .num n m e, .sin =>
    if m = 0 then (Fmt.signOf .f32 n, 0)
    else if cmpX (.num false m e) (.num false 32768 0) = some .gt then (0, Fl.nx)
    else sfuHold .sin ftz x n m e
  | .num n m e, .cos =>
    if m = 0 then (0x3F800000, 0)
    else if cmpX (.num false m e) (.num false 32768 0) = some .gt then (0x3F800000, Fl.nx)
    else sfuHold .cos ftz x n m e

/-- A special function of an element of F32, F16 or BF16 (R128, R181): a narrower element is widened exactly,
evaluated and rounded RNE, with the flags of both. -/
def sfuElem (op : SfuOp) (f : Fmt) (ftz : Bool) (x : Nat) : Nat × Fl :=
  match f with
  | .f32 => sfu op ftz x
  | .f64 | .f16 | .bf16 | .e4m3 | .e5m2 | .e2m1 =>
    let (r, fl) := sfu op ftz (cvtFF .f32 f .rne ftz x).1
    let (r', fl') := cvtFF f .f32 .rne ftz r
    (r', fl ||| fl' ||| sigFl [f.dec (x % 2 ^ f.bits)])

end Sys2Proof
end

