-- ==== Sys2Proof/Machine/Memory.lean ====
section
/-!
DEFINITION. The memory system (spec/13 R264 to R304, spec/19 R382 to R386): where an address leads, the cluster SRAM,
L1 lines with their dirty bytes, home memory with its sector checks, releases and acquires, and transaction conflicts.
-/

namespace Sys2Proof.Machine

-- Clusters and coordinates (R2, R18).

/-- Cluster number of global coordinates. -/
def clusterAt (x y : Nat) : Nat := y * 36 + x
/-- Global X of a cluster. -/
def clX (c : Nat) : Nat := c % 36
/-- Global Y of a cluster. -/
def clY (c : Nat) : Nat := c / 36
/-- The die of a cluster (R2). -/
def clDie (c : Nat) : Nat := clX c / 9 + 4 * (clY c / 8)

/-- A cluster's state. -/
def State.cl (s : State) (c : Nat) : Cluster := mget {} s.clusters c
/-- Change a cluster's state. -/
def State.modCl (s : State) (c : Nat) (f : Cluster → Cluster) : State :=
  { s with clusters := mput s.clusters c (f (s.cl c)) }

/-- A workgroup that is placed. -/
def State.wg? (s : State) (i : Nat) : Option Workgroup := s.wgs.find? fun w => w.id == i
/-- Change a placed workgroup. -/
def State.modWg (s : State) (i : Nat) (f : Workgroup → Workgroup) : State :=
  { s with wgs := s.wgs.map fun w => if w.id = i then f w else w }

/-- A thread's state; a thread that nothing has written holds its state at launch. -/
def Workgroup.thr (w : Workgroup) (t : Nat) : Thread := mget {} w.threads t
/-- Change a thread. -/
def Workgroup.modThr (w : Workgroup) (t : Nat) (f : Thread → Thread) : Workgroup :=
  { w with threads := mput w.threads t (f (w.thr t)) }
/-- Change a thread of a placed workgroup. -/
def State.modThr (s : State) (i t : Nat) (f : Thread → Thread) : State := s.modWg i fun w => w.modThr t f
/-- A thread of a placed workgroup. -/
def State.thr (s : State) (i t : Nat) : Thread :=
  match s.wg? i with
  | some w => w.thr t
  | none => {}

/-- The pipe of a thread (R23, R366). -/
def pipeOf (t : Nat) : Nat := t % 32
/-- Lanes of a fused size. -/
def laneCount : FSize → Nat
  | .f8 => 8
  | .f16 => 16
  | .f32 => 32

/-- The lowest thread of a group. -/
def Group.t0 (g : Group) : Nat := 32 * g.col + g.base
/-- Whether a thread belongs to a group's span (R25). -/
def Group.spans (g : Group) (t : Nat) : Bool := g.t0 ≤ t && t < g.t0 + laneCount g.f
/-- The threads of the lanes in a mask, ascending. -/
def Group.lanesOf (g : Group) (m : Mask) : List Nat := (bitsOf (laneCount g.f) m.toNat).map (g.t0 + ·)
/-- The group that a thread is in. A task thread is in none (R30). -/
def Workgroup.groupOf (w : Workgroup) (t : Nat) : Option Group := w.groups.find? fun g => g.spans t

/-- The issue state of the unit that a thread belongs to. -/
def Workgroup.ust (w : Workgroup) (t : Nat) : UState :=
  match w.groupOf t with
  | some g => g.u
  | none => (w.thr t).u

/-- A quad is in shared banking while a slot of it holds a group whose span includes it (R35). -/
def State.quadShared (s : State) (c q : Nat) : Bool :=
  s.wgs.any fun w => w.cluster == c && w.groups.any fun g => g.base ≤ 8 * q && 8 * q < g.base + laneCount g.f

/-- The L1 bank that a pipe works on: its private bank, or 32, the cluster-shared part (R271). -/
def State.bankOf (s : State) (c p : Nat) : Nat := if s.quadShared c (p / 8) then 32 else p

-- Window views (R267) and allocations (R349).

/-- S′: the scratchpad bytes rounded up to 32 (R267). -/
def LaunchRec.sPrime (r : LaunchRec) : Nat := roundUp r.scratch 32

/-- Bytes of a workgroup's allocations (R349, R360). -/
def LaunchRec.alloc (r : LaunchRec) : Nat := roundUp (r.sPrime + r.kt) 32

def sumOf (l : List Nat) : Nat := l.foldl (fun (a b : Nat) => a + b) 0

/-- Whether `n` bytes at an offset lie in the view (R267). -/
def LaunchRec.inView (r : LaunchRec) (o n : Nat) : Bool :=
  o + n ≤ r.scratch || ((r.sPrime ≤ o || r.sPrime = r.scratch) && o + n ≤ r.sPrime + r.kt)

/-- The SRAM offset of a view offset (R267). -/
def Workgroup.phys (w : Workgroup) (o : Nat) : Nat :=
  if o < w.cfg.sPrime then w.scratchBase + o else w.ktBase + (o - w.cfg.sPrime)

/-- WGID as one value (R103). -/
def Workgroup.wgid (w : Workgroup) : Nat := w.gx + 2 ^ 21 * w.gy + 2 ^ 42 * w.gz

/-- The running workgroup of a launch on a cluster, of several the one with the smallest WGID (R268). -/
def State.target? (s : State) (launch c : Nat) : Option Workgroup :=
  (s.wgs.filter fun w => w.launch == launch && w.cluster == c).foldl
    (fun b w => match b with
      | none => some w
      | some v => if w.wgid < v.wgid then some w else some v) none

-- Translation (R265, R382 to R386).

/-- Kinds of access, with their page-fault causes (R376). `drain` is the output of KTDRN, which resolves windows as an
atomic does (R268). -/
inductive Access where
  | load | store | atomic | fetch | drain
  deriving DecidableEq, Repr

/-- The page-fault cause of an access (R376). -/
def Access.pageFault : Access → Nat
  | .load => 5
  | .store | .atomic | .drain => 6
  | .fetch => 7

/-- Where a probe of an address leads: a location, a store to another cluster's window, a trap cause, a page fault
whose walk has already failed (R387), or a translation that must still be walked. -/
inductive Probe where
  | ok (l : Loc) (e : Option TlbEnt)
  | remote (cluster off : Nat)
  | trap (cause : Nat)
  | park
  | miss
  deriving DecidableEq, Repr

/-- Canonical addresses (R265). -/
def canonical (va : Word) : Bool := va.toNat < 2 ^ 56 || 2 ^ 64 - 2 ^ 56 ≤ va.toNat

/-- Window addresses (R265). -/
def isWindow (va : Word) : Bool := va.toNat / 2 ^ 30 = 0x3FFFE0000

/-- The own-cluster window form (R266): X = 63 with Y = 31, or the base 0xFFFF_8000_3F80_0000 that R266 and R87
state. -/
def ownForm (va : Word) : Bool :=
  let x := nbits va.toNat 24 19
  let y := nbits va.toNat 29 25
  y = 31 && (x = 63 || x = 48)

/-- The own-cluster window address of an offset (R266). -/
def ownAddr (o : Nat) : Word := w64 (0xFFFF80003F800000 + o)

/-- Fields of a leaf (R385). -/
def leafPerm (leaf : Word) (i : Nat) : Bool := leaf.getLsbD i
def leafPa (leaf : Word) : Nat := nbits leaf.toNat 51 12 * 4096
def leafSpace (dev : Nat) (leaf : Word) : Space :=
  match nbits leaf.toNat 9 8 with
  | 0 => .dev
  | 1 => if nbits leaf.toNat 59 52 = dev then .dev else .peer (nbits leaf.toNat 59 52)
  | 2 => .host
  | _ => .pcie

/-- The number of a page at a level. -/
def vpnOf (va : Word) (level : Nat) : Nat := va.toNat % 2 ^ 57 / 2 ^ (12 + 9 * level)

/-- Whether two TLB entries are for a common page that some context finds both by (R195). -/
def TlbEnt.meets (e d : TlbEnt) : Bool :=
  let k := max e.level d.level
  (e.ctx = d.ctx || leafPerm e.leaf 6) && e.vpn / 2 ^ (9 * (k - e.level)) = d.vpn / 2 ^ (9 * (k - d.level))

/-- Whether a TLB entry translates an address for a context (R382, R385: G is valid in every context). -/
def TlbEnt.hits (e : TlbEnt) (ctx : Nat) (va : Word) : Bool :=
  (e.ctx = ctx || leafPerm e.leaf 6) && e.vpn = vpnOf va e.level

/-- The entry that translates an address: of the pipe's micro-TLB, else of the cluster's TLB (R382). -/
def Cluster.tlbFind (cl : Cluster) (p ctx : Nat) (va : Word) : Option TlbEnt :=
  match (mget [] cl.utlb p).find? fun e => e.hits ctx va with
  | some e => some e
  | none => cl.tlb.find? fun e => e.hits ctx va

/-- Whether a leaf permits an access at a level of privilege (R375, R386). -/
def leafAllows (leaf : Word) (pr : Priv) (k : Access) : Bool :=
  let u := leafPerm leaf 5
  match k, pr with
  | .load, .u => leafPerm leaf 2 && u
  | .load, .s => leafPerm leaf 2
  | .store, .u | .atomic, .u | .drain, .u => leafPerm leaf 3 && u
  | .store, .s | .atomic, .s | .drain, .s => leafPerm leaf 3
  | .fetch, .u => leafPerm leaf 4 && u
  | .fetch, .s => leafPerm leaf 4 && !u

/-- The location that a TLB entry gives an address. A device-memory address past the end of device memory is no
location. -/
def TlbEnt.loc (e : TlbEnt) (dev : Nat) (va : Word) : Option Loc :=
  let pa := leafPa e.leaf + va.toNat % 2 ^ (12 + 9 * e.level)
  let sp := leafSpace dev e.leaf
  if sp = .dev ∧ Config.devBytes ≤ pa then none
  else some (.mem sp pa (leafPerm e.leaf 10))

/-- Where an access of `n` bytes at a window address leads (R266, R268, R269). -/
def State.probeWindow (s : State) (w : Workgroup) (k : Access) (va : Word) (n : Nat) : Probe :=
  let x := nbits va.toNat 24 19
  let y := nbits va.toNat 29 25
  let off := va.toNat % 2 ^ 19
  if k = .fetch then .trap 8
  else if ownForm va then
    if w.cfg.inView off n then .ok (.sram w.cluster (w.phys off)) none else .trap 8
  else if 36 ≤ x ∨ 16 ≤ y then .trap 8
  else if !w.cfg.inView off n then .trap 8
  else if clusterAt x y = w.cluster then .ok (.sram w.cluster (w.phys off)) none
  else if k = .store then .remote (clusterAt x y) off
  else match s.target? w.launch (clusterAt x y) with
    | none => .trap 8
    | some v => .ok (.sram v.cluster (v.phys off)) none

/-- Where an access of `n` bytes leads (R265, R268, R375, R382 to R387). -/
def State.probe (s : State) (w : Workgroup) (t : Nat) (pr : Priv) (k : Access) (va : Word) (n : Nat) : Probe :=
  if !canonical va then .trap 8
  else if isWindow va then s.probeWindow w k va n
  else
    let cl := s.cl w.cluster
    let e? := match cl.tlbFind (pipeOf t) w.ctx va with
      | some e => some e
      | none => (w.ust t).walked.find? fun e => e.hits w.ctx va
    match e? with
    | some e =>
      if !leafAllows e.leaf pr k then .trap 8
      else match e.loc s.devNum va with
        | some l => .ok l (some e)
        | none => .trap 8
    | none =>
      match cl.merge.find? fun m => m.ctx == w.ctx && m.vpn == vpnOf va 0 with
      | some m => if m.failed.isSome then .park else .miss
      | none => .miss

/-- Keep a used translation in the pipe's micro-TLB of 16 entries (R382). -/
def State.noteTlb (s : State) (c p : Nat) (e : Option TlbEnt) : State :=
  match e with
  | none => s
  | some e =>
    let u := mget [] (s.cl c).utlb p
    if u.contains e then s else s.modCl c fun cl => { cl with utlb := mput cl.utlb p ((e :: u).take 16) }

/-- The translations that instructions waiting on a cluster hold and that satisfy a condition go with the TLB entries
(R195, R196). -/
def State.dropWalked (s : State) (c : Nat) (p : TlbEnt → Bool) : State :=
  let keep := fun (u : UState) => { u with walked := u.walked.filter fun e => !p e }
  { s with wgs := s.wgs.map fun w =>
      if w.cluster ≠ c then w
      else { w with
        threads := w.threads.map fun e => (e.1, { e.2 with u := keep e.2.u })
        groups := w.groups.map fun g => { g with u := keep g.u } } }

/-- A miss joins the merge table, or finds it full (R383). -/
def State.joinMiss (s : State) (w : Workgroup) (t cause : Nat) (va : Word) : State :=
  let wt : Waiter := ⟨w.id, t, (w.ust t).pc, cause, va⟩
  let vpn := vpnOf va 0
  let m := (s.cl w.cluster).merge
  if m.any fun e => e.ctx == w.ctx && e.vpn == vpn then
    s.modCl w.cluster fun cl => { cl with merge := m.map fun e =>
      if e.ctx = w.ctx ∧ e.vpn = vpn then
        { e with waiters := (e.waiters.filter fun v => !(v.wg == w.id && v.t == t)) ++ [wt] } else e }
  else if m.length < 64 then
    s.modCl w.cluster fun cl => { cl with merge := m ++ [{ ctx := w.ctx, vpn := vpn, waiters := [wt] }] }
  else s

-- Home memory, with sector checks held as differences (R301, R302).

/-- The index of a byte of memory outside the device: host memory, then PCIe peer space, then the peer devices. -/
def outsideKey (sp : Space) (a : Nat) : Nat :=
  match sp with
  | .dev => a
  | .host => a
  | .pcie => 2 ^ 64 + a
  | .peer d => 2 ^ 65 + d * 2 ^ 64 + a

/-- A byte at its home. -/
def State.homeByte (s : State) (sp : Space) (a : Nat) : Byte :=
  match sp with
  | .dev => mget 0 s.mem a
  | .peer _ | .host | .pcie => (mfind s.outside (outsideKey sp a)).getD (Config.outsideByte sp a)

/-- `n` bytes at their home. -/
def State.homeBytes (s : State) (sp : Space) (a n : Nat) : List Byte :=
  (List.range n).map fun i => s.homeByte sp (a + i)

/-- The sectors that `n` bytes at `a` cover wholly. -/
def fullSectors (a n : Nat) : List Nat :=
  (List.range (n / 32 + 2)).map (a / 32 + ·) |>.filter fun k => a ≤ 32 * k && 32 * k + 32 ≤ a + n

/-- The sectors that `n` bytes at `a` touch. -/
def touchedSectors (a n : Nat) : List Nat :=
  if n = 0 then [] else (List.range ((a + n - 1) / 32 - a / 32 + 1)).map (a / 32 + ·)

/-- The pages that `n` bytes at `a` touch. -/
def touchedPages (a n : Nat) : List Nat :=
  if n = 0 then [] else (List.range ((a + n - 1) / 4096 - a / 4096 + 1)).map (a / 4096 + ·)

/-- A write invalidates the copies of its pages and counts for the epoch (R274). -/
def pageWrites (m : Map PageInfo) (a n : Nat) : Map PageInfo :=
  (touchedPages a n).foldl (fun m k =>
    let p := mget {} m k
    mput m k { p with writes := p.writes + 1, replicated := false, copies := [], dies := [] }) m

/-- Reads of a page from another die count for the epoch, each sector once (R274). Device memory is held in eight stacks
in turn; a reader that is on none of their dies is numbered 8. -/
def State.pageReads (s : State) (die page n : Nat) : State :=
  let p := mget {} s.pages page
  if 4096 * page / Config.stackBytes = die then s
  else { s with pages := mput s.pages page { p with reads := p.reads + n } }

/-- A read of bytes in one sector. -/
def State.pageRead (s : State) (die a : Nat) : State := s.pageReads die (a / 4096) 1

/-- Memory outside the device takes bytes; a whole sector of a peer device that they make anew is good again (R302). -/
def State.outsideWrite (s : State) (sp : Space) (a : Nat) (bs : List Byte) : State :=
  let put := fun (o : Map Byte) (y : Nat × Byte) => mput o (outsideKey sp (a + y.1)) y.2
  { s with
    outside := ((List.range bs.length).zip bs).foldl put s.outside
    peerBad := s.peerBad.filter fun e => !((fullSectors a bs.length).any fun k => outsideKey sp (32 * k) / 32 == e.1) }

/-- Memory that is reached over the link (R264). -/
def isPeer (sp : Space) : Bool :=
  match sp with
  | .peer _ => true
  | .dev | .host | .pcie => false

/-- Write bytes at their home (R273, R274). A sector that the write covers wholly gets a check made from its new
bytes and holds no error any more (R302, R304); a sector written in part keeps its check's difference. -/
def State.homeWrite (s : State) (sp : Space) (a : Nat) (bs : List Byte) : State :=
  match sp with
  | .dev =>
    let full := fullSectors a bs.length
    { s with
      pages := pageWrites s.pages a bs.length
      mem := msets 0 s.mem a bs
      memSyn := full.foldl (fun m k => mset 0 m k 0) s.memSyn
      memEcc := s.memEcc.filter fun k => !full.contains k }
  | .peer _ => (s.outsideWrite sp a bs).sendData 0
  | .host | .pcie => s.outsideWrite sp a bs

/-- What a read that reaches a byte's home does beside reading: from another die it counts for the epoch (R274), of a
peer device it is a request over the link (R410). -/
def State.homeSeen (s : State) (die : Nat) (sp : Space) (a : Nat) : State :=
  match sp with
  | .dev => s.pageRead die a
  | .peer _ => s.sendData 0
  | .host | .pcie => s

/-- The same for a read of `n` bytes of device memory: each sector of each page is one read. -/
def State.homeSeenAll (s : State) (die a n : Nat) : State :=
  (touchedPages a n).foldl (fun s k =>
    let lo := max a (4096 * k)
    s.pageReads die k (touchedSectors lo (min (a + n) (4096 * k + 4096) - lo)).length) s

/-- A read of `n` bytes of some memory at its home. -/
def State.seenAt (s : State) (die : Nat) (sp : Space) (a n : Nat) : State :=
  match sp with
  | .dev => s.homeSeenAll die a n
  | .peer _ | .host | .pcie => s.homeSeen die sp a

/-- The first sector of device memory among those touched that fails, with its cause: 0x09 before 0x0A in a sector
(R303, R377). -/
def State.homeFail (s : State) (a n : Nat) : Option (Nat × Nat) :=
  (touchedSectors a n).findSome? fun k =>
    if mget 0 s.memSyn k ≠ 0 then some (k, 9) else if s.memEcc.contains k then some (k, 10) else none

/-- The same of any memory: reads of host memory and PCIe peer space are checked as they enter (R302), and a failing
sector of a peer device ends the request with an error (R303). -/
def State.memFail (s : State) (sp : Space) (a n : Nat) : Option (Nat × Nat) :=
  match sp with
  | .dev => s.homeFail a n
  | .peer _ => (touchedSectors a n).findSome? fun k => (mfind s.peerBad (outsideKey sp (32 * k) / 32)).map (k, ·)
  | .host | .pcie => none

-- Cluster SRAM (R18, R267).

def State.sramBytes (s : State) (c o n : Nat) : List Byte := mgets 0 (s.cl c).sram o n

/-- Write SRAM bytes; whole sectors get a new check (R302, R304). -/
def State.sramWrite (s : State) (c o : Nat) (bs : List Byte) : State :=
  let full := fullSectors o bs.length
  s.modCl c fun cl => { cl with
    sram := msets 0 cl.sram o bs
    sramSyn := full.foldl (fun m k => mset 0 m k 0) cl.sramSyn
    sramEcc := cl.sramEcc.filter fun k => !full.contains k }

def State.sramFail (s : State) (c o n : Nat) : Option (Nat × Nat) :=
  let cl := s.cl c
  (touchedSectors o n).findSome? fun k =>
    if mget 0 cl.sramSyn k ≠ 0 then some (k, 9) else if cl.sramEcc.contains k then some (k, 10) else none

-- L1 lines (R270, R271).

/-- Byte `i` of a vector (R95). -/
def vbyte (v : Vec) (i : Nat) : Byte := v.extractLsb' (8 * i) 8
/-- A vector with byte `i` replaced. -/
def vsetByte (v : Vec) (i : Nat) (b : Byte) : Vec :=
  (v &&& ~~~((255#256) <<< (8 * i))) ||| (b.setWidth 256 <<< (8 * i))
/-- The 32 bytes of a vector, ascending. -/
def vbytes (v : Vec) : List Byte := (List.range 32).map (vbyte v)
/-- A vector from its bytes, ascending. -/
def vofBytes (bs : List Byte) : Vec := BitVec.ofNat 256 (leNat bs)

def L1Line.at (l : L1Line) (b : Nat) (sp : Space) (n : Nat) : Bool := l.bank == b && l.sp == sp && l.line == n

def Cluster.l1find (cl : Cluster) (b : Nat) (sp : Space) (n : Nat) : Option L1Line :=
  cl.l1.find? fun l => l.at b sp n

/-- Put a line into its bank, replacing the copy there. -/
def Cluster.l1put (cl : Cluster) (x : L1Line) : Cluster :=
  { cl with l1 := x :: cl.l1.filter fun l => !(l.at x.bank x.sp x.line) }

/-- A cluster's scratchpad: the total of its allocations, in steps of 64 KiB (R18, R360). -/
def State.padBytes (s : State) (c : Nat) : Nat :=
  roundUp (sumOf ((s.wgs.filter fun w => w.cluster == c).map (·.cfg.alloc))) 65536

/-- The lines that a bank holds at most: the rest of the SRAM is 32 KiB of cluster-shared part and four equal quad
parts, each divided into eight banks, or in shared banking added to the cluster-shared part (R264, R271). -/
def State.l1cap (s : State) (c b : Nat) : Nat :=
  let part := (Config.sramBytes - s.padBytes c - 32768) / 4
  if b = 32 then (32768 + part * ((List.range 4).filter (s.quadShared c)).length) / 32 else part / 8 / 32

/-- Whether a bank holds a line or has room for it. A line that finds no room is not kept: no rule says which line it
would replace (log entry 14). -/
def State.l1room (s : State) (c b : Nat) (sp : Space) (n : Nat) : Bool :=
  ((s.cl c).l1find b sp n).isSome || ((s.cl c).l1.filter fun l => l.bank == b).length < s.l1cap c b

/-- A line as its home holds it. -/
def State.homeLine (s : State) (b : Nat) (sp : Space) (n : Nat) : L1Line :=
  { bank := b, sp := sp, line := n, data := vofBytes (s.homeBytes sp (32 * n) 32)
    syn := if sp = .dev then mget 0 s.memSyn n else if (s.memFail sp (32 * n) 32).map (·.2) = some 9 then 1 else 0
    ecc := if sp = .dev then s.memEcc.contains n else (s.memFail sp (32 * n) 32).map (·.2) == some 10 }

/-- The copy of a line that bank `b` reads: its own, else the cluster-shared part's, else the home's (R271). -/
def State.l1line (s : State) (c b : Nat) (sp : Space) (n : Nat) : L1Line :=
  let cl := s.cl c
  match cl.l1find b sp n with
  | some l => l
  | none => match cl.l1find 32 sp n with
    | some l => { l with bank := b, dirty := 0 }
    | none => s.homeLine b sp n

/-- Whether a line is cached for a bank. -/
def State.l1has (s : State) (c b : Nat) (sp : Space) (n : Nat) : Bool :=
  ((s.cl c).l1find b sp n).isSome || ((s.cl c).l1find 32 sp n).isSome

/-- A line that a bank takes in without holding a copy is read from its home, unless all of it is written anew (R271,
R274). -/
def State.fillSeen (s : State) (c b : Nat) (sp : Space) (n : Nat) (whole : Bool) : State :=
  if whole || s.l1has c b sp n then s else s.homeSeen (clDie c) sp (32 * n)

/-- The memory that the L1 levels cache: device and peer memory whose page allows it (R264, R385). -/
def cached (sp : Space) (nc : Bool) : Bool :=
  !nc && match sp with
    | .dev | .peer _ => true
    | .host | .pcie => false

/-- A copy of a line with the dirty bytes of another on top. Bytes that are not all of the line leave its check's
difference and its error as they are (R302, R304). -/
def L1Line.laid (base top : L1Line) : L1Line :=
  let whole := top.dirty = BitVec.allOnes 32
  { base with
    data := (List.range 32).foldl (fun d i => if top.dirty.getLsbD i then vsetByte d i (vbyte top.data i) else d) base.data
    dirty := base.dirty ||| top.dirty
    syn := if whole then top.syn else base.syn
    ecc := if whole then top.ecc else base.ecc
    owner := top.owner }

/-- Whether any Eweaz port is up (R415). -/
def State.linkUp (s : State) : Bool := s.links.any fun p => p.2.up

/-- Whether a location is peer memory that no link reaches now (R415). -/
def State.farLoc (s : State) (l : Loc) : Bool :=
  match l with
  | .mem sp _ _ => isPeer sp && !s.linkUp
  | .sram _ _ => false

/-- Write bytes at their home, those that a mask names. -/
def State.homeMask (s : State) (sp : Space) (a : Nat) (m : Mask) (bs : List Byte) : State :=
  let each := fun (put : State → Nat → List Byte → State) =>
    ((List.range bs.length).zip bs).foldl (fun s b => if m.getLsbD b.1 then put s (a + b.1) [b.2] else s) s
  if m = BitVec.allOnes 32 then s.homeWrite sp a bs
  else match sp with
    | .peer _ => (each fun s a bs => s.outsideWrite sp a bs).sendData 0
    | .dev | .host | .pcie => each fun s a bs => s.homeWrite sp a bs

/-- The cause that a read of a line fails with (R303). -/
def L1Line.bad (l : L1Line) : Option Nat := if l.syn ≠ 0 then some 9 else if l.ecc then some 10 else none

/-- A sector of peer memory that a written line's error keeps failing (R304). -/
def State.keepBad (s : State) (sp : Space) (a : Nat) (bad : Option Nat) : State :=
  match bad with
  | some c => { s with peerBad := mput s.peerBad (outsideKey sp a / 32) c }
  | none => s

/-- Write a line's dirty bytes to its home (R271). A line that is dirty in all its bytes takes its check with it. A
write-back to a peer device waits while no link is up (R415). -/
def State.lineOut (s : State) (c : Nat) (l : L1Line) : State :=
  if isPeer l.sp && !s.linkUp then
    { s with
      nextId := s.nextId + 1
      linkReqs := s.linkReqs ++ [{ id := s.nextId, wg := l.owner.1, t := l.owner.2.1, va := l.owner.2.2, store := true
                                   since := s.clock, cl := c, sp := l.sp, addr := 32 * l.line, bytes := vbytes l.data
                                   mask := l.dirty, wb := true
                                   bad := if l.dirty = BitVec.allOnes 32 then l.bad else none }] }
  else
    let s' := s.homeMask l.sp (32 * l.line) l.dirty (vbytes l.data)
    if l.dirty ≠ BitVec.allOnes 32 then s'
    else if l.sp = .dev then
      { s' with
        memSyn := mset 0 s'.memSyn l.line l.syn
        memEcc := (s'.memEcc.filter (· ≠ l.line)) ++ (if l.ecc then [l.line] else []) }
    else s'.keepBad l.sp (32 * l.line) l.bad

/-- Write a line back to its home. The cluster-shared part lies between a private bank and the home: its copy takes the
bytes as they pass, clean, so that no older one is read there (R271, R277). -/
def State.lineHome (s : State) (c : Nat) (l : L1Line) : State :=
  let s := s.lineOut c l
  if l.bank = 32 then s
  else match (s.cl c).l1find 32 l.sp l.line with
    | none => s
    | some k => s.modCl c fun cl => cl.l1put { k.laid l with dirty := k.dirty &&& ~~~l.dirty }

/-- Merge a line's dirty bytes into the cluster-shared part (R272, R279), or past it to the home where it has no
room. -/
def State.lineShared (s : State) (c : Nat) (l : L1Line) : State :=
  if s.l1room c 32 l.sp l.line then
    (s.fillSeen c 32 l.sp l.line (l.dirty = BitVec.allOnes 32)).modCl c fun cl =>
      cl.l1put ((s.l1line c 32 l.sp l.line).laid l)
  else s.lineHome c l

/-- Mark the lines that satisfy a condition clean. -/
def State.l1clean (s : State) (c : Nat) (p : L1Line → Bool) : State :=
  s.modCl c fun cl => { cl with l1 := cl.l1.map fun l => if p l then { l with dirty := 0 } else l }

/-- Drop the lines that satisfy a condition. -/
def State.l1drop (s : State) (c : Nat) (p : L1Line → Bool) : State :=
  s.modCl c fun cl => { cl with l1 := cl.l1.filter fun l => !p l }

/-- Write the dirty lines that satisfy a condition back to their homes, the cluster-shared part's first. -/
def State.l1flush (s : State) (c : Nat) (p : L1Line → Bool) : State :=
  let ls := (s.cl c).l1.filter fun l => p l && l.dirty ≠ 0
  let s := (ls.filter fun l => l.bank == 32).foldl (fun s l => s.lineHome c l) s
  let s := (ls.filter fun l => l.bank ≠ 32).foldl (fun s l => s.lineHome c l) s
  s.l1clean c p

/-- Read `n` bytes of memory for a pipe, filling the line unless told not to (R68, R271). -/
def State.memRead (s : State) (c p : Nat) (alloc : Bool) (sp : Space) (a n : Nat) (nc : Bool) : State × List Byte :=
  if cached sp nc then
    let b := s.bankOf c p
    let l := s.l1line c b sp (a / 32)
    let s := if s.l1has c b sp (a / 32) then s else s.homeSeen (clDie c) sp a
    let keep := alloc && ((s.cl c).l1find b sp (a / 32)).isNone && s.l1room c b sp (a / 32)
    let s := if keep then s.modCl c fun cl => cl.l1put l else s
    (s, (List.range n).map fun i => vbyte l.data (a % 32 + i))
  else (s.homeSeen (clDie c) sp a, s.homeBytes sp a n)

/-- Write bytes of one line for a pipe (R271): into its bank, or past it on a miss that does not allocate. -/
def State.memWrite (s : State) (c p : Nat) (alloc : Bool) (sp : Space) (a : Nat) (bs : List Byte) (nc : Bool) :
    State :=
  if cached sp nc then
    let b := s.bankOf c p
    let n := a / 32
    let bank := if ((s.cl c).l1find b sp n).isSome || (alloc && s.l1room c b sp n) then some b
      else if ((s.cl c).l1find 32 sp n).isSome then some 32 else none
    match bank with
    | none => s.homeWrite sp a bs
    | some b =>
      let l := s.l1line c b sp n
      let ix := (List.range bs.length).zip bs
      let l' := ix.foldl (fun (l : L1Line) (y : Nat × Byte) =>
        { l with data := vsetByte l.data (a % 32 + y.1) y.2, dirty := l.dirty ||| (1#32 <<< (a % 32 + y.1)) }) l
      let whole := bs.length = 32
      (s.fillSeen c b sp n whole).modCl c fun cl =>
        cl.l1put { l' with syn := if whole then 0 else l.syn, ecc := l.ecc && !whole }
  else s.homeWrite sp a bs

/-- The cause of a failed check on a read for a pipe (R303). -/
def State.readFail (s : State) (c p : Nat) (l : Loc) (n : Nat) : Option Nat :=
  match l with
  | .sram k o => (s.sramFail k o n).map (·.2)
  | .mem sp a nc =>
    if cached sp nc then
      (s.l1line c (s.bankOf c p) sp (a / 32)).bad
    else (s.memFail sp a n).map (·.2)

/-- The cause of a failed check on the read of an atomic (R288, R303), on the bytes that its unit reads: at the home, what
stands there once the cluster's copies are written back; at the cluster unit, the cluster-shared part's copy with the
dirty bytes of the pipe's bank. -/
def State.unitFail (s : State) (c p : Nat) (wide : Bool) (l : Loc) (n : Nat) : Option Nat :=
  match l with
  | .sram k o => (s.sramFail k o n).map (·.2)
  | .mem sp a nc =>
    if cached sp nc && !wide then
      let k := s.l1line c 32 sp (a / 32)
      let x : L1Line := match (s.cl c).l1find (s.bankOf c p) sp (a / 32) with
        | some y => if y.bank = 32 then k else k.laid y
        | none => k
      x.bad
    else
      ((s.l1flush c fun x => x.sp == sp && x.line == a / 32).memFail sp a n).map (·.2)

/-- Read a location for a pipe. -/
def State.readLoc (s : State) (c p : Nat) (alloc : Bool) (l : Loc) (n : Nat) : State × List Byte :=
  match l with
  | .sram k o => (s, s.sramBytes k o n)
  | .mem sp a nc => s.memRead c p alloc sp a n nc

/-- Write a location for a pipe. -/
def State.writeLoc (s : State) (c p : Nat) (alloc : Bool) (l : Loc) (bs : List Byte) : State :=
  match l with
  | .sram k o => s.sramWrite k o bs
  | .mem sp a nc => s.memWrite c p alloc sp a bs nc

-- Transaction conflicts (R295 to R297).

/-- The line of a location, as transactions name it. -/
def Loc.lineId : Loc → LineId
  | .sram _ o => ⟨true, o / 32⟩
  | .mem _ a _ => ⟨false, a / 32⟩

/-- Abort status of a cause (R298). -/
def abortStatus (cause user trap : Nat) : BitVec 24 := BitVec.ofNat 24 (cause + 256 * user + 65536 * trap)

/-- Doom the open transaction of an issue state, once. -/
def UState.doom (u : UState) (st : BitVec 24) : UState :=
  match u.tx with
  | none => u
  | some x => { u with tx := some { x with doomed := some (x.doomed.getD st) } }

/-- Change the issue state of every unit of a workgroup; the unit is named by its lowest thread. -/
def Workgroup.mapUnits (w : Workgroup) (f : Nat → UState → UState) : Workgroup :=
  { w with
    threads := w.threads.map fun (t, th) => (t, { th with u := f t th.u })
    groups := w.groups.map fun g => { g with u := f g.t0 g.u } }

/-- An agent of a cluster reads or writes a line: the transactions of other units that hold it abort with CONFLICT
(R296). `me` is the unit of the access, none for an agent that is no unit. -/
def State.conflict (s : State) (c : Nat) (me : Option UnitId) (write : Bool) (l : LineId) : State :=
  { s with wgs := s.wgs.map fun w =>
      if w.cluster ≠ c then w
      else w.mapUnits fun t u =>
        if me = some ⟨w.id, t⟩ then u
        else match u.tx with
          | none => u
          | some x => if x.writes.contains l || (write && x.reads.contains l) then u.doom (abortStatus 1 0 0) else u }

/-- Transactions whose device-memory lines have left the L1 abort with CAPACITY (R297). -/
def State.txLines (s : State) (c : Nat) : State :=
  let held := fun (l : LineId) => l.sram || (s.cl c).l1.any fun k => k.sp == .dev && k.line == l.n
  { s with wgs := s.wgs.map fun w =>
      if w.cluster ≠ c then w
      else w.mapUnits fun _ u => match u.tx with
        | none => u
        | some y => if y.reads.all held && y.writes.all held then u else u.doom (abortStatus 2 0 0) }

-- Releases and acquires (R279).

/-- Write back what a release at a scope writes back, for an agent on a pipe (R279). -/
def State.releaseAt (s : State) (c p : Nat) (sc : Scope) : State :=
  match sc with
  | .pipe => s
  | .quad | .cluster =>
    let b := s.bankOf c p
    if b = 32 then s
    else
      let ls := (s.cl c).l1.filter fun l => l.bank == b && l.dirty ≠ 0
      (ls.foldl (fun s l => s.lineShared c l) s).l1clean c fun l => l.bank == b
  | .die | .device | .rect => s.l1flush c fun l => l.sp = .dev
  | .domain | .system => s.l1flush c fun _ => true

/-- Bring the bytes of a bank's lines that are not dirty up to date from the level below, so that after an acquire no
load returns an older one (R281). -/
def State.l1fresh (s : State) (c b : Nat) : State :=
  let read := fun (l : L1Line) => l.bank == b && (b = 32 || ((s.cl c).l1find 32 l.sp l.line).isNone)
  let seen := ((s.cl c).l1.filter read).foldl (fun (t : State) l => t.homeSeen (clDie c) l.sp (32 * l.line)) s
  seen.modCl c fun cl => { cl with l1 := cl.l1.map fun l =>
    if l.bank = b then
      (if b = 32 then s.homeLine 32 l.sp l.line else { s.l1line c 32 l.sp l.line with bank := b, dirty := 0 }).laid l
    else l }

/-- Invalidate what an acquire at a scope invalidates, for an agent on a pipe: the clean lines (R279) and the clean
bytes of the others (R281). -/
def State.acquireAt (s : State) (c p : Nat) (sc : Scope) : State :=
  let b := s.bankOf c p
  match sc with
  | .pipe => s
  | .quad | .cluster =>
    if b = 32 then s else (s.l1drop c fun l => l.bank == b && l.dirty == 0).l1fresh c b
  | .die | .device | .rect | .domain | .system =>
    let s := (s.l1drop c fun l => (l.bank == b || l.bank == 32) && l.dirty == 0).l1fresh c 32
    if b = 32 then s else s.l1fresh c b

/-- A scope whose release waits for the remote-store count (R279, R283). -/
def scopeWide : Scope → Bool
  | .pipe | .quad | .cluster => false
  | .die | .device | .domain | .system | .rect => true

/-- A quad changes to shared banking: the private banks' dirty bytes go to the cluster-shared part and the lines are
invalidated (R272). -/
def State.enterShared (s : State) (c q : Nat) : State :=
  let p := fun (l : L1Line) => 8 * q ≤ l.bank && l.bank < 8 * q + 8
  let ls := (s.cl c).l1.filter fun l => p l && l.dirty ≠ 0
  (ls.foldl (fun s l => s.lineShared c l) s).l1drop c p

/-- A quad changes to private banking: the lines of the storage that it takes back from the cluster-shared part are
written back and invalidated; which they are is not architectural, and here they are all of them (R272). -/
def State.leaveShared (s : State) (c _q : Nat) : State :=
  (s.l1flush c fun l => l.bank == 32).l1drop c fun l => l.bank == 32

/-- The scratchpad takes SRAM from the L1: all its lines are written back and invalidated, as nothing says which stand
there (R18, R360, log entry 14). -/
def State.l1empty (s : State) (c : Nat) : State := (s.l1flush c fun _ => true).l1drop c fun _ => true

/-- The banking changes between two states, quad by quad (R35, R272). -/
def State.rebank (old s : State) (c : Nat) : State :=
  let change := (List.range 4).filter fun q => old.quadShared c q != s.quadShared c q
  if change.isEmpty then s
  else (change.foldl (fun s q => if s.quadShared c q then s.enterShared c q else s.leaveShared c q) s).txLines c

-- The engine's view of memory (R308).

/-- Bytes that the copy engine of a cluster reads through the cluster-shared part (R308). -/
def State.engineRead (s : State) (c : Nat) (l : Loc) (n : Nat) : List Byte :=
  match l with
  | .sram k o => s.sramBytes k o n
  | .mem sp a nc =>
    if cached sp nc then
      (List.range n).map fun i => vbyte (s.l1line c 32 sp ((a + i) / 32)).data ((a + i) % 32)
    else s.homeBytes sp a n

/-- The failing sector of a read through the cluster-shared part, with its cause (R303, R308). -/
def State.engineFail (s : State) (c : Nat) (l : Loc) (n : Nat) : Option (Nat × Nat) :=
  match l with
  | .sram k o => s.sramFail k o n
  | .mem sp a nc =>
    if cached sp nc then (touchedSectors a n).findSome? fun k =>
      let x := s.l1line c 32 sp k
      if x.syn ≠ 0 then some (k, 9) else if x.ecc then some (k, 10) else none
    else s.memFail sp a n

/-- What a read through the cluster-shared part does beside reading: transactions that have written the line abort
(R296), and a read that reaches another die's memory counts (R274). -/
def State.engineSeen (s : State) (c : Nat) (l : Loc) : State :=
  match l with
  | .sram k _ => s.conflict k none false l.lineId
  | .mem sp a nc =>
    let s := if sp = .dev then s.conflict c none false l.lineId else s
    if cached sp nc && ((s.cl c).l1find 32 sp (a / 32)).isSome then s else s.homeSeen (clDie c) sp a

/-- Bytes that an engine writes: window bytes at the SRAM port; memory at its home, after the L1 copies of the
issuing cluster are written back and invalidated (R308). -/
def State.engineWrite (s : State) (c : Nat) (l : Loc) (bs : List Byte) : State :=
  match l with
  | .sram k o =>
    let s := (touchedSectors o bs.length).foldl (fun s n => s.conflict k none true ⟨true, n⟩) s
    s.sramWrite k o bs
  | .mem sp a _ =>
    let ls := touchedSectors a bs.length
    let s := if sp = .dev then ls.foldl (fun s n => s.conflict c none true ⟨false, n⟩) s else s
    let hit := fun (l : L1Line) => l.sp == sp && ls.contains l.line
    let s := (s.l1flush c hit).l1drop c hit
    s.homeWrite sp a bs

end Sys2Proof.Machine
end

