-- ==== Sys2Proof/Machine/Ops.lean ====
section
/-!
DEFINITION. The named operations over units, registers and threads: who issues (R22, R36), the register files (R93),
retirement, completion flags (R72), splitting a group (R46 to R48), ending threads (R372, R364), transaction aborts
(R298), taking a trap (R51, R378) and returning from one (R379), and the supervisor's error log (R391).
-/

namespace Sys2Proof.Machine

-- Register files (R93).

/-- s0 reads zero. -/
def LaneRegs.sget (r : LaneRegs) (i : R5) : Word := if i = 0 then 0 else mget 0 r.s i.toNat
/-- s0 discards writes. -/
def LaneRegs.sset (r : LaneRegs) (i : R5) (v : Word) : LaneRegs :=
  if i = 0 then r else { r with s := mset 0 r.s i.toNat v }
def LaneRegs.vget (r : LaneRegs) (i : R5) : Vec := mget 0 r.v i.toNat
def LaneRegs.vset (r : LaneRegs) (i : R5) (v : Vec) : LaneRegs := { r with v := mset 0 r.v i.toNat v }
/-- q0 reads all ones. -/
def LaneRegs.qget (r : LaneRegs) (i : Nat) : Mask := if i = 0 then BitVec.allOnes 32 else mget 0 r.q i
/-- q0 discards writes. -/
def LaneRegs.qset (r : LaneRegs) (i : Nat) (v : Mask) : LaneRegs :=
  if i = 0 then r else { r with q := mset 0 r.q i v }
/-- k0 reads zero. -/
def Shared.kget (h : Shared) (i : Nat) : Word := if i = 0 then 0 else mget 0 h.k i
/-- k0 discards writes. -/
def Shared.kset (h : Shared) (i : Nat) (v : Word) : Shared := if i = 0 then h else { h with k := mset 0 h.k i v }

-- Who issues.

/-- The unit that executes an instruction: a split thread or a whole group (R22, R36), with its active and its live
threads in ascending lane order. -/
structure Issuer where
  id : UnitId
  w : Workgroup
  grp : Option Group
  active : List Nat
  live : List Nat
  u : UState
  deriving DecidableEq, Repr

/-- The issuer that a unit of a workgroup is. -/
def Workgroup.issuer (w : Workgroup) (t : Nat) : Issuer :=
  match w.groupOf t with
  | some g => ⟨⟨w.id, g.t0⟩, w, some g, g.lanesOf g.active, g.lanesOf g.live, g.u⟩
  | none => ⟨⟨w.id, t⟩, w, none, [t], [t], (w.thr t).u⟩

/-- The unit whose instruction is executing. -/
def State.issuer? (s : State) : Option Issuer :=
  match s.cur with
  | none => none
  | some i =>
    match s.wg? i.wg with
    | none => none
    | some w => if (mfind w.threads i.t).isSome then some (w.issuer i.t) else none

/-- Run an instruction's meaning for the current unit. -/
def State.onUnit (s : State) (f : Issuer → State) : Host.Outcome State Fault Refusal :=
  match s.issuer? with
  | none => .fault .noUnit
  | some x => .next (f x)

/-- The cluster that the unit runs on. -/
def Issuer.cl (x : Issuer) : Nat := x.w.cluster
/-- The lane number of a thread: 0 in split mode (R34). -/
def Issuer.laneOf (x : Issuer) (t : Nat) : Nat :=
  match x.grp with
  | some g => t - g.t0
  | none => 0
/-- LANES (R34). -/
def Issuer.lanes (x : Issuer) : Nat :=
  match x.grp with
  | some g => laneCount g.f
  | none => 1
/-- The threads of the whole span, whether live or not (R171, R203). -/
def Issuer.span (x : Issuer) : List Nat :=
  match x.grp with
  | some g => (List.range (laneCount g.f)).map (g.t0 + ·)
  | none => x.active
/-- The lowest active thread. -/
def Issuer.lead (x : Issuer) : Nat := x.active.headD x.id.t
/-- Whether the unit is a task thread (R28). -/
def Issuer.isTask (x : Issuer) : Bool := 128 ≤ x.id.t
/-- The start of the task that issues, if one does (R30). -/
def Issuer.taskAt (x : Issuer) : Option Nat := (x.w.thr x.id.t).task.map (·.1)
/-- Whether the active mask is not the live set (R54). -/
def Issuer.partialMask (x : Issuer) : Bool :=
  match x.grp with
  | some g => g.active ≠ g.live
  | none => false
/-- The PC of the executing instruction. -/
def Issuer.pc (x : Issuer) : Word := x.u.pc

/-- Change a group of a workgroup, named by its lowest thread. -/
def Workgroup.modGroup (w : Workgroup) (t0 : Nat) (f : Group → Group) : Workgroup :=
  { w with groups := w.groups.map fun g => if g.t0 = t0 then f g else g }

/-- Change the issue state of the unit that a thread belongs to. -/
def Workgroup.modUnit (w : Workgroup) (t : Nat) (f : UState → UState) : Workgroup :=
  match w.groupOf t with
  | some g => w.modGroup g.t0 fun g => { g with u := f g.u }
  | none => w.modThr t fun th => { th with u := f th.u }

/-- Change the issue state of the unit that a thread belongs to. -/
def State.modUnit (s : State) (wg t : Nat) (f : UState → UState) : State := s.modWg wg fun w => w.modUnit t f

/-- Change the issuer's issue state. -/
def State.modU (s : State) (x : Issuer) (f : UState → UState) : State := s.modUnit x.id.wg x.id.t f
/-- Change what exists once per unit (R36). -/
def State.modSh (s : State) (x : Issuer) (f : Shared → Shared) : State :=
  s.modU x fun u => { u with sh := f u.sh }
/-- Change each of a list of threads. -/
def State.modThrs (s : State) (wg : Nat) (ts : List Nat) (f : Nat → Thread → Thread) : State :=
  ts.foldl (fun s t => s.modThr wg t (f t)) s

/-- Whether a thread still is the one that issued something: it exists, and for a task it started then (R339). -/
def Workgroup.sameTask (w : Workgroup) (t : Nat) (start : Option Nat) : Bool :=
  (mfind w.threads t).isSome && (w.thr t).task.map (·.1) == start

/-- Change a thread if it still is the one that issued something. -/
def State.modTask (s : State) (wg t : Nat) (start : Option Nat) (f : Thread → Thread) : State :=
  s.modWg wg fun w => if w.sameTask t start then w.modThr t f else w

/-- Write a scalar register of a thread. -/
def State.setS (s : State) (wg t : Nat) (r : R5) (v : Word) : State :=
  s.modThr wg t fun th => { th with r := th.r.sset r v }

/-- The instruction completes: any timed wait is over and the PC moves on (R60). -/
def State.setPc (s : State) (x : Issuer) (pc : Word) : State :=
  s.modU x fun u => { u with pc := pc, waiting := .none, waitSince := none, walked := [] }

/-- The instruction completes and the next one follows it. -/
def State.retire (s : State) (x : Issuer) : State := s.setPc x (x.pc + 4)

/-- The instruction is not ready (R19): nothing of it happens. -/
def State.stall (s : State) : State := { s with stalled := true }

/-- A unit is found not ready, at a clock, in a timed wait (R347, R365). -/
def UState.wait (u : UState) (k : Wait) (clock : Nat) : UState :=
  { u with waiting := k, waitSince := some (u.waitSince.getD clock), waitSeen := clock }

/-- The instruction is not ready in a timed wait (R347, R365). -/
def State.stallIn (s : State) (x : Issuer) (k : Wait) : State :=
  { s.modU x fun u => u.wait k s.clock with stalled := true }

/-- Leave the claused run (R74). -/
def State.endClause (s : State) (x : Issuer) : State := s.modU x fun u => { u with clause := none }

/-- Registers of a thread with results pending (R76). -/
def State.setBusy (s : State) (wg : Nat) (ts : List Nat) (r : RegName) : State :=
  s.modThrs wg ts fun _ th => { th with busy := if th.busy.contains r then th.busy else r :: th.busy }

-- Completion flags (R72).

def Thread.cfAdd (th : Thread) (cf : Nat) : Thread := { th with cf := mset 0 th.cf cf (mget 0 th.cf cf + 1) }
def Thread.cfSub (th : Thread) (cf : Nat) : Thread := { th with cf := mset 0 th.cf cf (mget 0 th.cf cf - 1) }

/-- Assign the flag of the executing instruction in the active lanes (R75). -/
def State.takeFlag (s : State) (x : Issuer) : State × Option FlagRef :=
  match s.curFlag with
  | none => (s, none)
  | some cf => (s.modThrs x.id.wg x.active fun _ th => th.cfAdd cf,
      some { wg := x.id.wg, lanes := x.active, cf := cf, taskAt := x.taskAt })

/-- A completion event in a thread: the flag's count falls, or where the instruction has two events, the first of
them is noted (R72). -/
def Thread.flagEvent (th : Thread) (f : FlagRef) : Thread :=
  match f.half with
  | none => th.cfSub f.cf
  | some k =>
    if th.halves.contains k then { th.cfSub f.cf with halves := th.halves.erase k }
    else { th with halves := k :: th.halves }

/-- Assign the flag of an instruction that pushes a port value and has an event of its own (R72): one count, that of the
value (`putLane`), which falls at the later of the two events. -/
def State.takeHalf (s : State) (x : Issuer) : State × Option FlagRef :=
  ({ s with nextId := s.nextId + 1 },
    s.curFlag.map fun cf => { wg := x.id.wg, lanes := x.active, cf := cf, taskAt := x.taskAt, half := some s.nextId })

/-- The completion event of a flag-bearing instruction (R72). -/
def State.flagDone (s : State) (f : Option FlagRef) : State :=
  match f with
  | none => s
  | some f => f.lanes.foldl (fun s t => s.modTask f.wg t f.taskAt fun th => th.flagEvent f) s

-- Contexts, semaphores, readiness.

def State.ctx (s : State) (c : Nat) : Ctx := mget {} s.ctxs c
def State.modCtx (s : State) (c : Nat) (f : Ctx → Ctx) : State := { s with ctxs := mput s.ctxs c (f (s.ctx c)) }

/-- The error log (R391): code, context, bits [63:32] and the second doubleword. EQBASE may lie past device memory: its
bytes are then kept as if memory lay there, a choice of the model (log entry 98). -/
def State.logError (s : State) (code ctx hi : Nat) (second : Word) : State :=
  if !s.eqEn then s
  else if (s.eqTail - s.eqHead).toNat = 2 ^ s.eqLog2n then { s with eqDrop := min (s.eqDrop + 1) 4095 }
  else
    let at' := s.eqbase.toNat + 16 * (s.eqTail.toNat % 2 ^ s.eqLog2n)
    let first := code % 65536 + 65536 * (ctx % 4096) + 2 ^ 32 * (hi % 2 ^ 32)
    { s.homeWrite .dev at' (leBytes 8 first ++ leBytes 8 second.toNat) with eqTail := s.eqTail + 1 }

/-- Whether a dep field is met (R356). -/
def State.depMet (s : State) (ctx slot : Nat) : Bool :=
  slot = 0 || match mfind s.deps slot with
    | some d => d.ctx = ctx && d.count ≤ 0
    | none => false

/-- Whether a launch's readiness holds (R356). -/
def State.readyNow (s : State) (l : Launch) : Bool :=
  (l.cfg.deps.all fun d => s.depMet l.ctx d) &&
    (!l.cfg.gate || l.cfg.gateThr ≤ (mget 0 s.sems ((s.ctx l.ctx).semBase + l.cfg.gateSem)).toNat)

/-- Published launches whose conditions hold become ready; without a range list they are at once dispatching
(R356). -/
def State.reeval (s : State) : State :=
  { s with launches := s.launches.map fun l =>
      if l.state = .published ∧ s.readyNow l = true then
        { l with state := if l.cfg.ranges = 0 then .dispatching else .ready, since := s.clock }
      else l }

/-- Add to a semaphore by its absolute number, as one step of its order (R337), and re-evaluate readiness (R356). -/
def State.semAdd (s : State) (i : Nat) (n : Word) : State :=
  let s' := { s with sems := mset 0 s.sems i (mget 0 s.sems i + n) }
  s'.reeval

-- Mailboxes (R311, R339).

def Mailbox.free (m : Mailbox) : Nat := 16 - m.msgs.length - m.reserved

/-- Whether messages for a thread are discarded: it has exited, and is not the lowest thread of a living group
(R314, R339). -/
def Workgroup.mute (w : Workgroup) (t : Nat) : Bool :=
  (w.thr t).exited && !(w.groups.any fun g => g.t0 == t)

/-- An error message: posted where an entry is free, else counted as lost (R339). -/
def Mailbox.error (m : Mailbox) (code : Nat) (body : Word) : Mailbox :=
  if m.free = 0 then { m with lost := min (m.lost + 1) 65535 }
  else { m with msgs := m.msgs ++ [{ body := body, hdr := w64 (2 * 2 ^ 60 + code % 65536 * 2 ^ 40) }] }

/-- Offsets in a workgroup area (R395): the window view, the thread images, and the area's size. -/
def LaunchRec.areaView (r : LaunchRec) : Nat := 0x16000 + 16384 * r.tiles
def LaunchRec.areaImages (r : LaunchRec) : Nat := roundUp (r.areaView + r.sPrime + r.kt) 4096
def LaunchRec.areaSize (r : LaunchRec) : Nat := r.areaImages + 4096 * r.threads

/-- A saved workgroup, with its launch record. -/
def State.saved? (s : State) (wg : Nat) : Option (SavedWg × LaunchRec) :=
  s.saved.findSome? fun u =>
    match u.wgs.find? fun v => v.id == wg, s.launches.find? fun l => l.id == u.launch with
    | some v, some l => some (v, l.cfg)
    | _, _ => none

/-- Post a message into the mailbox of a thread image in memory (R395, R396): into the entry reserved for it, or into
a free one, else it is an error message that is lost (R339). An exited thread's mailbox takes none (R314). -/
def State.savedMail (s : State) (image : Nat) (reserved : Bool) (m : Msg) : State :=
  let c := leNat (s.homeBytes .dev (image + 0xB80) 8)
  let n := nbits c 4 0
  let r := nbits c 12 8
  let lost := nbits c 31 16
  let counts := fun (n r lost : Nat) => leBytes 8 (c / 2 ^ 32 * 2 ^ 32 + n + 256 * r + 65536 * lost)
  let put := fun (r : Nat) =>
    (s.homeWrite .dev (image + 0xA80 + 16 * n) (leBytes 8 m.body.toNat ++ leBytes 8 m.hdr.toNat)).homeWrite .dev
      (image + 0xB80) (counts (n + 1) r lost)
  if nbit (s.homeByte .dev (image + 0x607)).toNat 0 && !nbit (s.homeByte .dev (image + 0x608)).toNat 7 then s
  else if reserved then (if r = 0 ∨ 16 ≤ n then s else put (r - 1))
  else if 16 ≤ n + r then s.homeWrite .dev (image + 0xB80) (counts n r (min (lost + 1) 65535))
  else put r

/-- Post an error message to a thread (R311), saved or not. -/
def State.postError (s : State) (wg t code : Nat) (body : Word) : State :=
  match s.saved? wg with
  | some (v, r) => s.savedMail (v.area + r.areaImages + 4096 * t) false
      { body := body, hdr := w64 (2 * 2 ^ 60 + code % 65536 * 2 ^ 40) }
  | none => s.modWg wg fun w => if w.mute t || (mfind w.threads t).isNone then w
      else w.modThr t fun th => { th with mbox := th.mbox.error code body }

/-- Post an error message to a thread that may have been a task which has ended since: then it is discarded (R339). -/
def State.postErrorTo (s : State) (wg t : Nat) (start : Option Nat) (code : Nat) (body : Word) : State :=
  match s.wg? wg with
  | some w => if w.sameTask t start then s.postError wg t code body else s
  | none => if start.isSome then s else s.postError wg t code body

/-- A completion message takes the entry that its ENQ reserved (R309, R339); for an ended thread it is discarded. -/
def State.postDone (s : State) (wg t : Nat) (m : Msg) : State :=
  match s.saved? wg with
  | some (v, r) => s.savedMail (v.area + r.areaImages + 4096 * t) true m
  | none => s.modWg wg fun w => if w.mute t || (mfind w.threads t).isNone then w
      else w.modThr t fun th =>
        if th.mbox.reserved = 0 then th
        else { th with mbox := { th.mbox with msgs := th.mbox.msgs ++ [m], reserved := th.mbox.reserved - 1 } }

/-- Whether a workgroup's unit is being saved: it is to be saved, and no critical thread defers it (R56, R57, R394). A
save that has begun is not put off by a mark that one of its running tasks sets. -/
def State.saving (s : State) (w : Workgroup) : Bool :=
  let ws := s.wgs.filter fun v => v.unit == w.unit
  let crit := fun (v : Workgroup) =>
    (v.groups.any fun g => g.u.sh.crit.isSome) ||
      v.threads.any fun e => !e.2.exited && (v.groupOf e.1).isNone && e.2.u.sh.crit.isSome
  (ws.any fun v => v.begun || v.saveReq == some .imm) || ((ws.any fun v => v.saveReq.isSome) && !ws.any crit)

-- Hardware barriers (R343 to R345).

/-- Whether every member of a barrier has arrived; an exited member counts (R344). -/
def Workgroup.hbFull (w : Workgroup) (h : Nat) : Bool :=
  let b := mget {} w.hbs h
  (List.range 128).all fun t => !b.member.getLsbD t || b.arrived.getLsbD t || (w.thr t).exited

/-- The phase flips: PHASE changes and the arrivals clear. -/
def Workgroup.hbFlip (w : Workgroup) (h : Nat) : Workgroup :=
  { w with hbs := mput w.hbs h { mget {} w.hbs h with phase := !(mget {} w.hbs h).phase, arrived := 0 } }

/-- A barrier that a member has made an ensemble barrier, and that is valid there (R345). -/
def Workgroup.hbEns (w : Workgroup) (h : Nat) : Bool := let b := mget {} w.hbs h; b.valid && b.ens

/-- The workgroups on which a barrier acts: the own one, or for an ensemble barrier every member (R345). A member that has
ended is none of them any more, even one that ended before it executed HBINIT.ENS: a choice of the model (log entry 117).
-/
def State.hbPeers (s : State) (w : Workgroup) (h : Nat) : List Workgroup :=
  let ps := s.wgs.filter fun v => v.unit == w.unit
  if ps.any fun v => v.hbEns h then ps else [w]

/-- Complete a barrier's phase when every member has arrived, on every member of an ensemble at once (R344, R345). -/
def State.hbCheck (s : State) (wg h : Nat) : State :=
  match s.wg? wg with
  | none => s
  | some w =>
    let b := mget {} w.hbs h
    let ps := s.hbPeers w h
    let ens := ps.any fun v => v.hbEns h
    if b.valid && b.member ≠ 0 && ps.all fun v => (mget {} v.hbs h).valid && (!ens || v.hbEns h) && v.hbFull h then
      ps.foldl (fun s v => s.modWg v.id fun v => v.hbFlip h) s
    else s

-- Ending (R364, R372, R392).

/-- Workgroups of a launch. -/
def LaunchRec.wgTotal (r : LaunchRec) : Nat := r.wgx * r.wgy * r.wgz

/-- Columns that a workgroup takes. -/
def LaunchRec.columns (r : LaunchRec) : Nat := r.threads / 32 + r.taskSlots

/-- A completed child lowers its issuer's child count (R364), placed or saved, where the issuer still is: a task that
has exited holds no count. A unit saved in JOINWAIT becomes resumable when its counts are zero (R365). -/
def State.childDone (s : State) (wg t : Nat) (task : Option Nat) : State :=
  let s := s.modWg wg fun w =>
    if !w.sameTask t task then w
    else w.modThr t fun th =>
      { th with children := th.children - 1, childDone := th.childDone + (if th.children = 0 then 0 else 1) }
  { s with saved := s.saved.map fun u =>
      let ws := u.wgs.map fun v =>
        if v.id ≠ wg then v
        else { v with children := v.children.map fun c => if c.1 = t then (c.1, c.2.1 - 1, c.2.2 + 1) else c }
      if u.joinWait && ws.all fun v => v.children.all fun c => c.2.1 = 0 then
        { u with wgs := ws, joinWait := false, since := s.clock }
      else { u with wgs := ws } }

/-- A launch completes (R364). -/
def State.launchComplete (s : State) (l : Launch) : State :=
  let s := match l.parent with
    | some (wg, t) => s.childDone wg t l.parentTask
    | none => s
  let s := { s with launches := s.launches.filter fun m => m.id ≠ l.id }
  if l.cfg.done then s.semAdd ((s.ctx l.ctx).semBase + l.cfg.doneSem) 1 else s

/-- Saved units whose spill buffers could not be pinned may try again (R359, R398). -/
def State.retryPins (s : State) : State :=
  { s with saved := s.saved.map fun u => { u with pinFail := false } }

/-- A workgroup ends: its resources are freed, and its launch completes with its last workgroup (R364). -/
def State.wgEnd (s : State) (w : Workgroup) : State :=
  let s' := { s with wgs := s.wgs.filter fun v => v.id ≠ w.id }.retryPins
  let s' := s'.modCl w.cluster fun cl => { cl with
    merge := cl.merge.map fun e => { e with waiters := e.waiters.filter fun v => v.wg ≠ w.id }
    runq := cl.runq.filter fun e => e.wg ≠ w.id
    windows := cl.windows.map fun e =>
      if e.2.owner = some w.id then (e.1, { e.2 with st := .closed, owner := none }) else e }
  let s' := s.rebank s' w.cluster
  let s' := { s' with
    launches := s'.launches.map fun (l : Launch) => if l.id = w.launch then { l with ended := l.ended + 1 } else l }
  match s'.launches.find? fun l => l.id == w.launch with
  | some l => if l.ended = l.cfg.wgTotal then s'.launchComplete l else s'
  | none => s'

def Four.get {α : Type} (f : Four α) : Dir → α
  | .n => f.n
  | .e => f.e
  | .s => f.s
  | .w => f.w

def Four.set {α : Type} (f : Four α) (d : Dir) (x : α) : Four α :=
  match d with
  | .n => { f with n := x }
  | .e => { f with e := x }
  | .s => { f with s := x }
  | .w => { f with w := x }

/-- A direction's code (R232). -/
def dirOf (n : Nat) : Dir := if n = 0 then .n else if n = 1 then .e else if n = 2 then .s else .w

/-- A field named as a port register: its direction, and whether it is a vector port (R93). -/
def portOf : RegName → Option (Dir × Bool)
  | .s r => if 28 ≤ r.toNat then some (dirOf (r.toNat - 28), false) else none
  | .v r => if 28 ≤ r.toNat then some (dirOf (r.toNat - 28), true) else none
  | .q _ | .k _ => none

/-- Whether both outgoing buffers of a direction are empty. A value leaves its buffer as it enters the far queue. -/
def Port.sent (p : Port) : Bool := p.outS.isNone && p.outV.isNone

/-- Whether an issued MSTAT is still to push its value in a direction (R218). -/
def Thread.pushesLater (th : Thread) (d : Dir) : Bool := th.busy.any fun r => (portOf r).any fun p => p.1 = d

/-- Whether every value that a thread has pushed in a direction has entered its far queue (R233, R235). -/
def Thread.sentAll (th : Thread) (d : Dir) : Bool := (th.ports.get d).sent && !th.pushesLater d

/-- The same of every direction. -/
def Thread.portsSent (th : Thread) : Bool := [Dir.n, .e, .s, .w].all th.sentAll

/-- End a workgroup whose threads and running tasks have all exited, once its matrix instructions have retired, its
port values are delivered, and the FIFO of an exited thread has drained (R314, R364, R392). -/
def State.wgCheck (s : State) (wg : Nat) : State :=
  match s.wg? wg with
  | none => s
  | some w =>
    if ((List.range w.cfg.threads).all fun t => (w.thr t).exited && (w.thr t).portsSent && (w.thr t).fifo.isEmpty)
      && (w.threads.all fun e => e.1 < 128) && (s.cl w.cluster).mq.all fun o => o.wg ≠ wg
    then s.wgEnd w else s

/-- What ending leaves of a thread; a living group keeps the FIFO, mailbox and child count of its lowest thread
(R314, R372). -/
def Thread.ended (th : Thread) (keep : Bool) : Thread :=
  { th with
    exited := true, dying := false, park := none, arrival := none, hbsync := none, hbWait := none, rejoin := none
    u := { th.u with clause := none, tx := none, waiting := .none, waitSince := none
                     sh := { th.u.sh with crit := none } }
    mbox := if keep then th.mbox else {}
    fifo := if keep then th.fifo else []
    children := if keep then th.children else 0 }

/-- The pops that follow when no active lane remains (R45). -/
def Group.popEmpty : Nat → Group → Group
  | 0, g => g
  | n + 1, g =>
    if g.active ≠ 0 then g
    else match g.stack with
      | [] => g
      | e :: st =>
        if e.join then Group.popEmpty n { g with stack := st, active := e.mask &&& g.live, u := { g.u with pc := e.pc } }
        else Group.popEmpty n { g with stack := st, active := e.mask, u := { g.u with pc := e.pc } }

/-- Threads end (R372 step 3): lanes leave their group (R45), a task's slot becomes dormant (R28), and the thread
counts as arrived at its hardware barriers (R344). -/
def State.endThreads (s : State) (wg : Nat) (ts : List Nat) : State :=
  match s.wg? wg with
  | none => s
  | some w =>
    let old := s
    let gs := w.groups.map fun g =>
      let m : Mask := BitVec.ofNat 32 (maskOf 32 fun l => ts.contains (g.t0 + l) && l < laneCount g.f)
      if m = 0 then g
      else Group.popEmpty 9 { g with
        live := g.live &&& ~~~m, active := g.active &&& ~~~m
        stack := g.stack.map fun e => { e with mask := e.mask &&& ~~~m } }
    let dead := gs.filter fun g => g.live == 0
    let gs := gs.filter fun g => g.live ≠ 0
    let lead := fun t => gs.any fun g => g.t0 == t
    let endT := fun (w : Workgroup) (t : Nat) =>
      if 128 ≤ t then { w with threads := mdel w.threads t }
      else w.modThr t fun th => th.ended (lead t)
    let w' := ts.foldl endT { w with groups := gs }
    -- the lowest thread of a group that has ended may have exited before (R314)
    let w' := dead.foldl (fun w g => w.modThr g.t0 fun th => th.ended false) w'
    let s := s.modWg wg fun _ => w'
    let s := old.rebank s w.cluster
    let s := (List.range 16).foldl (fun s h => s.hbCheck wg h) s
    let s := if (List.range w.cfg.threads).all fun t => (w'.thr t).exited then
        s.modCl w.cluster fun cl => { cl with runq := cl.runq.filter fun e => e.wg ≠ wg }
      else s
    s.wgCheck wg

/-- A killed thread first delivers its outgoing port values, and then ends without a release (R392). Until then it
issues nothing and waits for nothing. -/
def State.killThread (s : State) (wg t : Nat) : State :=
  let s := s.modThr wg t fun th => { th with fifo := [] }
  if (s.thr wg t).portsSent then s.endThreads wg [t]
  else s.modThr wg t fun th => { th with
    dying := true, hbsync := none, hbWait := none
    u := { th.u with clause := none, waiting := .none, waitSince := none } }

/-- After a value of a thread has entered its far queue: the last one ends a killed thread (R392), and may end the
workgroup of one that has exited (R364). -/
def State.portsGone (s : State) (wg t : Nat) : State :=
  let th := s.thr wg t
  if th.dying && th.portsSent then s.endThreads wg [t] else s.wgCheck wg

-- Splitting (R46 to R48).

/-- The rejoin PC of the bottom-most JOIN, if the stack holds one (R48). -/
def bottomJoin (st : List StackEnt) : Option Word := (st.reverse.find? fun e => e.join).map (·.pc)

/-- The PC of a live lane that is not active (R47). -/
def parkedPc (st : List StackEnt) (l : Nat) (pc : Word) : Word :=
  match st.find? fun e => !e.join && e.mask.getLsbD l with
  | some e => e.pc
  | none => match st.find? fun e => e.join && e.mask.getLsbD l with
    | some e => e.pc
    | none => pc

/-- Whether an automatic split or a SPLIT instruction makes it; the latter leaves no record (R48, R52). -/
def State.splitGroup (s : State) (wg : Nat) (g : Group) (pcs : Nat → Word) (record : Option Word) : State :=
  let s' := s.modWg wg fun w =>
    let sp := fun (w : Workgroup) (t : Nat) => w.modThr t fun th =>
      { th with
        u := { g.u with
          pc := if g.active.getLsbD (t - g.t0) then pcs t else parkedPc g.stack (t - g.t0) g.u.pc
          clause := none, waiting := .none, waitSince := none, walked := [], tx := none }
        rejoin := record.map fun pc => ⟨g.col, g.base, g.f, g.live, pc⟩ }
    let w := (g.lanesOf g.live).foldl sp { w with groups := w.groups.filter fun h => h.t0 ≠ g.t0 }
    if (w.thr g.t0).exited then w.modThr g.t0 fun th => { th with mbox := {}, children := 0 } else w
  s.rebank s' (match s.wg? wg with
    | some w => w.cluster
    | none => 0)

-- Transactions (R298).

/-- Abort the unit's open transaction: the checkpoint is restored, nothing written becomes visible, pending events
of flag-bearing instructions complete, and execution resumes with the status in TXBEGIN's rd (R298). -/
def State.txAbort (s : State) (wg t : Nat) (st : BitVec 24) : State :=
  match s.wg? wg with
  | none => s
  | some w =>
    match (w.ust t).tx with
    | none => s
    | some x =>
      let st := x.doomed.getD st
      let back := fun (w : Workgroup) (r : Nat × LaneRegs) => w.modThr r.1 fun th =>
        let th := (th.storeFlags.filter (·.inTx)).foldl (fun th r => th.cfSub r.cf) th
        { th with r := r.2, storeFlags := th.storeFlags.filter (!·.inTx), hbWait := none }
      let w := x.regs.foldl back w
      let w := match w.groupOf t with
        | some g => w.modGroup g.t0 fun g => { g with active := x.active, stack := x.stack, low := x.low }
        | none => w
      let w := w.modUnit t fun u => { u with
        pc := x.pc, tx := none, txLast := st, clause := none, waiting := .none, waitSince := none, walked := []
        sh := { u.sh with k := x.k, fcsr := x.fcsr } }
      let dst := match w.groupOf t with
        | some g => g.lanesOf x.active
        | none => [t]
      let w := dst.foldl (fun w t => w.modThr t fun th => { th with r := th.r.sset x.rd (st.setWidth 64) }) w
      s.modWg wg fun _ => w

/-- An instruction that a transaction does not allow aborts it with EXPLICIT before taking any effect (R299). -/
def State.abortExplicit (s : State) (x : Issuer) : State := s.txAbort x.id.wg x.id.t (abortStatus 5 0 0)

-- Traps (R376 to R379, R387, R392).

/-- Trap entry at S, the last branch of R378. -/
def State.enterS (s : State) (wg t : Nat) (fused : Bool) (cause : Nat) (val pc stvec : Word) : State :=
  s.modThr wg t fun th => { th with
    utcause := th.trapcause, utpc := th.trappc, utval := th.trapval
    trapcause := w64 ((if fused then 256 else 0) + cause), trappc := pc, trapval := val
    ppriv := match th.u.sh.priv with
      | .u => 0
      | .s => 1
    shnd := true
    u := { th.u with sh := { th.u.sh with priv := .s }, pc := stvec, clause := none, waiting := .none
                     waitSince := none, walked := [] } }

/-- An address as a PC, whose bits [1:0] are zero (R58, R107). -/
def pcOf (n : Nat) : Word := w64 (n / 4 * 4)

/-- Trap entry at U (R378): the delegated handler; the level stays U. -/
def State.enterU (s : State) (wg t : Nat) (fused : Bool) (cause : Nat) (val pc : Word) : State :=
  s.modThr wg t fun th => { th with
    trapcause := w64 ((if fused then 256 else 0) + cause), trappc := pc, trapval := val, uhnd := true
    u := { th.u with pc := th.u.sh.trapvec, clause := none, waiting := .none, waitSince := none, walked := [] } }

/-- The fault record of an access (R388). -/
def Workgroup.faultRec (w : Workgroup) (v : Waiter) (ticket : Nat) (fused mal : Bool) : FaultRec :=
  let col := match (w.thr v.t).task with
    | some (_, c) => c
    | none => v.t / 32
  { va := v.va, pc := v.pc, ticket := ticket, ctx := w.ctx, cause := v.cause, malformed := mal, fused := fused
    x := clX w.cluster, y := clY w.cluster, colPipe := 32 * col + pipeOf v.t }

/-- A page fault parks a thread under the ticket of its merge entry. The first thread that the entry parks posts its
record and gives it the ticket (R387, R388). -/
def State.parkThread (s : State) (w : Workgroup) (v : Waiter) (fused : Bool) : State :=
  let hit := fun (e : MergeEnt) => e.ctx == w.ctx && e.vpn == vpnOf v.va 0
  let park := fun (s : State) (k : Nat) => s.modThr w.id v.t fun th =>
    { th with park := some ⟨k, v.cause, v.va, fused⟩, u := { th.u with clause := none } }
  match (s.cl w.cluster).merge.find? hit with
  | none => s
  | some e => match e.ticket with
    | some k => park s k
    | none =>
      let k := s.nextTicket
      let s := { s with
        nextTicket := (k + 1) % 2 ^ 32, faults := s.faults ++ [w.faultRec v k fused (e.failed.getD false)] }
      let s := s.modCl w.cluster fun cl => { cl with
        merge := cl.merge.map fun m => if hit m then { m with ticket := some k } else m }
      park s k

/-- A trap that is taken ends a wait on a hardware barrier; one that a page fault parks goes on (R346, R347). -/
def Thread.waitsOver (th : Thread) : Thread := { th with hbWait := none, hbsync := none }

/-- The trap 0x0A of a thread ends those of its requests whose time has passed (R415). -/
def State.dropDead (s : State) (wg t cause : Nat) : State :=
  if cause ≠ 10 || s.linkReqs.isEmpty then s
  else { s with linkReqs := s.linkReqs.filter fun q => !(q.dead && q.wg == wg && q.t == t) }

/-- A thread takes a trap with a cause and a value at a PC (R378). A page fault parks it (R387). -/
def State.takeTrap (s : State) (wg t : Nat) (fused : Bool) (cause : Nat) (val pc : Word) : State :=
  match s.wg? wg with
  | none => s
  | some w =>
    let th := w.thr t
    if 5 ≤ cause ∧ cause ≤ 7 then
      s.parkThread w ⟨wg, t, pc, cause, val⟩ fused
    else
      let s := (s.modThr wg t Thread.waitsOver).dropDead wg t cause
      let c := s.ctx w.ctx
      if th.u.sh.priv = .u ∧ c.sdeleg.getLsbD cause = true ∧ th.u.sh.trapvec ≠ 0 ∧ th.uhnd = false then
        s.enterU wg t fused cause val pc
      else if th.shnd then (s.killThread wg t).logError 6 w.ctx cause pc
      else s.enterS wg t fused cause val pc c.stvec

/-- A lane's trap: the thread, the cause and the value. -/
abbrev LaneTrap := Nat × Nat × Word

/-- An instruction traps in some lanes (R51): it has no effect in any lane. Inside a transaction it aborts it (R297).
A split thread takes its trap. A group splits, each faulting lane takes its own cause, and the other active lanes stand
at the instruction. `jumps` says that the instruction is a branch, a jump or JPT (R48). -/
def State.trapLanes (s : State) (x : Issuer) (jumps : Bool) (ts : List LaneTrap) : State :=
  match x.u.tx with
  | some _ => s.txAbort x.id.wg x.id.t (abortStatus 3 0 ((ts.map (·.2.1)).headD 0))
  | none =>
    match x.grp with
    | none => ts.foldl (fun s l => s.takeTrap x.id.wg l.1 false l.2.1 l.2.2 x.pc) (s.endClause x)
    | some g =>
      let rec' := match bottomJoin g.stack with
        | some pc => some pc
        | none => if jumps then none else some (x.pc + 4)
      let s := s.modU x fun u => { u with clause := none }
      let g' := match s.wg? x.id.wg with
        | some w => (w.groupOf x.id.t).getD g
        | none => g
      let s := s.splitGroup x.id.wg g' (fun _ => x.pc) rec'
      ts.foldl (fun s l => s.takeTrap x.id.wg l.1 true l.2.1 l.2.2 x.pc) s

/-- An instruction traps with one cause and value in every active lane. -/
def State.trapAll (s : State) (x : Issuer) (cause : Nat) (val : Word) : State :=
  s.trapLanes x false (x.active.map fun t => (t, cause, val))

/-- A level as SPREV.PPRIV codes it (R381). A level that no pipe thread runs at (R373) leaves the level open. -/
def privOf (b : BitVec 2) (free : Nat) : Priv :=
  if b = 0 then .u else if b = 1 then .s
  else if (Config.freeWord free).getLsbD 0 then .s else .u

/-- A lane's part of TRET (R379): its trap registers and handler flags, and the level that its case sets. -/
def Thread.tret (th : Thread) (pr : Priv) (free : Nat) : Thread × Option Priv :=
  if pr = .s ∧ th.shnd = true then
    ({ th with trapcause := th.utcause, trappc := th.utpc, trapval := th.utval, shnd := false },
      some (privOf th.ppriv free))
  else if pr = .u ∧ th.uhnd = true then ({ th with uhnd := false }, none)
  else (th, none)

/-- Return from a trap (R193, R379): the PC from the lowest active lane's TRAPPC; each active lane applies its own
case; the level takes what the lowest active lane's case sets. The instruction at the PC runs unclaused (R74), and a wait
that CTXLD has loaded goes on (R347). -/
def State.trapReturn (s : State) (x : Issuer) : State :=
  let th := s.thr x.id.wg x.lead
  let pr := x.u.sh.priv
  let s' := s.modThrs x.id.wg x.active fun _ th => { (th.tret pr s.free).1 with waited := 0 }
  let s' := s'.modU x fun u => { u with
    pc := th.trappc, clause := none, walked := []
    waiting := if th.waited = 0 then .none else .watched
    waitSince := if th.waited = 0 then none else some ((s.clock : Int) - th.waited)
    sh := { u.sh with priv := ((th.tret pr s.free).2).getD u.sh.priv } }
  { s' with free := s.free + (if th.ppriv.toNat < 2 then 0 else 1) }

end Sys2Proof.Machine
end

