-- ==== Sys2Proof/Machine/Flags.lean ====
section
/-!
DEFINITION. FCSR (R105): rounding mode and FTZ in force, sticky flags, enables and the FP exception test (R121).
-/

namespace Sys2Proof.Machine

/-- FCSR's enables, in the order of the flags (R105). -/
def fcsrEn (f : Word) : Fl := f.extractLsb' 9 5
/-- FCSR's sticky flags (R105). -/
def fcsrFl (f : Word) : Fl := f.extractLsb' 0 5
/-- FCSR.FTZ (R105). -/
def fcsrFtz (f : Word) : Bool := f.getLsbD 8

/-- The rounding mode in force where SR is not one: DYN takes FCSR.RM, and SR there means RNE (R63, R105). An image of
CTXLD or of a restore can leave one of the RM codes that a write cannot (R397 does not refuse it): it rounds as RNE, a
choice of the model (log entry 90). -/
def rmodeOf (rm : Rm) (fcsr : Word) : RMode :=
  match rm with
  | .rne | .sr => .rne
  | .rtz => .rtz
  | .rdn => .rdn
  | .rup => .rup
  | .dyn =>
    match nbits fcsr.toNat 7 5 with
    | 1 => .rtz
    | 2 => .rdn
    | 3 => .rup
    | _ => .rne

/-- Whether VCVT and VCVTSC round stochastically: rm SR, or DYN while FCSR.RM holds SR (R63, R105). -/
def rmIsSr (rm : Rm) (fcsr : Word) : Bool :=
  match rm with
  | .sr => true
  | .dyn => nbits fcsr.toNat 7 5 = 4
  | .rne | .rtz | .rdn | .rup => false

/-- Sticky flags raised by a float instruction (R121). -/
def Shared.raise (h : Shared) (fl : Fl) : Shared := { h with fcsr := h.fcsr ||| fl.setWidth 64 }

/-- The trap 0x0D of raised flags, when one of them is enabled; TRAPVAL holds the raised flags (R121). -/
def fpTrap (fcsr : Word) (fl : Fl) : Option (Nat × Word) :=
  if fl &&& fcsrEn fcsr = 0 then none else some (0x0D, fl.setWidth 64)

/-- A write of FCSR: reserved bits stay zero, and an RM of 0b101 to 0b111 leaves RM unchanged (R105). -/
def fcsrWrite (old v : Word) : Word :=
  let rm := if 5 ≤ nbits v.toNat 7 5 then old &&& 0xE0 else v &&& 0xE0
  (v &&& 0x3F1F) ||| rm

end Sys2Proof.Machine
end

