-- ==== Sys2Proof/Machine/Operands.lean ====
section
/-!
DEFINITION. Operands: neighbour ports (R227 to R231), the fields of an instruction and the order in which they are
read, elements of vectors (R95, R96), and the shared frame of every instruction that computes lane by lane (R130,
R131).
-/

namespace Sys2Proof.Machine

-- Neighbour ports.

def dirOpp : Dir → Dir
  | .n => .s
  | .e => .w
  | .s => .n
  | .w => .e

def Thread.modPort (th : Thread) (d : Dir) (f : Port → Port) : Thread :=
  { th with ports := th.ports.set d (f (th.ports.get d)) }

/-- What a thread's PORTCFG names in a direction (R228): nothing, a thread, an ensemble member whose workgroup has
ended, or under DIE a cluster. -/
inductive Neigh where
  | none
  | thread (wg t : Nat)
  | ended
  | cluster (c : Nat)
  deriving DecidableEq, Repr

/-- The DIE neighbour of a cluster (R228). -/
def dieNeighbour (c : Nat) (d : Dir) : Option Nat :=
  let x := clX c
  let y := clY c
  match d with
  | .n => if y = 8 then some (clusterAt x 7) else none
  | .e => if x % 9 = 8 ∧ x < 35 then some (clusterAt (x + 1) y) else none
  | .s => if y = 7 then some (clusterAt x 8) else none
  | .w => if x % 9 = 0 ∧ 0 < x then some (clusterAt (x - 1) y) else none

/-- The ensemble's width and height; 1 by 1 without an ensemble (R103). -/
def LaunchRec.ew (r : LaunchRec) : Nat := if r.ensW = 0 then 1 else r.ensW
def LaunchRec.eh (r : LaunchRec) : Nat := if r.ensH = 0 then 1 else r.ensH

/-- Units of a launch: workgroups, or ensembles (R350). -/
def LaunchRec.units (r : LaunchRec) : Nat := (r.wgx / r.ew) * (r.wgy / r.eh) * r.wgz

/-- What the topology of a direction names for a thread (R228). -/
def State.neigh (s : State) (w : Workgroup) (t : Nat) (d : Dir) : Neigh :=
  let p := (w.thr t).ports.get d
  match p.topo with
  | .off => .none
  | .lane =>
    let (f, base) := match w.groupOf t with
      | some g => (laneCount g.f, g.t0)
      | none => (32, t / 32 * 32)
    let l := t - base
    let l' := match d with
      | .n => (l + f - 8 % f) % f
      | .e => (l + 1) % f
      | .s => (l + 8) % f
      | .w => (l + f - 1) % f
    .thread w.id (base + l')
  | .cluster =>
    let ew := w.cfg.ew
    let eh := w.cfg.eh
    let at' : Option (Nat × Nat) := match d with
      | .n => if p.wrap then some (w.ex, (w.ey + eh - 1) % eh) else if w.ey = 0 then none else some (w.ex, w.ey - 1)
      | .e => if p.wrap then some ((w.ex + 1) % ew, w.ey) else if w.ex + 1 < ew then some (w.ex + 1, w.ey) else none
      | .s => if p.wrap then some (w.ex, (w.ey + 1) % eh) else if w.ey + 1 < eh then some (w.ex, w.ey + 1) else none
      | .w => if p.wrap then some ((w.ex + ew - 1) % ew, w.ey) else if w.ex = 0 then none else some (w.ex - 1, w.ey)
    match at' with
    | none => .none
    | some (ex, ey) =>
      match s.wgs.find? fun v => v.unit == w.unit && v.ex == ex && v.ey == ey with
      | some v => .thread v.id t
      | none => .ended
  | .die =>
    match dieNeighbour w.cluster d with
    | some c => .cluster c
    | none => .none

/-- The thread that a direction's values go to, where one runs (R228). Under DIE, of several workgroups of the launch
on the cluster it is the one with the smallest WGID, the model's choice (log entry 85). -/
def State.peer (s : State) (w : Workgroup) (t : Nat) (d : Dir) : Option (Nat × Nat) :=
  match s.neigh w t d with
  | .none | .ended => none
  | .thread v u => some (v, u)
  | .cluster c => (s.target? w.launch c).map fun v => (v.id, t)

/-- The receiving thread, when its PORTCFG of the opposite direction names the sender in turn (R229). -/
def State.mutual (s : State) (w : Workgroup) (t : Nat) (d : Dir) : Option (Nat × Nat) :=
  match s.peer w t d with
  | none => none
  | some (v, u) =>
    match s.wg? v with
    | none => none
    | some w' => if s.peer w' u (dirOpp d) = some (w.id, t) then some (v, u) else none

/-- Whether the credits of a workgroup's queues are revoked for a sender: its threads have stopped to be saved (R238),
and the sender is of another unit. -/
def State.revoked (s : State) (w : Workgroup) (v : Nat) : Bool :=
  match s.wg? v with
  | some w' => w'.unit ≠ w.unit && s.saving w'
  | none => false

/-- Credits that a thread holds for a direction (R229): the free entries of the receiving queue, less those whose
credit is still on its way and those that values still fill on credits granted earlier (R233); none once they are
revoked (R238). -/
def State.credits (s : State) (w : Workgroup) (t : Nat) (d : Dir) (vec : Bool) : Nat :=
  match s.mutual w t d with
  | none => 0
  | some (v, u) =>
    let p := (s.thr v u).ports.get (dirOpp d)
    if s.revoked w v then 0
    else if vec then 4 - p.inV.length - p.retV - p.dueV else 8 - p.inS.length - p.retS - p.dueS

-- The fields of an instruction.

/-- Which registers an instruction's fields name: the sources in the order in which they are read (ra, rb, rc, then
a source in bits [25:21], R61), the predicate, and the destination. -/
structure Fields where
  a : Option RegName := none
  b : Option RegName := none
  c : Option RegName := none
  d : Option RegName := none
  qp : Nat := 0
  dst : Option RegName := none
  deriving DecidableEq, Repr

/-- What a lane's fields hold at issue; scalars are zero-extended. `old` is the destination's value, zero for a
port (R96). -/
structure Vals where
  a : Vec := 0
  b : Vec := 0
  c : Vec := 0
  d : Vec := 0
  old : Vec := 0
  q : Mask := BitVec.allOnes 32
  deriving DecidableEq, Repr

def Vals.sa (v : Vals) : Word := v.a.setWidth 64
def Vals.sb (v : Vals) : Word := v.b.setWidth 64
def Vals.sc (v : Vals) : Word := v.c.setWidth 64
def Vals.sd (v : Vals) : Word := v.d.setWidth 64

def Fields.srcs (f : Fields) : List RegName := [f.a, f.b, f.c, f.d].filterMap id
def Fields.all (f : Fields) : List RegName := [f.a, f.b, f.c, f.d, f.dst].filterMap id
/-- The port registers that an instruction pops, in order (R61). -/
def Fields.pops (f : Fields) : List (Dir × Bool) := f.srcs.filterMap portOf
/-- The port register that an instruction pushes. -/
def Fields.push (f : Fields) : Option (Dir × Bool) := f.dst.bind portOf
/-- Whether a field names a port register. -/
def Fields.usesPort (f : Fields) : Bool := f.all.any fun r => (portOf r).isSome

/-- Entries in an incoming queue. -/
def Thread.queued (th : Thread) (p : Dir × Bool) : Nat :=
  if p.2 then (th.ports.get p.1).inV.length else (th.ports.get p.1).inS.length

/-- The value of a source field, after `k` earlier fields have popped from the same port (R61). -/
def Thread.srcVal (th : Thread) (r : Option RegName) (k : Nat) : Vec :=
  match r with
  | none => 0
  | some r =>
    match portOf r with
    | some (d, true) => ((th.ports.get d).inV.drop k).headD 0
    | some (d, false) => (((th.ports.get d).inS.drop k).headD 0).setWidth 256
    | none =>
      match r with
      | .s r => (th.r.sget r).setWidth 256
      | .v r => th.r.vget r
      | .q r => (th.r.qget r.toNat).setWidth 256
      | .k _ => 0

/-- How many of the earlier fields name the same port. -/
def samePort (r : Option RegName) (earlier : List (Option RegName)) : Nat :=
  match r.bind portOf with
  | none => 0
  | some p => (earlier.filter fun e => e.bind portOf == some p).length

/-- What the fields hold in a thread (R76: read at issue). A port register as the destination gives no old value: it
counts as 0 (R96), also where VDOT accumulates into it, which is a choice of the model (log entry 99). -/
def Thread.vals (th : Thread) (f : Fields) : Vals :=
  { a := th.srcVal f.a 0
    b := th.srcVal f.b (samePort f.b [f.a])
    c := th.srcVal f.c (samePort f.c [f.a, f.b])
    d := th.srcVal f.d (samePort f.d [f.a, f.b, f.c])
    old := if f.push.isSome then 0 else th.srcVal f.dst 0
    q := th.r.qget f.qp }

/-- Pop one entry, whose credit goes back to the queue's source (R227, R229). -/
def Thread.pop (th : Thread) (p : Dir × Bool) : Thread :=
  th.modPort p.1 fun q =>
    if p.2 then { q with inV := q.inV.tail, retV := q.retV + 1 } else { q with inS := q.inS.tail, retS := q.retS + 1 }

/-- Whether an outgoing buffer is full (R227), or kept for the value that an MSTAT pushes when it executes (R218). -/
def Thread.outFull (th : Thread) (p : Dir × Bool) : Bool :=
  (if p.2 then (th.ports.get p.1).outV.isSome else (th.ports.get p.1).outS.isSome) || th.pushesLater p.1

/-- Whether a thread's ports let an instruction issue (R230). -/
def Thread.portsReady (th : Thread) (f : Fields) : Bool :=
  (f.pops.all fun p => (f.pops.filter fun q => q == p).length ≤ th.queued p) &&
    match f.push with
    | some p => !th.outFull p
    | none => true

/-- The trap 0x11 of a lane, with the lowest subcode that holds (R231). A pop counts as one from an empty queue only
where the queue is empty at issue, so a second pop of a queue that holds one entry waits (log entry 86). -/
def State.portTrap (s : State) (w : Workgroup) (t : Nat) (f : Fields) : Option LaneTrap :=
  let th := w.thr t
  let bad := fun (d : Dir) (push : Bool) =>
    match (th.ports.get d).topo with
    | .off => some 1
    | .lane | .cluster => if s.neigh w t d = .none then some 2 else none
    | .die => match s.neigh w t d with
      | .none => some 2
      | .cluster c => if push && (s.target? w.launch c).isNone then some 3 else none
      | .thread _ _ | .ended => none
  let subs := (f.pops.filterMap fun p => if th.queued p = 0 then bad p.1 false else none) ++
    (match f.push with
      | some p => (bad p.1 true).toList
      | none => [])
  subs.min?.map fun c => (t, 0x11, w64 c)

/-- Whether some register of a unit has a pending result: what holds back an instruction that reads or writes them all
(R76). -/
def Issuer.pending (x : Issuer) : Bool := x.live.any fun t => (x.w.thr t).busy.any fun r => (portOf r).isNone

/-- Whether the scoreboard holds an instruction back (R76), in any live lane (R20). -/
def State.scoreboard (_s : State) (x : Issuer) (rs : List RegName) : Bool :=
  x.live.any fun t => rs.any fun r => (portOf r).isNone && (x.w.thr t).busy.contains r

/-- What stands between an instruction and its operands: a state in which it did not happen (not ready, or its
transaction aborted), or the lanes that trap 0x11. -/
inductive Gate where
  | stop (s : State)
  | go (traps : List LaneTrap)

/-- Scoreboard, transaction and ports, before an instruction reads its fields (R76, R230, R231, R237). A lane's trap
0x11 does not wait for the ports of the other lanes or for the lane's own outgoing buffer (log entry 86). -/
def State.gate (s : State) (x : Issuer) (f : Fields) : Gate :=
  if f.usesPort && x.u.tx.isSome then .stop (s.abortExplicit x)
  else if s.scoreboard x f.all then .stop s.stall
  else
    let ts := x.active.filterMap fun t => s.portTrap x.w t f
    if ts.isEmpty && !(x.active.all fun t => (x.w.thr t).portsReady f) then .stop s.stall
    else .go ts

/-- In each lane the cause with the lowest code (R377). -/
def mergeTraps (lanes : List Nat) (a b : List LaneTrap) : List LaneTrap :=
  lanes.filterMap fun t =>
    match a.find? fun l => l.1 == t, b.find? fun l => l.1 == t with
    | some x, some y => some (if y.2.1 < x.2.1 then y else x)
    | some x, none => some x
    | none, some y => some y
    | none, none => none

/-- The lanes whose sources can be read although another lane's ports are not ready. -/
def Issuer.readable (x : Issuer) (f : Fields) : List Nat :=
  x.active.filter fun t => f.pops.all fun p => (f.pops.filter fun q => q == p).length ≤ (x.w.thr t).queued p

/-- An instruction that completes pops each source port once per active lane (R131). -/
def State.popAll (s : State) (x : Issuer) (f : Fields) : State :=
  if f.pops.isEmpty then s else s.modThrs x.id.wg x.active fun _ th => f.pops.foldl Thread.pop th

/-- Write a result to a destination: a register, or the outgoing buffer of a port (R227). -/
def Thread.put (th : Thread) (dst : Option RegName) (v : Vec) (fl : Option FlagRef) : Thread :=
  match dst with
  | none => th
  | some r =>
    match portOf r with
    | some (d, true) => th.modPort d fun p => { p with outV := some (v, fl) }
    | some (d, false) => th.modPort d fun p => { p with outS := some (v.setWidth 64, fl) }
    | none =>
      match r with
      | .s r => { th with r := th.r.sset r (v.setWidth 64) }
      | .v r => { th with r := th.r.vset r v }
      | .q r => { th with r := th.r.qset r.toNat (v.setWidth 32) }
      | .k _ => th

/-- What an instruction delivers in a lane: the destination's value, the float flags raised, whether an integer
division by zero occurred (R125), and the generator's new state. -/
structure LaneOut where
  val : Vec := 0
  fl : Fl := 0
  dz : Bool := false
  gen : Option (BitVec 16) := none
  deriving DecidableEq, Repr

/-- A scalar result. -/
def LaneOut.ofS (v : Word) : LaneOut := { val := v.setWidth 256 }
/-- A scalar float result with its flags (R94). -/
def LaneOut.ofF (r : Nat × Fl) : LaneOut := { val := BitVec.ofNat 256 r.1, fl := r.2 }

/-- What each lane delivers: a trap cause and value, or a result. -/
abbrev LaneFn := (Nat → Vals) → Nat → Except (Nat × Word) LaneOut

/-- A lane's trap: the function's own, or trap 0x0D of the flags it raised (R121). -/
def laneTrap (fcsr : Word) (t : Nat) (r : Except (Nat × Word) LaneOut) : Option LaneTrap :=
  match r with
  | .error (c, v) => some (t, c, v)
  | .ok o => (fpTrap fcsr o.fl).map fun (c, v) => (t, c, v)

/-- The result, or nothing, of a lane. -/
def laneOut (r : Except (Nat × Word) LaneOut) : LaneOut :=
  match r with
  | .ok o => o
  | .error _ => {}

/-- Fill a lane: its destination and its generator. A pushed value carries the flag of its lane (R72). -/
def State.putLane (s : State) (x : Issuer) (f : Fields) (t : Nat) (o : LaneOut) : State :=
  let fl := match f.push, s.curFlag with
    | some _, some cf => some { wg := x.id.wg, lanes := [t], cf := cf, taskAt := x.taskAt }
    | some _, none => none
    | none, _ => none
  s.modThr x.id.wg t fun th =>
    let th := th.put f.dst o.val fl
    let th := if fl.isSome then th.cfAdd (s.curFlag.getD 0) else th
    { th with gen := o.gen.getD th.gen }

/-- The values that lanes have pushed to a port share their flag with another event (R72). -/
def State.halvePort (s : State) (x : Issuer) (p : Dir × Bool) (half : Option Nat) : State :=
  s.modThrs x.id.wg x.active fun _ th => th.modPort p.1 fun q =>
    if p.2 then { q with outV := q.outV.map fun o => (o.1, o.2.map fun fl => { fl with half := half }) }
    else { q with outS := q.outS.map fun o => (o.1, o.2.map fun fl => { fl with half := half }) }

/-- All lanes complete together (R130, R131): ports are popped, results written, flags ORed into FCSR (R121). -/
def State.commit (s : State) (x : Issuer) (f : Fields) (out : Nat → LaneOut) : State :=
  let s := s.popAll x f
  let s := x.active.foldl (fun s t => s.putLane x f t (out t)) s
  let fl := x.active.foldl (fun (a : Fl) t => a ||| (out t).fl ||| (if (out t).dz then Fl.dz else 0)) 0
  (if fl = 0 then s else s.modSh x fun h => h.raise fl).retire x

/-- The fields of a lane of the span, active or not (R171). A port register of a lane that is not active is not
popped; what it would supply is a free value for each lane and field, which an instruction draws by its clock (log entry
17). -/
def Issuer.lane (x : Issuer) (f : Fields) (draw : Nat × Nat) (t : Nat) : Vals :=
  let v := (x.w.thr t).vals f
  let fr := fun (i : Nat) (r : Option RegName) (y : Vec) =>
    if (r.bind portOf).isSome && !x.active.contains t then Config.freePort draw x.id.wg t i else y
  { v with a := fr 0 f.a v.a, b := fr 1 f.b v.b, c := fr 2 f.c v.c, d := fr 3 f.d v.d }

/-- The frame of an instruction that computes lane by lane (R130, R131, R133): it waits for its operands, traps as a
whole where a lane traps, and otherwise completes in every active lane. -/
def State.lanewise (s : State) (x : Issuer) (f : Fields) (fn : LaneFn) : State :=
  match s.gate x f with
  | .stop s' => s'
  | .go pt =>
    let rd := x.lane f (s.free, s.clock)
    let own := (x.readable f).filterMap fun t => laneTrap x.u.sh.fcsr t (fn rd t)
    let ts := mergeTraps x.active pt own
    if ts.isEmpty then s.commit x f fun t => laneOut (fn rd t) else s.trapLanes x false ts

/-- An instruction that computes in each lane from that lane's own fields. -/
def perLane (g : Nat → Vals → Except (Nat × Word) LaneOut) : LaneFn := fun rd t => g t (rd t)

-- Elements of vectors (R95, R96).

/-- Element `i` of width `w`. -/
def elem (w : Nat) (v : Vec) (i : Nat) : Nat := v.toNat / 2 ^ (w * i) % 2 ^ w
/-- Elements in a register. -/
def elems (w : Nat) : Nat := 256 / w
/-- Whether an element is active under a predicate (R96). -/
def elemOn (w : Nat) (q : Mask) (i : Nat) : Bool := q.getLsbD (w * i / 8)
/-- A vector from its elements. -/
def ofElems (w : Nat) (f : Nat → Nat) : Vec :=
  BitVec.ofNat 256 ((List.range (elems w)).foldl (fun a i => a + f i % 2 ^ w * 2 ^ (w * i)) 0)
/-- The active elements replaced, the others kept (R96). -/
def mapElems (w : Nat) (q : Mask) (old : Vec) (f : Nat → Nat) : Vec :=
  ofElems w fun i => if elemOn w q i then f i else elem w old i
/-- The active elements, ascending. -/
def activeElems (w : Nat) (q : Mask) : List Nat := (List.range (elems w)).filter (elemOn w q)
/-- The active elements replaced by float results, with the flags of all of them (R121). -/
def mapFloat (w : Nat) (q : Mask) (old : Vec) (f : Nat → Nat × Fl) : LaneOut :=
  { val := mapElems w q old fun i => (f i).1
    fl := (activeElems w q).foldl (fun a i => a ||| (f i).2) 0 }

end Sys2Proof.Machine
end

