-- ==== Sys2Proof/Machine/Access.lean ====
section
/-!
DEFINITION. Accesses of the lanes of one instruction to memory: their checks in order (R146, R169, R287, R377), page
faults and misses (R383, R387), transactions (R295 to R299), performed loads and stores (R145, R147, R170), remote
window stores (R283) and requests that wait for a link (R415).
-/

namespace Sys2Proof.Machine

/-- One access of a lane: the thread, the address and the size. -/
structure LaneAcc where
  t : Nat
  va : Word
  n : Nat
  deriving DecidableEq, Repr

/-- What the checks of an access find. -/
inductive Chk where
  | good (a : LaneAcc) (p : Probe)
  | bad (a : LaneAcc) (cause : Nat)
  | wait (a : LaneAcc)
  deriving DecidableEq, Repr

/-- Whether an open transaction has itself written all of a sector: it reads its own bytes there (R295), whatever the
sector under them holds. -/
def Issuer.ownSector (x : Issuer) (l : Loc) : Bool :=
  match x.u.tx with
  | some y => y.whole.contains l.lineId
  | none => false

/-- The checks of one access in order: alignment, translation, protection, then the sector check or ECC on a read
(R146, R287). `unit` says that an atomic reads, and whether at the home (R288). -/
def State.chk (s : State) (x : Issuer) (k : Access) (reads : Bool) (a : LaneAcc) (unit : Option Bool := none) : Chk :=
  if a.va.toNat % a.n ≠ 0 then .bad a 4
  else match s.probe x.w a.t x.u.sh.priv k a.va a.n with
    | .trap c => .bad a c
    | .park => .bad a k.pageFault
    | .miss => .wait a
    | .remote c o => .good a (.remote c o)
    | .ok l e =>
      let read := match unit with
        | none => s.readFail x.cl (pipeOf a.t) l a.n
        | some wide => s.unitFail x.cl (pipeOf a.t) wide l a.n
      match if reads && !x.ownSector l then read else none with
      | some c => .bad a c
      | none => .good a (.ok l e)

/-- Whether an access needs the link: peer memory whose line the cluster does not hold (R264, R271). -/
def State.needsLink (s : State) (x : Issuer) (a : LaneAcc) (p : Probe) : Bool :=
  match p with
  | .ok (.mem (.peer d) pa nc) _ =>
    !(cached (.peer d) nc && s.l1has x.cl (s.bankOf x.cl (pipeOf a.t)) (.peer d) (pa / 32))
  | .ok _ _ | .remote _ _ | .trap _ | .park | .miss => false

/-- Accesses that a transaction does not allow (R295, R299), by where they lead: another cluster's window, peer, host or
PCIe memory, or a page that the L1 cannot cache. -/
def txForbids (x : Issuer) (p : Probe) : Bool :=
  match p with
  | .remote _ _ => true
  | .ok (.sram c _) _ => c ≠ x.cl
  | .ok (.mem .dev _ nc) _ => nc
  | .ok (.mem _ _ _) _ => true
  | .trap _ | .park | .miss => false

/-- Whether a transaction does not allow an access, whatever its own checks would find (R299: before any effect). -/
def State.txForbidden (s : State) (x : Issuer) (k : Access) (a : LaneAcc) : Bool :=
  let cx := nbits a.va.toNat 24 19
  let cy := nbits a.va.toNat 29 25
  (canonical a.va && isWindow a.va && !ownForm a.va && cx < 36 && cy < 16 && clusterAt cx cy ≠ x.cl) ||
    txForbids x (s.probe x.w a.t x.u.sh.priv k a.va a.n)

/-- Whether two byte ranges meet. -/
def rangesMeet (a n b m : Nat) : Bool := a < b + m && b < a + n

/-- The rows of a matrix instruction in SRAM: `n` bytes at each of `m` rows (R215). -/
def MatOp.rows (o : MatOp) (m n : Nat) : List (Nat × Nat) :=
  (List.range m).map fun (i : Nat) => (((o.addr : Int) + i * o.stride).toNat, n)

/-- The SRAM bytes that a matrix instruction will still read (R209). -/
def MatOp.readRanges (o : MatOp) : List (Nat × Nat) :=
  if o.started then []
  else
    let f := laneCount o.f
    match o.ins with
    | .mldacc _ _ _ _ => o.rows (2 * f) 256
    | .mldob _ _ _ all _ => [(o.addr, if all then 8192 else 2048)]
    | .mscl isB _ => [(o.addr, if isB then 512 else 16 * f)]
    | .mplanS _ _ _ _ _ => [(o.addr, 256 * f)]
    | _ => []

/-- The SRAM bytes that a matrix instruction will still write (R209). -/
def MatOp.writeRanges (o : MatOp) : List (Nat × Nat) :=
  match o.ins with
  | .mstacc ty _ _ _ _ _ => o.rows (2 * laneCount o.f) (64 * (ty.bits / 8))
  | _ => []

/-- Whether an access of a lane is held by a matrix instruction of its group that has not done its own access to the
same bytes (R209). -/
def State.heldByMatrix (s : State) (x : Issuer) (k : Access) (a : LaneAcc) (p : Probe) : Bool :=
  match p with
  | .ok (.sram c o) _ =>
    (s.cl c).mq.any fun m =>
      m.wg == x.id.wg && 32 * m.col + m.base ≤ a.t && a.t < 32 * m.col + m.base + laneCount m.f &&
        ((m.writeRanges.any fun r => rangesMeet o a.n r.1 r.2) ||
          (k ≠ .load && m.readRanges.any fun r => rangesMeet o a.n r.1 r.2))
  | .ok (.mem _ _ _) _ | .remote _ _ | .trap _ | .park | .miss => false

/-- The outcome of the checks of all accesses of an instruction. -/
inductive AccRes where
  | stop (s : State)
  | traps (ts : List LaneTrap)
  | go (rs : List (LaneAcc × Probe))

/-- Whether a load or atomic of another cluster's window must wait for a store of the same thread to one of its bytes
that has not arrived (R277, R278). -/
def State.heldByStore (s : State) (x : Issuer) (a : LaneAcc) (p : Probe) : Bool :=
  match p with
  | .ok (.sram c _) _ => c ≠ x.cl && s.remote.any fun r =>
      r.done.isNone && r.wg == x.id.wg && r.t == a.t && r.target == c &&
        rangesMeet (a.va.toNat % 2 ^ 19) a.n r.off r.bytes.length
  | .ok (.mem _ _ _) _ | .remote _ _ | .trap _ | .park | .miss => false

/-- The first access of each lane that does not pass, in the order of its accesses (R169, R377): with its cause, or
none where its translation is still to be walked. -/
def firstStops (cs : List Chk) : List (LaneAcc × Option Nat) :=
  let add := fun (out : List (LaneAcc × Option Nat)) (a : LaneAcc) (c : Option Nat) =>
    if out.any fun l => l.1.t == a.t then out else out ++ [(a, c)]
  cs.foldl (fun out c => match c with
    | .bad a cause => add out a (some cause)
    | .wait a => add out a none
    | .good _ _ => out) []

/-- Checks whose description gives them no order: what is still to be walked first, then the causes by ascending code
(R377, item 3). -/
def byCause (cs : List Chk) : List Chk :=
  (cs.filter fun c => match c with
    | .wait _ => true
    | .good _ _ | .bad _ _ => false) ++
  ((List.range 32).flatMap fun n => cs.filter fun c => match c with
    | .bad _ k => k == n
    | .good _ _ | .wait _ => false) ++
  cs.filter fun c => match c with
    | .good _ _ => true
    | .wait _ | .bad _ _ => false

/-- Loads and atomics that need a link that is down wait as requests; those whose time has passed trap 0x0A (R415). -/
def State.linkWait (s : State) (x : Issuer) (far : List LaneAcc) : AccRes :=
  let mine := fun (a : LaneAcc) (q : LinkReq) => q.wg == x.id.wg && q.t == a.t && q.va == a.va && !q.store
  let dead := far.filter fun a => s.linkReqs.any fun q => q.dead && mine a q
  if dead.isEmpty then
    .stop (far.foldl (fun s a =>
      if s.linkReqs.any (mine a) then s
      else { s with
        nextId := s.nextId + 1
        linkReqs := s.linkReqs ++
          [{ id := s.nextId, wg := x.id.wg, t := a.t, va := a.va, store := false, since := s.clock, cl := x.cl }] }) s).stall
  else
    let lanes := (dead.map (·.t)).eraseDups
    .traps (lanes.filterMap fun t => (dead.find? fun a => a.t == t).map fun a => (t, 10, a.va))

/-- Check all accesses of an instruction. A translation that is still to be walked makes it not ready (R383), lane by
lane in the order of the lane's accesses; so do a store of the thread on its way to the bytes, and a link that is down,
until its time has passed (R415). `low` says that no rule gives the accesses an order, so that the lowest cause of a
lane's accesses is raised (R377). -/
def State.access (s : State) (x : Issuer) (k : Access) (reads : Bool) (as : List LaneAcc)
    (unit : Option Bool := none) (low : Bool := false) : AccRes :=
  if x.u.tx.isSome && as.any (s.txForbidden x k) then .stop (s.abortExplicit x)
  else
    let cs := as.map fun a => s.chk x k reads a unit
    let stops := firstStops (if low then byCause cs else cs)
    let waits := stops.filter fun l => l.2.isNone
    if !waits.isEmpty then
      .stop (waits.foldl (fun s l => s.joinMiss x.w l.1.t k.pageFault l.1.va) s).stall
    else
      let ts : List LaneTrap := stops.filterMap fun l => l.2.map fun c => (l.1.t, c, l.1.va)
      if !ts.isEmpty then .traps ts
      else
        let rs := cs.filterMap fun c => match c with
          | .good a p => some (a, p)
          | .wait _ | .bad _ _ => none
        if rs.any fun r => s.heldByMatrix x k r.1 r.2 || s.heldByStore x r.1 r.2 then .stop s.stall
        else
          let far := if s.linkUp then [] else rs.filter fun r => s.needsLink x r.1 r.2
          if far.isEmpty || k = .store || k = .drain then .go rs else s.linkWait x (far.map (·.1))

/-- Requests of a unit's lanes that waited for a link are over. -/
def State.dropReqs (s : State) (x : Issuer) : State :=
  if s.linkReqs.isEmpty then s
  else { s with linkReqs := s.linkReqs.filter fun q => q.store || !(q.wg == x.id.wg && x.active.contains q.t) }

-- Transactions.

/-- A line enters the sets of the unit's transaction; none when a set would exceed its bound (R295). -/
def Tx.touch (y : Tx) (l : LineId) (rd wr : Bool) : Option Tx :=
  let r := if rd && !y.reads.contains l then y.reads ++ [l] else y.reads
  let w := if wr && !y.writes.contains l then y.writes ++ [l] else y.writes
  if 32 < r.length ∨ 16 < w.length then none else some { y with reads := r, writes := w }

/-- Bytes with the transaction's own buffered writes on top (R295). -/
def Tx.overlay (y : Tx) (l : Loc) (bs : List Byte) : List Byte :=
  let (m, a) := match l with
    | .sram _ o => (y.redoSram, o)
    | .mem _ a _ => (y.redoMem, a)
  ((List.range bs.length).zip bs).map fun b => (mfind m (a + b.1)).getD b.2

/-- A buffered write (R295). -/
def Tx.redo (y : Tx) (l : Loc) (bs : List Byte) : Tx :=
  let put := fun (a : Nat) (m : Map Byte) => ((List.range bs.length).zip bs).foldl (fun m b => mput m (a + b.1) b.2) m
  let y := if bs.length = 32 then { y with whole := l.lineId :: y.whole } else y
  match l with
  | .sram _ o => { y with redoSram := put o y.redoSram }
  | .mem _ a _ => { y with redoMem := put a y.redoMem }

/-- The current transaction of the issuer's unit. -/
def State.txOf (s : State) (x : Issuer) : Option Tx :=
  match s.wg? x.id.wg with
  | some w => (w.ust x.id.t).tx
  | none => none

/-- Set the current transaction. -/
def State.setTx (s : State) (x : Issuer) (y : Tx) : State := s.modU x fun u => { u with tx := some y }

/-- A set that would exceed its bound aborts the transaction with CAPACITY (R297). -/
def State.abortCapacity (s : State) (x : Issuer) : State := s.txAbort x.id.wg x.id.t (abortStatus 2 0 0)

-- Performed accesses.

/-- The line that an access brings into the sets and tests for conflicts (R295, R296). -/
def State.meet (s : State) (x : Issuer) (l : Loc) (write : Bool) : State :=
  match l with
  | .sram c _ => s.conflict c (some x.id) write l.lineId
  | .mem .dev _ _ => s.conflict x.cl (some x.id) write l.lineId
  | .mem _ _ _ => s

/-- Perform a load of a lane. -/
def State.doLoad (s : State) (x : Issuer) (alloc : Bool) (a : LaneAcc) (l : Loc) (e : Option TlbEnt) :
    State × List Byte :=
  let s := (s.meet x l false).noteTlb x.cl (pipeOf a.t) e
  let inTx := x.u.tx.isSome
  let (s, bs) := s.readLoc x.cl (pipeOf a.t) (alloc || inTx) l a.n
  match s.txOf x with
  | none => (s, bs)
  | some y => (s, y.overlay l bs)

/-- The thread that last dirtied a line of a peer device (R415). -/
def State.ownLine (s : State) (c b : Nat) (sp : Space) (n : Nat) (who : Nat × Nat × Word) : State :=
  s.modCl c fun cl => { cl with l1 := cl.l1.map fun l => if l.at b sp n then { l with owner := who } else l }

/-- Perform a store of a lane; a transactional store is buffered (R295). -/
def State.doStore (s : State) (x : Issuer) (alloc : Bool) (a : LaneAcc) (l : Loc) (e : Option TlbEnt)
    (bs : List Byte) : State :=
  let s := (s.meet x l true).noteTlb x.cl (pipeOf a.t) e
  match s.txOf x with
  | none =>
    let s := s.writeLoc x.cl (pipeOf a.t) alloc l bs
    match l with
    | .mem (.peer d) pa _ => s.ownLine x.cl (s.bankOf x.cl (pipeOf a.t)) (.peer d) (pa / 32) (x.id.wg, a.t, a.va)
    | .mem .dev _ _ | .mem .host _ _ | .mem .pcie _ _ | .sram _ _ => s
  | some y =>
    let s := (s.readLoc x.cl (pipeOf a.t) true l a.n).1
    s.setTx x (y.redo l bs)

/-- Bring the lines of all accesses into the transaction's sets; none when a set would exceed its bound. -/
def State.txTouch (s : State) (x : Issuer) (ls : List Loc) (rd wr : Bool) : Option State :=
  match s.txOf x with
  | none => some s
  | some y => (ls.foldl (fun y l => y.bind fun y => y.touch l.lineId rd wr) (some y)).map (s.setTx x)

/-- A line of the sets that the L1 did not keep aborts the transaction with CAPACITY (R297). -/
def State.txKeep (s : State) (x : Issuer) : State := if x.u.tx.isSome then s.txLines x.cl else s

/-- The locations of checked accesses. -/
def locsOf (rs : List (LaneAcc × Probe)) : List Loc :=
  rs.filterMap fun r => match r.2 with
    | .ok l _ => some l
    | .remote _ _ | .trap _ | .park | .miss => none

/-- Perform all loads in order; the bytes of each access. -/
def State.loads (s : State) (x : Issuer) (alloc : Bool) : List (LaneAcc × Probe) → State × List (LaneAcc × List Byte)
  | [] => (s, [])
  | (a, p) :: rs =>
    match p with
    | .ok l e =>
      let (s, bs) := s.doLoad x alloc a l e
      let (s, out) := State.loads s x alloc rs
      (s, (a, bs) :: out)
    | .remote _ _ | .trap _ | .park | .miss => State.loads s x alloc rs

/-- The bytes that a lane's accesses loaded, in their order. -/
def laneBytes (bs : List (LaneAcc × List Byte)) (t : Nat) : List (List Byte) :=
  (bs.filter fun b => b.1.t == t).map (·.2)

/-- An instruction that loads (R145, R168): each lane's accesses come from its fields, and its result from the bytes.
The destination's result is pending (R76). -/
def State.loadOp (s : State) (x : Issuer) (f : Fields) (alloc : Bool) (accs : Nat → Vals → List LaneAcc)
    (out : Nat → Vals → List (List Byte) → LaneOut) : State :=
  match s.gate x f with
  | .stop s' => s'
  | .go pt =>
    let vals := fun t => (x.w.thr t).vals f
    let as := (x.readable f).flatMap fun t => accs t (vals t)
    match s.access x .load true as with
    | .stop s' => s'
    | .traps ts => s.trapLanes x false (mergeTraps x.active pt ts)
    | .go rs =>
      if !pt.isEmpty then s.trapLanes x false pt
      else match s.txTouch x (locsOf rs) true false with
        | none => s.abortCapacity x
        | some s =>
          let (s, bs) := (s.dropReqs x).loads x alloc rs
          let s := (s.txKeep x).commit x f fun t => out t (vals t) (laneBytes bs t)
          match f.dst with
          | some r => if (portOf r).isSome || r = .s 0 then s else s.setBusy x.id.wg x.active r
          | none => s

/-- The flag that an instruction's store in a lane carries on its way (R72). -/
def State.laneFlag (s : State) (x : Issuer) (t : Nat) : Option FlagRef :=
  s.curFlag.map fun cf => { wg := x.id.wg, lanes := [t], cf := cf, taskAt := x.taskAt }

/-- A store that needs a link that is down waits as a request (R415). -/
def State.linkStore (s : State) (x : Issuer) (batch : Nat) (a : LaneAcc) (sp : Space) (pa : Nat) (bs : List Byte) :
    State :=
  { s with
    nextId := s.nextId + 1
    linkReqs := s.linkReqs ++ [{ id := s.nextId, wg := x.id.wg, t := a.t, va := a.va, store := true, since := s.clock
                                 cl := x.cl, sp := sp, addr := pa, bytes := bs, flag := s.laneFlag x a.t
                                 batch := batch, taskAt := x.taskAt }] }

/-- Perform one store: into memory, into flight toward another cluster's window (R283), or, where it needs a link that
is down, as a request that waits (R415). -/
def State.storeOne (s : State) (x : Issuer) (alloc : Bool) (batch : Nat) (a : LaneAcc) (p : Probe) (bs : List Byte) :
    State :=
  match p with
  | .ok l e =>
    if s.needsLink x a p && !s.linkUp then
      match l with
      | .mem sp pa _ => s.linkStore x batch a sp pa bs
      | .sram _ _ => s
    else s.doStore x alloc a l e bs
  | .remote c o =>
    let r : RemoteStore := { id := s.nextId, wg := x.id.wg, t := a.t, src := x.cl, launch := x.w.launch, target := c
                             off := o, va := a.va, bytes := bs, flag := s.laneFlag x a.t, batch := batch, taskAt := x.taskAt }
    { s.modThr x.id.wg a.t fun th => { th with remote := th.remote + 1 } with
      nextId := s.nextId + 1, remote := s.remote ++ [r] }
  | .trap _ | .park | .miss => s

/-- Whether stores of a thread's instruction are still on their way: its flag waits for the last (R72, R170). -/
def State.batchLeft (s : State) (wg t batch : Nat) : Bool :=
  (s.remote.any fun q => q.batch == batch && q.wg == wg && q.t == t) ||
    s.linkReqs.any fun q => q.store && !q.wb && q.batch == batch && q.wg == wg && q.t == t

/-- Whether a lane's remote-store count has no room for its stores (R283). -/
def Issuer.remoteFull (x : Issuer) (rs : List (LaneAcc × Probe)) : Bool :=
  x.active.any fun t =>
    let n := (rs.filter fun r => r.1.t == t && match r.2 with
      | .remote _ _ => true
      | .ok _ _ | .trap _ | .park | .miss => false).length
    n ≠ 0 && 1023 < (x.w.thr t).remote + n

/-- The lines of memory that a lane's stores wrote. -/
def linesOf (rs : List (LaneAcc × Probe)) (t : Nat) : List (Space × Nat) :=
  (rs.filterMap fun r => match r.2 with
    | .ok (.mem sp a _) _ => if r.1.t = t then some (sp, a / 32) else none
    | .ok (.sram _ _) _ | .remote _ _ | .trap _ | .park | .miss => none).eraseDups

/-- Requests and stores in flight of a lane's instruction give up their flag, which the lane itself keeps. -/
def State.keepFlag (s : State) (wg t batch : Nat) : State :=
  { s with
    remote := s.remote.map fun q => if q.batch = batch ∧ q.wg = wg ∧ q.t = t then { q with flag := none } else q
    linkReqs := s.linkReqs.map fun q =>
      if q.batch = batch ∧ q.wg = wg ∧ q.t = t ∧ q.store = true then { q with flag := none } else q }

/-- Assign a store's flag in every active lane (R72, R75). The flag of a lane whose stores are all on their way falls as
the last of them ends. Another lane keeps it: it falls by the lane's own event, once the lines that it wrote stand at
their homes and no store of it is on its way. A VST or VSCAT of an active lane that selects no element assigns as another
one does, and its event follows at once: whether that is R72's empty mask is open, a choice of the model (log entry
107). -/
def State.storeFlag (s : State) (x : Issuer) (batch : Nat) (rs : List (LaneAcc × Probe)) : State :=
  match s.curFlag with
  | none => s
  | some cf => x.active.foldl (fun s t =>
      let left := s.batchLeft x.id.wg t batch
      let r : StoreFlag :=
        { cf := cf, lines := linesOf rs t, batch := if left then batch else 0, inTx := (s.txOf x).isSome }
      if left && r.lines.isEmpty then s.modThr x.id.wg t fun th => th.cfAdd cf
      else (if left then s.keepFlag x.id.wg t batch else s).modThr x.id.wg t fun th =>
        { th.cfAdd cf with storeFlags := th.storeFlags ++ [r] }) s

/-- An instruction that stores (R145, R147, R168, R170): each lane's accesses and their bytes, performed in ascending
lane order and, in a lane, in their order. -/
def State.storeOp (s : State) (x : Issuer) (f : Fields) (alloc : Bool)
    (accs : Nat → Vals → List (LaneAcc × List Byte)) : State :=
  match s.gate x f with
  | .stop s' => s'
  | .go pt =>
    let vals := fun t => (x.w.thr t).vals f
    let all := (x.readable f).flatMap fun t => accs t (vals t)
    match s.access x .store false (all.map (·.1)) with
    | .stop s' => s'
    | .traps ts => s.trapLanes x false (mergeTraps x.active pt ts)
    | .go rs =>
      if !pt.isEmpty then s.trapLanes x false pt
      else if x.remoteFull rs then s.stall
      else match s.txTouch x (locsOf rs) false true with
        | none => s.abortCapacity x
        | some s =>
          let batch := s.nextId
          let s := (rs.zip (all.map (·.2))).foldl (fun s r => s.storeOne x alloc batch r.1.1 r.1.2 r.2) s
          ((s.storeFlag x batch rs).txKeep x).commit x f fun _ => {}

end Sys2Proof.Machine
end

