-- ==== Sys2Proof/Machine/LoadStore.lean ====
section
/-!
DEFINITION. Loads and stores (R145 to R147) and vector memory (R168 to R170). Hints change no result (R68): .NA1 does
not allocate on a miss.
-/

namespace Sys2Proof.Machine

/-- The address of an M-format access of `n` bytes (R60, R145). -/
def mAddr (base : Word) (imm : BitVec 11) (n : Nat) : Word := base + imm.signExtend 64 * w64 n

/-- What a load writes: its bytes, sign- or zero-extended to 64 bits (R145). -/
def loadValue (n : Nat) (signed : Bool) (bs : List Byte) : Word :=
  if signed then BitVec.ofInt 64 (sint (8 * n) (leNat bs)) else w64 (leNat bs)

/-- LOAD (R145, R146). -/
def State.load (s : State) (n : Nat) (signed : Bool) (h : Hint) (rd ra : R5) (imm : BitVec 11) :
    Host.Outcome State Fault Refusal :=
  s.onUnit fun x => s.loadOp x { a := some (.s ra), dst := some (.s rd) } (h ≠ .na1)
    (fun t v => [⟨t, mAddr v.sa imm n, n⟩]) (fun _ _ bs => .ofS (loadValue n signed (bs.headD [])))

/-- STORE (R145, R146). -/
def State.store (s : State) (n : Nat) (h : Hint) (rs ra : R5) (imm : BitVec 11) : Host.Outcome State Fault Refusal :=
  s.onUnit fun x => s.storeOp x { a := some (.s ra), d := some (.s rs) } (h ≠ .na1)
    (fun t v => [(⟨t, mAddr v.sa imm n, n⟩, leBytes n v.sd.toNat)])

/-- LB (R68, R145). -/
def execLb (h : Hint) (rd ra : R5) (imm : BitVec 11) (s : State) : Host.Outcome State Fault Refusal :=
  s.load 1 true h rd ra imm
/-- LH (R68, R145). -/
def execLh (h : Hint) (rd ra : R5) (imm : BitVec 11) (s : State) : Host.Outcome State Fault Refusal :=
  s.load 2 true h rd ra imm
/-- LW (R68, R145). -/
def execLw (h : Hint) (rd ra : R5) (imm : BitVec 11) (s : State) : Host.Outcome State Fault Refusal :=
  s.load 4 true h rd ra imm
/-- LD (R68, R145). -/
def execLd (h : Hint) (rd ra : R5) (imm : BitVec 11) (s : State) : Host.Outcome State Fault Refusal :=
  s.load 8 true h rd ra imm
/-- LBU (R68, R145). -/
def execLbu (h : Hint) (rd ra : R5) (imm : BitVec 11) (s : State) : Host.Outcome State Fault Refusal :=
  s.load 1 false h rd ra imm
/-- LHU (R68, R145). -/
def execLhu (h : Hint) (rd ra : R5) (imm : BitVec 11) (s : State) : Host.Outcome State Fault Refusal :=
  s.load 2 false h rd ra imm
/-- LWU (R68, R145). -/
def execLwu (h : Hint) (rd ra : R5) (imm : BitVec 11) (s : State) : Host.Outcome State Fault Refusal :=
  s.load 4 false h rd ra imm
/-- SB (R68, R145). -/
def execSb (h : Hint) (rs ra : R5) (imm : BitVec 11) (s : State) : Host.Outcome State Fault Refusal :=
  s.store 1 h rs ra imm
/-- SH (R68, R145). -/
def execSh (h : Hint) (rs ra : R5) (imm : BitVec 11) (s : State) : Host.Outcome State Fault Refusal :=
  s.store 2 h rs ra imm
/-- SW (R68, R145). -/
def execSw (h : Hint) (rs ra : R5) (imm : BitVec 11) (s : State) : Host.Outcome State Fault Refusal :=
  s.store 4 h rs ra imm
/-- SD (R68, R145). -/
def execSd (h : Hint) (rs ra : R5) (imm : BitVec 11) (s : State) : Host.Outcome State Fault Refusal :=
  s.store 8 h rs ra imm

-- Vector memory.

/-- The bytes of an element type in memory. -/
def elemBytes (et : ElemTy) : Nat := et.bits / 8

/-- The accesses of the active elements, ascending (R168, R169). -/
def vecAccs (et : ElemTy) (q : Mask) (t : Nat) (addr : Nat → Word) : List LaneAcc :=
  (activeElems et.bits q).map fun i => ⟨t, addr i, elemBytes et⟩

/-- A vector load's result: the active elements from their bytes, the others kept (R96). -/
def vecLoaded (et : ElemTy) (v : Vals) (bs : List (List Byte)) : LaneOut :=
  let on := activeElems et.bits v.q
  { val := mapElems et.bits v.q v.old fun i => leNat ((((on.zip bs).find? fun b => b.1 == i).map (·.2)).getD []) }

/-- A vector load; `addr` is element i's address. -/
def State.vload (s : State) (et : ElemTy) (f : Fields) (addr : Vals → Nat → Word) : Host.Outcome State Fault Refusal :=
  s.onUnit fun x => s.loadOp x f true
    (fun t v => vecAccs et v.q t (addr v)) (fun _ v bs => vecLoaded et v bs)

/-- A vector store's accesses and bytes (R168). All 32 bytes of one aligned sector are stored together (R302), where
none of its elements falls outside a window's view (R169). -/
def vecStores (w : Workgroup) (et : ElemTy) (v : Vals) (t : Nat) (addr : Nat → Word) : List (LaneAcc × List Byte) :=
  let n := elemBytes et
  let on := activeElems et.bits v.q
  let row := on.length = elems et.bits && on.all fun i => addr i = addr 0 + w64 (i * n)
  let inside := !isWindow (addr 0) || w.cfg.inView ((addr 0).toNat % 2 ^ 19) 32
  if row && (addr 0).toNat % 32 = 0 && inside then [(⟨t, addr 0, 32⟩, vbytes v.d)]
  else on.map fun i => (⟨t, addr i, n⟩, leBytes n (elem et.bits v.d i))

/-- A vector store; `addr` is element i's address. -/
def State.vstore (s : State) (et : ElemTy) (f : Fields) (addr : Vals → Nat → Word) :
    Host.Outcome State Fault Refusal :=
  s.onUnit fun x => s.storeOp x f true fun t v => vecStores x.w et v t (addr v)

/-- s[ra] + s[rb] + i·w (R168). -/
def addrPlain (et : ElemTy) (v : Vals) (i : Nat) : Word := v.sa + v.sb + w64 (i * elemBytes et)
/-- s[ra] + i·s[rb] (R168). -/
def addrStride (v : Vals) (i : Nat) : Word := v.sa + w64 i * v.sb
/-- s[ra] + v[rb][i], the offset signed (R168). -/
def addrIndex (et : ElemTy) (v : Vals) (i : Nat) : Word :=
  v.sa + BitVec.ofInt 64 (sint et.bits (elem et.bits v.b i))

/-- VLD (R168). -/
def execVld (et : ElemTy) (qp : BitVec 3) (rd ra rb : R5) (s : State) : Host.Outcome State Fault Refusal :=
  s.vload et { a := some (.s ra), b := some (.s rb), qp := qp.toNat, dst := some (.v rd) } (addrPlain et)
/-- VST (R168). -/
def execVst (et : ElemTy) (qp : BitVec 3) (rs ra rb : R5) (s : State) : Host.Outcome State Fault Refusal :=
  s.vstore et { a := some (.s ra), b := some (.s rb), d := some (.v rs), qp := qp.toNat } (addrPlain et)
/-- VLDS (R168). -/
def execVlds (et : ElemTy) (qp : BitVec 3) (rd ra rb : R5) (s : State) : Host.Outcome State Fault Refusal :=
  s.vload et { a := some (.s ra), b := some (.s rb), qp := qp.toNat, dst := some (.v rd) } addrStride
/-- VGATH (R168). -/
def execVgath (et : ElemTy) (qp : BitVec 3) (rd ra rb : R5) (s : State) : Host.Outcome State Fault Refusal :=
  s.vload et { a := some (.s ra), b := some (.v rb), qp := qp.toNat, dst := some (.v rd) } (addrIndex et)
/-- VSCAT (R168, R170). -/
def execVscat (et : ElemTy) (qp : BitVec 3) (rs ra rb : R5) (s : State) : Host.Outcome State Fault Refusal :=
  s.vstore et { a := some (.s ra), b := some (.v rb), d := some (.v rs), qp := qp.toNat } (addrIndex et)

/-- PENDING_RESULT: a register's pending result arrives, and the scoreboard lets readers pass (R76). The result of
MSTAT arrives when its arrays reach it (R218). -/
def execPendingResult (wg t : Nat) (r : RegName) (s : State) : Host.Outcome State Fault Refusal :=
  .next <|
    match s.wg? wg with
    | none => s
    | some w =>
      let queued := (s.cl w.cluster).mq.any fun o => o.wg == wg && o.lanes.contains t &&
        match o.ins with
        | .mstat _ _ rd => r == .s rd
        | _ => false
      if queued then s else s.modThr wg t fun th => { th with busy := th.busy.filter fun b => b ≠ r }

/-- Lines that a thread's stores wrote are written back, from its bank and from the cluster-shared part (R271). -/
def State.linesOut (s : State) (c p : Nat) (ls : List (Space × Nat)) : State :=
  let b := s.bankOf c p
  if ls.isEmpty then s else s.l1flush c fun l => (l.bank == b || l.bank == 32) && ls.contains (l.sp, l.line)

/-- Whether a write-back of one of a cluster's lines waits for a link (R415). -/
def State.linesWait (s : State) (c : Nat) (ls : List (Space × Nat)) : Bool :=
  s.linkReqs.any fun q => q.wb && q.cl == c && ls.contains (q.sp, q.addr / 32)

/-- COMPLETION_EVENT of a store: the oldest pending store flag of the thread counts down once its stores are where R72
has them. The lines that it wrote are written back first, for a home to accept them; a store of the open transaction
is nowhere yet (R295). -/
def State.storeDone (s : State) (wg t : Nat) : State :=
  match (s.thr wg t).storeFlags, s.wg? wg with
  | r :: _, some w =>
    if r.inTx || s.batchLeft wg t r.batch then s
    else
      let s := s.linesOut w.cluster (pipeOf t) r.lines
      if s.linesWait w.cluster r.lines then s
      else s.modThr wg t fun th => { th.cfSub r.cf with storeFlags := th.storeFlags.tail }
  | _, _ => s

/-- L1_EVICTION: a line leaves an L1 level (R271); a dirty one is written back, a transaction that holds it aborts
(R297). The event names the line's place in the level's list. -/
def State.evict (s : State) (c n : Nat) : State :=
  match (s.cl c).l1[n]? with
  | none => s
  | some l =>
    let s := if l.dirty = 0 then s else s.lineHome c l
    s.l1drop c fun k => k.at l.bank l.sp l.line

/-- L1_EVICTION (R271, R297). -/
def execL1Eviction (cluster n : Nat) (s : State) : Host.Outcome State Fault Refusal :=
  .next ((s.evict cluster n).txLines cluster)

/-- EPOCH_END: after 2^20 clocks, a page with at least 256 reads from other dies and no write enters replicated mode,
and the counts start anew (R274). -/
def execEpochEnd (s : State) : Host.Outcome State Fault Refusal :=
  .next <|
    if s.clock < s.epochAt + 2 ^ 20 then s
    else { s with
      epochAt := s.clock
      pages := s.pages.map fun p =>
        (p.1, { p.2 with reads := 0, writes := 0, replicated := p.2.replicated || (256 ≤ p.2.reads && p.2.writes = 0) }) }

/-- An entry of a cluster's trace ring, while it is enabled (R284). -/
def traceAdd (s : State) (c src t size off : Nat) (atomic : Bool) : State :=
  if !(s.cl c).traceOn then s
  else s.modCl c fun cl => { cl with
    trace := (⟨s.clock, clX src, clY src, t % 128, atomic, size, off⟩ :: cl.trace).take 256
    traceCount := cl.traceCount + 1 }

/-- REMOTE_STORE_ARRIVE: a remote window store reaches the target's SRAM port and is performed, or refused where no
workgroup of the launch runs there (R268, R277, R283, R284). Stores of one thread to one 32-byte line arrive in
order, and so do those of one instruction, lane by lane (R147, R170). -/
def execRemoteStoreArrive (n : Nat) (s : State) : Host.Outcome State Fault Refusal :=
  .next <|
    match s.remote.find? fun r => r.id == n && r.done.isNone with
    | none => s
    | some r =>
      let first := s.remote.find? fun q => q.done.isNone && q.wg == r.wg && (q.t == r.t || q.batch == r.batch) &&
        q.target == r.target && q.off / 32 == r.off / 32
      if first.map (·.id) ≠ some n then s
      else
        let s := traceAdd s r.target r.src r.t r.bytes.length r.off false
        let mark := fun (s : State) (refused : Bool) =>
          { s with remote := s.remote.map fun q => if q.id = n then { q with done := some refused } else q }
        match s.target? r.launch r.target with
        | none => mark s true
        | some v =>
          let a := v.phys r.off
          let s := (touchedSectors a r.bytes.length).foldl (fun s k => s.conflict r.target none true ⟨true, k⟩) s
          mark (s.sramWrite r.target a r.bytes) false

/-- REMOTE_STORE_ACK: the acknowledgement or refusal returns; the count falls, the flag's event occurs, and a refusal
posts WINDOW to the storing thread (R72, R268, R283). -/
def execRemoteStoreAck (n : Nat) (s : State) : Host.Outcome State Fault Refusal :=
  .next <|
    match s.remote.find? fun r => r.id == n && r.done.isSome with
    | none => s
    | some r =>
      let s := { s with remote := s.remote.filter fun q => q.id ≠ n }
      let s := s.modTask r.wg r.t r.taskAt fun th => { th with remote := th.remote - 1 }
      let s := if s.batchLeft r.wg r.t r.batch then s else s.flagDone r.flag
      if r.done = some true then s.postErrorTo r.wg r.t r.taskAt 1 r.va else s

end Sys2Proof.Machine
end

