-- ==== Sys2Proof/Machine/Scalar.lean ====
section
/-!
DEFINITION. Integer register-register instructions (R134, R135), immediates (R136, R137) and LUI, AUIPC (R138).
Results are computed on natural numbers below 2^n, n the operation width, and narrowed at the end.
-/

namespace Sys2Proof.Machine

-- The results of R134 on n-bit operands a and b; a shift count is the low bits of b.

/-- ADD (R134). -/
def aluAdd (_n a b : Nat) : Nat := a + b
/-- SUB (R134). -/
def aluSub (n a b : Nat) : Nat := a + 2 ^ n - b
/-- AND (R134). -/
def aluAnd (_n a b : Nat) : Nat := a &&& b
/-- OR (R134). -/
def aluOr (_n a b : Nat) : Nat := a ||| b
/-- XOR (R134). -/
def aluXor (_n a b : Nat) : Nat := a ^^^ b
/-- SLL (R134). -/
def aluSll (n a b : Nat) : Nat := a * 2 ^ (b % n)
/-- SRL (R134). -/
def aluSrl (n a b : Nat) : Nat := a / 2 ^ (b % n)
/-- SRA (R134). -/
def aluSra (n a b : Nat) : Nat := wrap n (sint n a / (2 ^ (b % n) : Nat))
/-- ROTL (R134). -/
def aluRotl (n a b : Nat) : Nat := a * 2 ^ (b % n) + a / 2 ^ (n - b % n)
/-- SLT (R134). -/
def aluSlt (n a b : Nat) : Nat := if sint n a < sint n b then 1 else 0
/-- SLTU (R134). -/
def aluSltu (_n a b : Nat) : Nat := if a < b then 1 else 0
/-- MIN (R134). -/
def aluMin (n a b : Nat) : Nat := if sint n a < sint n b then a else b
/-- MAX (R134). -/
def aluMax (n a b : Nat) : Nat := if sint n a < sint n b then b else a
/-- MINU (R134). -/
def aluMinu (_n a b : Nat) : Nat := Nat.min a b
/-- MAXU (R134). -/
def aluMaxu (_n a b : Nat) : Nat := Nat.max a b
/-- MUL (R134). -/
def aluMul (_n a b : Nat) : Nat := a * b
/-- MULH (R134). -/
def aluMulh (n a b : Nat) : Nat := wrap n (sint n a * sint n b / (2 ^ n : Nat))
/-- MULHU (R134). -/
def aluMulhu (n a b : Nat) : Nat := a * b / 2 ^ n
/-- DIV (R134, R125). -/
def aluDiv (n a b : Nat) : Nat := if b = 0 then 2 ^ n - 1 else wrap n ((sint n a).tdiv (sint n b))
/-- DIVU (R134, R125). -/
def aluDivu (n a b : Nat) : Nat := if b = 0 then 2 ^ n - 1 else a / b
/-- REM (R134, R125). -/
def aluRem (n a b : Nat) : Nat := if b = 0 then a else wrap n ((sint n a).tmod (sint n b))
/-- REMU (R134, R125). -/
def aluRemu (_n a b : Nat) : Nat := if b = 0 then a else a % b
/-- CLZ (R134). -/
def aluClz (n a _b : Nat) : Nat := if a = 0 then n else n - 1 - Nat.log2 a
/-- CTZ (R134). -/
def aluCtz (n a _b : Nat) : Nat := ((List.range n).find? fun i => nbit a i).getD n
/-- POPC (R134). -/
def aluPopc (n a _b : Nat) : Nat := ((List.range n).filter fun i => nbit a i).length

/-- The operation width of a scalar instruction: 32 with .W, else 64 (R134). -/
def opWidth (w : Bool) : Nat := if w then 32 else 64

/-- A result narrowed to the operation width; a .W result is sign-extended to 64 bits (R125, R134). -/
def narrow (w : Bool) (r : Nat) : Word :=
  if w then (BitVec.ofNat 32 r).signExtend 64 else BitVec.ofNat 64 r

/-- An OPR operation on registers (R134): operands cut to the width, the result narrowed. -/
def opr (f : Nat → Nat → Nat → Nat) (w : Bool) (a b : Word) : Word :=
  let n := opWidth w
  narrow w (f n (a.toNat % 2 ^ n) (b.toNat % 2 ^ n))

/-- The fields of an instruction with two scalar sources and a scalar destination. -/
def fSSS (rd ra rb : R5) : Fields := { a := some (.s ra), b := some (.s rb), dst := some (.s rd) }
/-- The fields of an instruction with one scalar source and a scalar destination. -/
def fSS (rd ra : R5) : Fields := { a := some (.s ra), dst := some (.s rd) }

/-- A scalar instruction of two sources. -/
def State.scalar2 (s : State) (rd ra rb : R5) (g : Word → Word → Word) : Host.Outcome State Fault Refusal :=
  s.onUnit fun x => s.lanewise x (fSSS rd ra rb) (perLane fun _ v => .ok (.ofS (g v.sa v.sb)))

/-- A scalar instruction of one source. -/
def State.scalar1 (s : State) (rd ra : R5) (g : Word → Word) : Host.Outcome State Fault Refusal :=
  s.onUnit fun x => s.lanewise x (fSS rd ra) (perLane fun _ v => .ok (.ofS (g v.sa)))

/-- A division (R135): a divisor of zero sets DZ. -/
def State.division (s : State) (w : Bool) (rd ra rb : R5) (f : Nat → Nat → Nat → Nat) :
    Host.Outcome State Fault Refusal :=
  s.onUnit fun x => s.lanewise x (fSSS rd ra rb) (perLane fun _ v =>
    .ok { LaneOut.ofS (opr f w v.sa v.sb) with dz := v.sb.toNat % 2 ^ opWidth w = 0 })

/-- ADD (R134). -/
def execAdd (w : Bool) (rd ra rb : R5) (s : State) : Host.Outcome State Fault Refusal :=
  s.scalar2 rd ra rb (opr aluAdd w)
/-- SUB (R134). -/
def execSub (w : Bool) (rd ra rb : R5) (s : State) : Host.Outcome State Fault Refusal :=
  s.scalar2 rd ra rb (opr aluSub w)
/-- AND (R134). -/
def execAnd (w : Bool) (rd ra rb : R5) (s : State) : Host.Outcome State Fault Refusal :=
  s.scalar2 rd ra rb (opr aluAnd w)
/-- OR (R134). -/
def execOr (w : Bool) (rd ra rb : R5) (s : State) : Host.Outcome State Fault Refusal :=
  s.scalar2 rd ra rb (opr aluOr w)
/-- XOR (R134). -/
def execXor (w : Bool) (rd ra rb : R5) (s : State) : Host.Outcome State Fault Refusal :=
  s.scalar2 rd ra rb (opr aluXor w)
/-- SLL (R134). -/
def execSll (w : Bool) (rd ra rb : R5) (s : State) : Host.Outcome State Fault Refusal :=
  s.scalar2 rd ra rb (opr aluSll w)
/-- SRL (R134). -/
def execSrl (w : Bool) (rd ra rb : R5) (s : State) : Host.Outcome State Fault Refusal :=
  s.scalar2 rd ra rb (opr aluSrl w)
/-- SRA (R134). -/
def execSra (w : Bool) (rd ra rb : R5) (s : State) : Host.Outcome State Fault Refusal :=
  s.scalar2 rd ra rb (opr aluSra w)
/-- ROTL (R134). -/
def execRotl (w : Bool) (rd ra rb : R5) (s : State) : Host.Outcome State Fault Refusal :=
  s.scalar2 rd ra rb (opr aluRotl w)
/-- SLT (R134). -/
def execSlt (w : Bool) (rd ra rb : R5) (s : State) : Host.Outcome State Fault Refusal :=
  s.scalar2 rd ra rb (opr aluSlt w)
/-- SLTU (R134). -/
def execSltu (w : Bool) (rd ra rb : R5) (s : State) : Host.Outcome State Fault Refusal :=
  s.scalar2 rd ra rb (opr aluSltu w)
/-- MIN (R134). -/
def execMin (w : Bool) (rd ra rb : R5) (s : State) : Host.Outcome State Fault Refusal :=
  s.scalar2 rd ra rb (opr aluMin w)
/-- MAX (R134). -/
def execMax (w : Bool) (rd ra rb : R5) (s : State) : Host.Outcome State Fault Refusal :=
  s.scalar2 rd ra rb (opr aluMax w)
/-- MINU (R134). -/
def execMinu (w : Bool) (rd ra rb : R5) (s : State) : Host.Outcome State Fault Refusal :=
  s.scalar2 rd ra rb (opr aluMinu w)
/-- MAXU (R134). -/
def execMaxu (w : Bool) (rd ra rb : R5) (s : State) : Host.Outcome State Fault Refusal :=
  s.scalar2 rd ra rb (opr aluMaxu w)
/-- MUL (R134). -/
def execMul (w : Bool) (rd ra rb : R5) (s : State) : Host.Outcome State Fault Refusal :=
  s.scalar2 rd ra rb (opr aluMul w)
/-- MULH (R134). -/
def execMulh (w : Bool) (rd ra rb : R5) (s : State) : Host.Outcome State Fault Refusal :=
  s.scalar2 rd ra rb (opr aluMulh w)
/-- MULHU (R134). -/
def execMulhu (w : Bool) (rd ra rb : R5) (s : State) : Host.Outcome State Fault Refusal :=
  s.scalar2 rd ra rb (opr aluMulhu w)
/-- DIV (R134, R135). -/
def execDiv (w : Bool) (rd ra rb : R5) (s : State) : Host.Outcome State Fault Refusal :=
  s.division w rd ra rb aluDiv
/-- DIVU (R134, R135). -/
def execDivu (w : Bool) (rd ra rb : R5) (s : State) : Host.Outcome State Fault Refusal :=
  s.division w rd ra rb aluDivu
/-- REM (R134, R135). -/
def execRem (w : Bool) (rd ra rb : R5) (s : State) : Host.Outcome State Fault Refusal :=
  s.division w rd ra rb aluRem
/-- REMU (R134, R135). -/
def execRemu (w : Bool) (rd ra rb : R5) (s : State) : Host.Outcome State Fault Refusal :=
  s.division w rd ra rb aluRemu
/-- CLZ (R134). -/
def execClz (w : Bool) (rd ra : R5) (s : State) : Host.Outcome State Fault Refusal :=
  s.scalar1 rd ra fun a => opr aluClz w a 0
/-- CTZ (R134). -/
def execCtz (w : Bool) (rd ra : R5) (s : State) : Host.Outcome State Fault Refusal :=
  s.scalar1 rd ra fun a => opr aluCtz w a 0
/-- POPC (R134). -/
def execPopc (w : Bool) (rd ra : R5) (s : State) : Host.Outcome State Fault Refusal :=
  s.scalar1 rd ra fun a => opr aluPopc w a 0

-- Immediates (R136 to R138).

/-- ADDI (R136). -/
def execAddi (rd ra : R5) (imm : BitVec 16) (s : State) : Host.Outcome State Fault Refusal :=
  s.scalar1 rd ra fun a => a + imm.signExtend 64
/-- ANDI (R136). -/
def execAndi (rd ra : R5) (imm : BitVec 16) (s : State) : Host.Outcome State Fault Refusal :=
  s.scalar1 rd ra fun a => a &&& imm.setWidth 64
/-- ORI (R136). -/
def execOri (rd ra : R5) (imm : BitVec 16) (s : State) : Host.Outcome State Fault Refusal :=
  s.scalar1 rd ra fun a => a ||| imm.setWidth 64
/-- XORI (R136). -/
def execXori (rd ra : R5) (imm : BitVec 16) (s : State) : Host.Outcome State Fault Refusal :=
  s.scalar1 rd ra fun a => a ^^^ imm.setWidth 64
/-- SLTI (R136). -/
def execSlti (rd ra : R5) (imm : BitVec 16) (s : State) : Host.Outcome State Fault Refusal :=
  s.scalar1 rd ra fun a => if a.toInt < imm.toInt then 1 else 0
/-- SLTIU (R136). -/
def execSltiu (rd ra : R5) (imm : BitVec 16) (s : State) : Host.Outcome State Fault Refusal :=
  s.scalar1 rd ra fun a => if a < imm.signExtend 64 then 1 else 0
/-- SLLI: SLL with the count of the word (R137). -/
def execSlli (w : Bool) (rd ra : R5) (count : BitVec 6) (s : State) : Host.Outcome State Fault Refusal :=
  s.scalar1 rd ra fun a => opr aluSll w a (count.setWidth 64)
/-- SRLI: SRL with the count of the word (R137). -/
def execSrli (w : Bool) (rd ra : R5) (count : BitVec 6) (s : State) : Host.Outcome State Fault Refusal :=
  s.scalar1 rd ra fun a => opr aluSrl w a (count.setWidth 64)
/-- SRAI: SRA with the count of the word (R137). -/
def execSrai (w : Bool) (rd ra : R5) (count : BitVec 6) (s : State) : Host.Outcome State Fault Refusal :=
  s.scalar1 rd ra fun a => opr aluSra w a (count.setWidth 64)
/-- SignExt(imm16, 16) · 2^16 mod 2^64 (R138). -/
def upper (imm : BitVec 16) : Word := imm.signExtend 64 <<< 16

/-- A scalar instruction without register sources. -/
def State.scalar0 (s : State) (rd : R5) (g : Issuer → Nat → Word) : Host.Outcome State Fault Refusal :=
  s.onUnit fun x => s.lanewise x { dst := some (.s rd) } (perLane fun t _ => .ok (.ofS (g x t)))

/-- LUI (R138). -/
def execLui (rd : R5) (imm : BitVec 16) (s : State) : Host.Outcome State Fault Refusal :=
  s.scalar0 rd fun _ _ => upper imm
/-- AUIPC (R138). -/
def execAuipc (rd : R5) (imm : BitVec 16) (s : State) : Host.Outcome State Fault Refusal :=
  s.scalar0 rd fun x _ => x.pc + upper imm

end Sys2Proof.Machine
end

