-- ==== Sys2Proof/Machine/Sync.lean ====
section
/-!
DEFINITION. Atomic instructions (R286 to R288), fences (R290 to R292), ACQH and RELH (R56, R293), and transactions
(R294 to R300).
-/

namespace Sys2Proof.Machine

-- Releases and acquires of a unit.

/-- Scopes whose release waits for peer stores and writes peer lines back (R279). -/
def scopeDomain : Scope → Bool
  | .pipe | .quad | .cluster | .die | .device | .rect => false
  | .domain | .system => true

/-- Whether a release at a scope by some threads must still wait: for their remote stores (R279, R283), and from DOMAIN on
for their stores and the cluster's write-backs to peer devices, which a link that is down delays (R415). -/
def State.releaseWaits (s : State) (x : Issuer) (ts : List Nat) (sc : Scope) : Bool :=
  (scopeWide sc && ts.any fun t => (x.w.thr t).remote ≠ 0) ||
    (scopeDomain sc &&
      ((s.linkReqs.any fun q => q.store && q.cl == x.cl && (q.wb || (q.wg == x.id.wg && ts.contains q.t))) ||
        (!s.linkUp && (s.cl x.cl).l1.any fun l => isPeer l.sp && l.dirty ≠ 0)))

/-- A release that must wait is not ready. Its write-backs to peer devices start (R415). -/
def State.releaseStall (s : State) (x : Issuer) (sc : Scope) : State :=
  (if scopeDomain sc && (s.cl x.cl).l1.any fun l => isPeer l.sp && l.dirty ≠ 0
    then s.l1flush x.cl fun l => isPeer l.sp else s).stall

/-- The rectangle that a register holds: x0, y0, x1, y1 (R32). -/
def rectFields (r : Word) : Nat × Nat × Nat × Nat :=
  (nbits r.toNat 5 0, nbits r.toNat 11 6, nbits r.toNat 17 12, nbits r.toNat 23 18)

/-- The scope that a lane names: RECT with a rectangle that is none of the device's acts as DEVICE (R32). -/
def laneScope (sc : Scope) (r : Word) : Scope :=
  let (x0, y0, x1, y1) := rectFields r
  if sc = .rect ∧ (x1 < x0 ∨ y1 < y0 ∨ 35 < x1 ∨ 15 < y1) then .device else sc

/-- Whether two clusters lie in a lane's rectangle, the issuing cluster counted as part of it (R32, R276). -/
def rectCovers (issuing : Nat) (r : Word) (c d : Nat) : Bool :=
  let (x0, y0, x1, y1) := rectFields r
  let inside := fun (k : Nat) => k == issuing || (x0 ≤ clX k && clX k ≤ x1 && y0 ≤ clY k && clY k ≤ y1)
  inside c && inside d

/-- A release by threads of a unit (R279). -/
def State.release (s : State) (c : Nat) (ts : List Nat) (sc : Scope) : State :=
  ts.foldl (fun s t => s.releaseAt c (pipeOf t) sc) s

/-- An acquire by threads of a unit (R279). -/
def State.acquire (s : State) (c : Nat) (ts : List Nat) (sc : Scope) : State :=
  (ts.foldl (fun s t => s.acquireAt c (pipeOf t) sc) s).txLines c

/-- A release by threads of a unit, each at its own lane's scope (R286). -/
def State.releaseEach (s : State) (c : Nat) (ts : List Nat) (sc : Nat → Scope) : State :=
  ts.foldl (fun s t => s.releaseAt c (pipeOf t) (sc t)) s

/-- An acquire by threads of a unit, each at its own lane's scope (R286). -/
def State.acquireEach (s : State) (c : Nat) (ts : List Nat) (sc : Nat → Scope) : State :=
  (ts.foldl (fun s t => s.acquireAt c (pipeOf t) (sc t)) s).txLines c

-- Atomics.

/-- Operations of ATOM (R69). -/
inductive Aop where
  | add | and | or | xor | min | max | minu | maxu | swap | fadd | cas | ldaq
  deriving DecidableEq, Repr

/-- The new value of an atomic, or none where it writes nothing (R287): width in bytes, old value, operand, expected
value. -/
def Aop.new (op : Aop) (n old b e : Nat) : Option Nat :=
  match op with
  | .add => some ((old + b) % 2 ^ (8 * n))
  | .and => some (old &&& b)
  | .or => some (old ||| b)
  | .xor => some (old ^^^ b)
  | .min => some (aluMin (8 * n) old b)
  | .max => some (aluMax (8 * n) old b)
  | .minu => some (Nat.min old b)
  | .maxu => some (Nat.max old b)
  | .swap => some b
  | .fadd => some (fAddPlain (if n = 4 then .f32 else .f64) old b)
  | .cas => if old = e then some b else none
  | .ldaq => none

/-- What s[rd] receives (R287, R94). -/
def Aop.result (op : Aop) (n old : Nat) : Word :=
  if n = 4 && op ≠ .fadd then (BitVec.ofNat 32 old).signExtend 64 else w64 old

/-- PCIe AtomicOps exist for add, swap and compare-and-swap only (R288). -/
def Aop.pcie (op : Aop) : Bool :=
  match op with
  | .add | .swap | .cas => true
  | .and | .or | .xor | .min | .max | .minu | .maxu | .fadd | .ldaq => false

/-- Bring a line into the cluster-shared part, where it has room, after the pipe's private copy is written back and
invalidated (R288). -/
def State.toClusterUnit (s : State) (c p : Nat) (sp : Space) (a : Nat) : State :=
  let b := s.bankOf c p
  let n := a / 32
  let s := if b = 32 then s else
    match (s.cl c).l1find b sp n with
    | none => s
    | some l => (if l.dirty = 0 then s else s.lineShared c l).l1drop c fun k => k.at b sp n
  if ((s.cl c).l1find 32 sp n).isSome then s
  else
    let l := s.homeLine 32 sp n
    let s := s.homeSeen (clDie c) sp a
    if s.l1room c 32 sp n then s.modCl c fun cl => cl.l1put l else s.txLines c

/-- Write back and invalidate the cluster's L1 copies of a line (R288). -/
def State.toHomeUnit (s : State) (c : Nat) (sp : Space) (a : Nat) : State :=
  let p := fun (l : L1Line) => l.sp == sp && l.line == a / 32
  if (s.cl c).l1.any p then ((s.l1flush c p).l1drop c p).txLines c else s

/-- Replace bytes of a line of the cluster-shared part, or of its home where the part has no room for it. -/
def State.sharedWrite (s : State) (c : Nat) (sp : Space) (a : Nat) (bs : List Byte) : State :=
  if !s.l1room c 32 sp (a / 32) then s.homeWrite sp a bs
  else
    let l := s.l1line c 32 sp (a / 32)
    let l' := ((List.range bs.length).zip bs).foldl (fun (l : L1Line) (y : Nat × Byte) =>
      { l with data := vsetByte l.data (a % 32 + y.1) y.2, dirty := l.dirty ||| (1#32 <<< (a % 32 + y.1)) }) l
    s.modCl c fun cl => cl.l1put l'

/-- Read the old bytes at the executing unit and make room there (R288). An atomic of PIPE, QUAD or CLUSTER scope on a
page that the L1 does not cache (NC) executes at the home: a choice of the model, since R288 sends it to the cluster
atomic unit, which works on lines of the L1 (R271, R385, log entry 113). -/
def State.atomRead (s : State) (x : Issuer) (t : Nat) (sc : Scope) (l : Loc) (n : Nat) : State × List Byte :=
  match l with
  | .sram c o => (s, s.sramBytes c o n)
  | .mem sp a nc =>
    if cached sp nc && !scopeWide sc then
      let s := s.toClusterUnit x.cl (pipeOf t) sp a
      (s, (List.range n).map fun i => vbyte (s.l1line x.cl 32 sp (a / 32)).data (a % 32 + i))
    else
      let s := s.toHomeUnit x.cl sp a
      (s.homeSeen (clDie x.cl) sp a, s.homeBytes sp a n)

/-- Write the new bytes at the executing unit (R288). -/
def State.atomWrite (s : State) (x : Issuer) (sc : Scope) (l : Loc) (bs : List Byte) : State :=
  match l with
  | .sram c o => s.sramWrite c o bs
  | .mem sp a nc =>
    if cached sp nc && !scopeWide sc then s.sharedWrite x.cl sp a bs else s.homeWrite sp a bs

/-- Atomics that execute on a peer device and find no link up (R288, R415). -/
def State.farAtomics (s : State) (sc : Scope) (rs : List (LaneAcc × Probe)) : List LaneAcc :=
  if s.linkUp || !scopeWide sc then []
  else rs.filterMap fun r => match r.2 with
    | .ok (.mem (.peer _) _ _) _ => some r.1
    | .ok _ _ | .remote _ _ | .trap _ | .park | .miss => none

/-- Host and PCIe peer addresses (R288). -/
def isPcie (l : Loc) : Bool :=
  match l with
  | .mem .host _ _ | .mem .pcie _ _ => true
  | .mem .dev _ _ | .mem (.peer _) _ _ | .sram _ _ => false

/-- One lane's indivisible step (R287): the state and the value for rd. A completer that refuses an AtomicOp leaves
memory unchanged, rd receives 0 and ATOMIC is posted (R288). The trace ring of another cluster's port takes LDAQ too for
an atomic: a choice of the model (R284, log entry 112). -/
def State.atomOne (s : State) (x : Issuer) (op : Aop) (sc : Scope) (n : Nat) (v : Vals) (a : LaneAcc) (l : Loc)
    (e : Option TlbEnt) : State × Word :=
  let s := (s.meet x l (op ≠ .ldaq)).noteTlb x.cl (pipeOf a.t) e
  match l with
  | .mem sp pa _ =>
    if isPcie l && !Config.completerAccepts sp pa s.free then
      ({ s with free := s.free + 1 }.postError x.id.wg a.t 2 a.va, 0)
    else
      let (s, bs) := s.atomRead x a.t sc l n
      let bs := match s.txOf x with
        | some y => y.overlay l bs
        | none => bs
      let old := leNat bs
      let s := match op.new n old (v.sb.toNat % 2 ^ (8 * n)) (v.sd.toNat % 2 ^ (8 * n)) with
        | none => s
        | some w => match s.txOf x with
          | some y => s.setTx x (y.redo l (leBytes n w))
          | none => s.atomWrite x sc l (leBytes n w)
      ({ s with free := s.free + 1 }, op.result n old)
  | .sram c _ =>
    let s := if c = x.cl then s else traceAdd s c x.cl a.t n (a.va.toNat % 2 ^ 19) true
    let (s, bs) := s.atomRead x a.t sc l n
    let bs := match s.txOf x with
      | some y => y.overlay l bs
      | none => bs
    let old := leNat bs
    let s := match op.new n old (v.sb.toNat % 2 ^ (8 * n)) (v.sd.toNat % 2 ^ (8 * n)) with
      | none => s
      | some w => match s.txOf x with
        | some y => s.setTx x (y.redo l (leBytes n w))
        | none => s.atomWrite x sc l (leBytes n w)
    (s, op.result n old)

/-- The lanes' steps in ascending lane order (R287). -/
def State.atoms (s : State) (x : Issuer) (op : Aop) (sc : Scope) (n : Nat) (vals : Nat → Vals) :
    List (LaneAcc × Probe) → State × List (Nat × Word)
  | [] => (s, [])
  | (a, p) :: rs =>
    match p with
    | .ok l e =>
      let (s, w) := s.atomOne x op sc n (vals a.t) a l e
      let (s, out) := State.atoms s x op sc n vals rs
      (s, (a.t, w) :: out)
    | .remote _ _ | .trap _ | .park | .miss => State.atoms s x op sc n vals rs

/-- An atomic (R286 to R288). A scope other than PIPE, QUAD and CLUSTER aborts an open transaction (R299). -/
def State.atomic (s : State) (op : Aop) (sz : Bool) (sc : Scope) (o : Ord) (rd ra rb : R5) :
    Host.Outcome State Fault Refusal :=
  s.onUnit fun x =>
    let n := if sz then 4 else 8
    let f : Fields := { a := some (.s ra), b := if op = .ldaq then none else some (.s rb)
                        c := if sc = .rect then some (.s 27) else none
                        d := if op = .cas then some (.s rd) else none, dst := some (.s rd) }
    let rel := o = .rel || o = .ar
    let acq := o = .acq || o = .ar
    if x.u.tx.isSome && scopeWide sc then s.abortExplicit x
    else match s.gate x f with
      | .stop s' => s'
      | .go pt =>
        let vals := fun t => (x.w.thr t).vals f
        let as := (x.readable f).map fun t => LaneAcc.mk t (vals t).sa n
        match s.access x (if op = .ldaq then .load else .atomic) true as (some (scopeWide sc)) with
        | .stop s' => s'
        | .traps ts => s.trapLanes x false (mergeTraps x.active pt ts)
        | .go rs =>
          let bad := rs.filterMap fun r => match r.2 with
            | .ok l _ => if isPcie l && !op.pcie then some (r.1.t, 8, r.1.va) else none
            | .remote _ _ | .trap _ | .park | .miss => none
          if !(pt.isEmpty && bad.isEmpty) then s.trapLanes x false (mergeTraps x.active pt bad)
          else if rel && s.releaseWaits x x.active sc then s.releaseStall x sc
          else match if (s.farAtomics sc rs).isEmpty then AccRes.go rs else s.linkWait x (s.farAtomics sc rs) with
          | .stop s' => s'
          | .traps ts => s.trapLanes x false ts
          | .go rs =>
            match s.txTouch x (locsOf rs) true (op ≠ .ldaq) with
            | none => s.abortCapacity x
            | some s =>
              let lane := fun t => laneScope sc (vals t).sc
              let s := if rel then s.releaseEach x.cl x.active lane else s
              let (s, out) := (s.dropReqs x).atoms x op sc n vals rs
              let s := if acq then s.acquireEach x.cl x.active lane else s
              let s := (s.txKeep x).commit x f fun t => .ofS (((out.find? fun w => w.1 == t).map (·.2)).getD 0)
              if (portOf (.s rd)).isSome || rd = 0 then s else s.setBusy x.id.wg x.active (.s rd)

/-- AMOADD (R287). -/
def execAmoadd (sz : Bool) (sc : Scope) (o : Ord) (rd ra rb : R5) (s : State) : Host.Outcome State Fault Refusal :=
  s.atomic .add sz sc o rd ra rb
/-- AMOAND (R287). -/
def execAmoand (sz : Bool) (sc : Scope) (o : Ord) (rd ra rb : R5) (s : State) : Host.Outcome State Fault Refusal :=
  s.atomic .and sz sc o rd ra rb
/-- AMOOR (R287). -/
def execAmoor (sz : Bool) (sc : Scope) (o : Ord) (rd ra rb : R5) (s : State) : Host.Outcome State Fault Refusal :=
  s.atomic .or sz sc o rd ra rb
/-- AMOXOR (R287). -/
def execAmoxor (sz : Bool) (sc : Scope) (o : Ord) (rd ra rb : R5) (s : State) : Host.Outcome State Fault Refusal :=
  s.atomic .xor sz sc o rd ra rb
/-- AMOMIN (R287). -/
def execAmomin (sz : Bool) (sc : Scope) (o : Ord) (rd ra rb : R5) (s : State) : Host.Outcome State Fault Refusal :=
  s.atomic .min sz sc o rd ra rb
/-- AMOMAX (R287). -/
def execAmomax (sz : Bool) (sc : Scope) (o : Ord) (rd ra rb : R5) (s : State) : Host.Outcome State Fault Refusal :=
  s.atomic .max sz sc o rd ra rb
/-- AMOMINU (R287). -/
def execAmominu (sz : Bool) (sc : Scope) (o : Ord) (rd ra rb : R5) (s : State) : Host.Outcome State Fault Refusal :=
  s.atomic .minu sz sc o rd ra rb
/-- AMOMAXU (R287). -/
def execAmomaxu (sz : Bool) (sc : Scope) (o : Ord) (rd ra rb : R5) (s : State) : Host.Outcome State Fault Refusal :=
  s.atomic .maxu sz sc o rd ra rb
/-- AMOSWAP (R287). -/
def execAmoswap (sz : Bool) (sc : Scope) (o : Ord) (rd ra rb : R5) (s : State) : Host.Outcome State Fault Refusal :=
  s.atomic .swap sz sc o rd ra rb
/-- AMOFADD (R287). -/
def execAmofadd (sz : Bool) (sc : Scope) (o : Ord) (rd ra rb : R5) (s : State) : Host.Outcome State Fault Refusal :=
  s.atomic .fadd sz sc o rd ra rb
/-- AMOCAS (R287). -/
def execAmocas (sz : Bool) (sc : Scope) (o : Ord) (rd ra rb : R5) (s : State) : Host.Outcome State Fault Refusal :=
  s.atomic .cas sz sc o rd ra rb
/-- LDAQ: an acquiring load (R286, R287). -/
def execLdaq (sz : Bool) (sc : Scope) (rd ra : R5) (s : State) : Host.Outcome State Fault Refusal :=
  s.atomic .ldaq sz sc .acq rd ra 0

/-- STRL: a releasing store (R286 to R288), for a transaction a store, as LDAQ is a load (R278, R295, log entry 106), and
one where it reaches another cluster's window (R268). -/
def execStrl (sz : Bool) (sc : Scope) (ra rb : R5) (s : State) : Host.Outcome State Fault Refusal :=
  s.onUnit fun x =>
    let n := if sz then 4 else 8
    let f : Fields := { a := some (.s ra), b := some (.s rb), c := if sc = .rect then some (.s 27) else none }
    if x.u.tx.isSome && scopeWide sc then s.abortExplicit x
    else match s.gate x f with
      | .stop s' => s'
      | .go pt =>
        let vals := fun t => (x.w.thr t).vals f
        let as := (x.readable f).map fun t => LaneAcc.mk t (vals t).sa n
        match s.access x .store false as with
        | .stop s' => s'
        | .traps ts => s.trapLanes x false (mergeTraps x.active pt ts)
        | .go rs =>
          let bad := rs.filterMap fun r => match r.2 with
            | .ok l _ => if isPcie l then some (r.1.t, 8, r.1.va) else none
            | .remote _ _ | .trap _ | .park | .miss => none
          if !(pt.isEmpty && bad.isEmpty) then s.trapLanes x false (mergeTraps x.active pt bad)
          else if s.releaseWaits x x.active sc then s.releaseStall x sc
          else if x.remoteFull rs then s.stall
          else match s.txTouch x (locsOf rs) false true with
            | none => s.abortCapacity x
            | some s =>
              let s := s.releaseEach x.cl x.active fun t => laneScope sc (vals t).sc
              let batch := s.nextId
              let one := fun (s : State) (r : LaneAcc × Probe) =>
                let bs := leBytes n (vals r.1.t).sb.toNat
                match r.2 with
                | .ok l e =>
                  if !s.linkUp && (s.needsLink x r.1 r.2 || (s.farAtomics sc [r]).isEmpty = false) then match l with
                    | .mem sp pa _ => (if scopeWide sc then s.toHomeUnit x.cl sp pa else s).linkStore x batch r.1 sp pa bs
                    | .sram _ _ => s
                  else
                    let s := (s.meet x l true).noteTlb x.cl (pipeOf r.1.t) e
                    match s.txOf x with
                    | some y => s.setTx x (y.redo l bs)
                    | none => (s.atomRead x r.1.t sc l n).1.atomWrite x sc l bs
                | .remote _ _ | .trap _ | .park | .miss => s.storeOne x true batch r.1 r.2 bs
              (((rs.foldl one s).storeFlag x batch rs).txKeep x).commit x f fun _ => {}

-- Fences (R290 to R292).

/-- FENCE (R290): a first kind of stores performs the release of R279 at the scope, a second kind of loads the
acquire. Bits of `kinds` from 4 down: ENG SS SL LS LL. The rectangle register is read in each lane. -/
def execFence (sc : Scope) (kinds : BitVec 5) (io : Bool) (ra : R5) (s : State) : Host.Outcome State Fault Refusal :=
  s.onUnit fun x =>
    let rel := kinds.getLsbD 4 || kinds.getLsbD 3 || kinds.getLsbD 2 || io
    let acq := kinds.getLsbD 4 || kinds.getLsbD 2 || kinds.getLsbD 0
    let f : Fields := { a := if sc = .rect then some (.s ra) else none }
    if x.u.tx.isSome then s.abortExplicit x
    else match s.gate x f with
      | .stop s' => s'
      | .go pt =>
        if !pt.isEmpty then s.trapLanes x false pt
        else if rel && s.releaseWaits x x.live sc then s.releaseStall x sc
        else
          let lane := fun t => laneScope sc ((x.w.thr t).vals f).sa
          let s := if rel then s.releaseEach x.cl x.live lane else s
          let s := if acq then s.acquireEach x.cl x.live lane else s
          (s.popAll x f).retire x

/-- IFENCE (R291): earlier stores reach their home slices or SRAM ports, then the cluster's cached instruction words
go. -/
def execIfence (s : State) : Host.Outcome State Fault Refusal :=
  s.onUnit fun x =>
    if x.u.tx.isSome then s.abortExplicit x
    else if s.releaseWaits x x.live .system then s.releaseStall x .system
    else ((s.release x.cl x.live .system).modCl x.cl fun cl => { cl with icache := [] }).retire x

/-- Whether some flag of a mask is set in some of the threads (R75). -/
def Issuer.flagSet (x : Issuer) (mask : BitVec 12) : Bool :=
  x.live.any fun t => (List.range 12).any fun i => mask.getLsbD i && mget 0 (x.w.thr t).cf i ≠ 0

/-- WAITF (R75, R292). -/
def execWaitf (mask : BitVec 12) (s : State) : Host.Outcome State Fault Refusal :=
  s.onUnit fun x =>
    if x.u.tx.isSome then s.abortExplicit x
    else if x.flagSet mask then s.stall
    else s.retire x

/-- Clocks of a number of microseconds at the running rate (R4, R420). -/
def State.usClocks (s : State) (us : Nat) : Nat := us * s.rateKHz / 1000

/-- ACQH (R56, R293): marks the unit critical for 200 µs at most; on a critical unit it changes nothing. -/
def execAcqh (s : State) : Host.Outcome State Fault Refusal :=
  s.onUnit fun x =>
    if x.u.tx.isSome then s.abortExplicit x
    else (s.modSh x fun h => { h with crit := some (h.crit.getD (s.clock + s.usClocks 200)) }).retire x

/-- RELH (R56, R293). -/
def execRelh (s : State) : Host.Outcome State Fault Refusal :=
  s.onUnit fun x =>
    if x.u.tx.isSome then s.abortExplicit x
    else (s.modSh x fun h => { h with crit := none }).retire x

/-- CRIT_EXPIRY: 200 µs after its ACQH a critical mark ends, without a trap (R56). -/
def execCritExpiry (wg t : Nat) (s : State) : Host.Outcome State Fault Refusal :=
  .next <|
    match s.wg? wg with
    | none => s
    | some w =>
      match (w.ust t).sh.crit with
      | none => s
      | some d => if d ≤ s.clock then s.modUnit wg t fun u => { u with sh := { u.sh with crit := none } } else s

-- Transactions (R294 to R300).

/-- TXBEGIN (R294): the checkpoint, which reads every register and waits for each that is pending (R76), an acquire at
CLUSTER scope, and 0 to s[rd]. A transaction already open aborts with NEST (R297). -/
def execTxbegin (rd : R5) (s : State) : Host.Outcome State Fault Refusal :=
  s.onUnit fun x =>
    let f : Fields := { dst := some (.s rd) }
    if x.u.tx.isSome then s.txAbort x.id.wg x.id.t (abortStatus 7 0 0)
    else match s.gate x f with
      | .stop s' => s'
      | .go pt =>
        if !pt.isEmpty then s.trapLanes x false pt
        else if x.pending then s.stall
        else
          let y : Tx := { rd := rd, regs := x.live.map fun t => (t, (x.w.thr t).r), k := x.u.sh.k, fcsr := x.u.sh.fcsr
                          active := match x.grp with
                            | some g => g.active
                            | none => 1
                          stack := match x.grp with
                            | some g => g.stack
                            | none => []
                          low := match x.grp with
                            | some g => g.low
                            | none => 0
                          pc := x.pc + 4 }
          let s := s.acquire x.cl x.active .cluster
          (s.commit x f fun _ => {}).modU x fun u => { u with tx := some y }

/-- Bytes kept by address: one write for each sector of a list, and the others byte by byte. -/
def sectorRuns (full : List Nat) (m : Map Byte) : List (Nat × List Byte) :=
  (full.map fun k => (32 * k, (List.range 32).map fun i => mget 0 m (32 * k + i))) ++
    (m.filter fun b => !full.contains (b.1 / 32)).map fun b => (b.1, [b.2])

/-- Make a transaction's buffered bytes visible in the cluster at once (R300), as stores of a pipe. A sector of which
one store wrote all bytes gets a new check (R302). -/
def State.txPublish (s : State) (x : Issuer) (y : Tx) : State :=
  let full := fun (sram : Bool) => ((y.whole.filter fun l => l.sram == sram).map (·.n)).eraseDups
  let s := (sectorRuns (full true) y.redoSram).foldl (fun s b => s.sramWrite x.cl b.1 b.2) s
  (sectorRuns (full false) y.redoMem).foldl (fun s b => s.memWrite x.cl (pipeOf x.id.t) true .dev b.1 b.2 false) s

/-- Add the transaction's changes of a table's counts (R262). -/
def KtTable.bump (k : KtTable) (d : Int × Int × Int) : KtTable :=
  { k with used := (k.used + d.1).toNat, live := (k.live + d.2.1).toNat, tomb := (k.tomb + d.2.2).toNat }

/-- TXEND (R300): commits, as a release at CLUSTER scope; without a transaction it has no effect. A transaction that
something has doomed aborts instead. -/
def execTxend (s : State) : Host.Outcome State Fault Refusal :=
  s.onUnit fun x =>
    match x.u.tx with
    | none => s.retire x
    | some y =>
      match y.doomed with
      | some st => s.txAbort x.id.wg x.id.t st
      | none =>
        let s := s.txPublish x y
        let s := s.modWg x.id.wg fun w => { w with kt := (w.kt.zip y.ktd).map fun k => k.1.bump k.2 }
        let s := s.release x.cl (x.live.take 1) .cluster
        let s := s.modThrs x.id.wg x.live fun _ th =>
          { th with storeFlags := th.storeFlags.map fun r => { r with inTx := false } }
        (s.modU x fun u => { u with tx := none, txLast := 0 }).retire x

/-- TXABORT (R298, R300); without a transaction it has no effect. -/
def execTxabort (code : BitVec 8) (s : State) : Host.Outcome State Fault Refusal :=
  s.onUnit fun x =>
    match x.u.tx with
    | none => s.retire x
    | some _ => s.txAbort x.id.wg x.id.t (abortStatus 5 code.toNat 0)

/-- TXSTAT (R300). -/
def execTxstat (rd : R5) (s : State) : Host.Outcome State Fault Refusal :=
  s.scalar0 rd fun x _ => x.u.txLast.setWidth 64 ||| (if x.u.tx.isSome then 0x100000000 else 0)

/-- TX_ABORT: a transaction that something has doomed aborts (R297, R298). -/
def execTxAbort (wg t : Nat) (s : State) : Host.Outcome State Fault Refusal :=
  .next <|
    match s.wg? wg with
    | none => s
    | some w =>
      match (w.ust t).tx with
      | none => s
      | some y => match y.doomed with
        | some st => s.txAbort wg t st
        | none => s

end Sys2Proof.Machine
end

