-- ==== Sys2Proof/Machine/Faults.lean ====
section
/-!
DEFINITION. Translation and parked faults: TLB entries (R195, R382), the walk (R383 to R386), fault records (R387 to
R389) and the answers to tickets (R390).
-/

namespace Sys2Proof.Machine

-- TLB entries.

/-- Put an entry into a cluster's TLB: it replaces those of the same page, whatever their sizes, and the copies in the
micro-TLBs go (R195). 128 sets of 4 ways; a full set gives up its oldest entry (R382). -/
def Cluster.tlbPut (cl : Cluster) (e : TlbEnt) : Cluster :=
  let same := fun (x : TlbEnt) => x.meets e
  let rest := cl.tlb.filter fun x => !same x
  let set := rest.filter fun x => x.vpn % 128 == e.vpn % 128
  let out := if 4 ≤ set.length then set.getLast? else none
  { cl with
    tlb := e :: rest.filter fun x => some x ≠ out
    utlb := cl.utlb.map fun u => (u.1, u.2.filter fun x => !same x) }

/-- Remove entries that satisfy a condition from a cluster's TLB and micro-TLBs (R196). -/
def Cluster.tlbDrop (cl : Cluster) (p : TlbEnt → Bool) : Cluster :=
  { cl with tlb := cl.tlb.filter fun e => !p e, utlb := cl.utlb.map fun u => (u.1, u.2.filter fun e => !p e) }

/-- Whether an entry's zero fields and permissions break R385, at a level; `dom` is the number of devices of the
domain. -/
def malformed (dom level : Nat) (e : Word) : Bool :=
  let x := e.toNat
  let mem := nbits x 9 8
  nbits x 63 60 ≠ 0 || (nbits x 59 52 ≠ 0 && mem ≠ 1) ||
  (if nbit x 1 then
    level = 3 || (nbit x 3 && !nbit x 2) || (level = 2 && nbits x 29 12 ≠ 0) || (level = 1 && nbits x 20 12 ≠ 0) ||
      (mem = 1 && dom ≤ nbits x 59 52)
  else level = 0 || nbits x 11 2 ≠ 0 || nbits x 59 52 ≠ 0)

/-- The index of an address in a table of a level (R384). -/
def tableIndex (va : Word) (level : Nat) : Nat :=
  if level = 3 then nbits va.toNat 56 39 else nbits va.toNat (20 + 9 * level) (12 + 9 * level)

/-- An entry of a table, read at its home (R386). -/
def State.pte (s : State) (table va : Nat) (level : Nat) : Word :=
  w64 (leNat (s.homeBytes .dev (table + 8 * tableIndex (w64 va) level) 8))

/-- What a walk finds: a leaf with its level, or a failure and whether a malformed entry caused it. -/
inductive Walk where
  | leaf (level : Nat) (e : Word)
  | fail (malformed : Bool)
  deriving DecidableEq, Repr

/-- The walk from a table of level n − 1 on (R384 to R386). -/
def State.walkFrom (s : State) (va : Word) : Nat → Nat → Walk
  | 0, _ => .fail false
  | n + 1, table =>
    let e := s.pte table va.toNat n
    if !nbit e.toNat 0 then .fail false
    else if malformed s.domSize n e then .fail true
    else if nbit e.toNat 1 then .leaf n e
    else State.walkFrom s va n (leafPa e)

/-- Where the leaf entry for an address lies (R384). -/
def State.leafAddr (s : State) (va : Word) : Nat → Nat → Option Nat
  | 0, _ => none
  | n + 1, table =>
    let e := s.pte table va.toNat n
    if !nbit e.toNat 0 then none
    else if nbit e.toNat 1 then some (table + 8 * tableIndex va n)
    else State.leafAddr s va n (leafPa e)

/-- The leaf entry for an address of a context. -/
def State.leafOf (s : State) (ctx : Nat) (va : Word) : Option Nat :=
  s.leafAddr va 4 (nbits (s.ctx ctx).ptroot.toNat 51 21 * 2 ^ 21)

/-- The entry that maps the page of an address, or could: its level and its address. It is the larger leaf or the level-0
entry that a walk reaches; none where a table on the way is missing (R384). -/
def State.slotFor (s : State) (va : Word) : Nat → Nat → Option (Nat × Nat)
  | 0, _ => none
  | n + 1, table =>
    let e := s.pte table va.toNat n
    if n = 0 then some (0, table + 8 * tableIndex va 0)
    else if !nbit e.toNat 0 || malformed s.domSize n e then none
    else if nbit e.toNat 1 then some (n, table + 8 * tableIndex va n)
    else State.slotFor s va n (leafPa e)

/-- The attributes of a leaf: everything but its address. -/
def leafAttr (e : Word) : Word := e &&& ~~~0x000FFFFFFFFFF000

/-- A level-0 leaf of a CONTIG group: where the group disagrees, the entry of a member that nothing fixes translates, for
its own context alone, so that an access reaches no frame that the context's own entries do not name, and no other
context's accesses go by it (R16, R385). -/
def State.contigLeaf (s : State) (va : Word) (e : Word) (entryAt : Nat → Word) : Word :=
  let i := tableIndex va 0 % 16
  let agrees := (List.range 16).all fun j =>
    leafAttr (entryAt j) = leafAttr e && leafPa (entryAt j) + 4096 * i = leafPa e + 4096 * j
  if !nbit e.toNat 7 || agrees then e else entryAt (Config.contigPick s.free % 16) &&& ~~~0x40

/-- A walk for an address of a context (R384 to R386). -/
def State.walk (s : State) (ctx : Nat) (va : Word) : Walk :=
  let root := (s.ctx ctx).ptroot.toNat
  if !nbit root 0 then .fail false
  else match s.walkFrom va 4 (nbits root 51 21 * 2 ^ 21) with
    | .fail m => .fail m
    | .leaf 0 e =>
      if nbit e.toNat 7 then
        -- the table that holds the entry, and its group of 16
        let l3 := s.pte (nbits root 51 21 * 2 ^ 21) va.toNat 3
        let l2 := s.pte (leafPa l3) va.toNat 2
        let l1 := s.pte (leafPa l2) va.toNat 1
        let base := leafPa l1 + 8 * (tableIndex va 0 / 16 * 16)
        let x := s.contigLeaf va e fun j => w64 (leNat (s.homeBytes .dev (base + 8 * j) 8))
        if nbit x.toNat 0 && !malformed s.domSize 0 x then .leaf 0 x else .fail true
      else .leaf 0 e
    | .leaf (n + 1) e => .leaf (n + 1) e

/-- The group of the level-0 entry at an address is a CONTIG group no more: its pages translate one by one (R385). -/
def State.contigOff (s : State) (at' : Nat) : State :=
  let group := at' / 128 * 128
  (List.range 16).foldl (fun s j =>
    let old := w64 (leNat (s.homeBytes .dev (group + 8 * j) 8))
    s.homeWrite .dev (group + 8 * j) (leBytes 8 (old &&& ~~~0x80).toNat)) s

/-- The translations of some pages go everywhere: from TLBs, micro-TLBs, the I/O-die TLBs and the accesses that have
walked and wait to retry. -/
def State.forget (s : State) (gone : TlbEnt → Bool) : State :=
  let s : State := { s with
    clusters := s.clusters.map fun (c : Nat × Cluster) => (c.1, c.2.tlbDrop gone)
    ioTlb := s.ioTlb.map fun (e : Nat × List TlbEnt) => (e.1, e.2.filter fun t => !gone t) }
  (s.clusters.map (·.1)).foldl (fun s c => s.dropWalked c gone) s

/-- The addresses of the entries that a walk reads, from a table of level n − 1 on (R384). -/
def State.walkPath (s : State) (va : Word) : Nat → Nat → List Nat
  | 0, _ => []
  | n + 1, table =>
    let at' := table + 8 * tableIndex va n
    let e := s.pte table va.toNat n
    at' :: (if !nbit e.toNat 0 || malformed s.domSize n e then []
      else if nbit e.toNat 1 then
        (if n = 0 && nbit e.toNat 7 then (List.range 16).map fun j => at' / 128 * 128 + 8 * j else [])
      else State.walkPath s va n (leafPa e))

/-- What a walk does beside reading: the reads of its entries count for the epoch of their pages (R274). -/
def State.walkSeen (s : State) (die ctx : Nat) (va : Word) : State :=
  let root := (s.ctx ctx).ptroot.toNat
  if !nbit root 0 then s
  else (s.walkPath va 4 (nbits root 51 21 * 2 ^ 21)).foldl (fun s a => s.homeSeen die .dev a) s

/-- The transactions of a cluster that have written a line which a walk of one of its agents reads meet a conflict
(R296). -/
def State.walkMeets (s : State) (c ctx : Nat) (va : Word) : State :=
  let root := (s.ctx ctx).ptroot.toNat
  if !nbit root 0 then s
  else (s.walkPath va 4 (nbits root 51 21 * 2 ^ 21)).foldl (fun s a => s.conflict c none false ⟨false, a / 32⟩) s

/-- The entry by which an engine translates an address (R382): the one that its TLB holds, else what a walk finds. -/
def State.engineEnt (s : State) (held : Option TlbEnt) (ctx : Nat) (va : Word) : Option TlbEnt :=
  match held with
  | some e => some e
  | none => match s.walk ctx va with
    | .leaf level e => some ⟨ctx, level, vpnOf va level, e⟩
    | .fail _ => none

/-- An engine's translation of an address. `pr` is the level of the thread that pushed the command. -/
def State.engineLoc (s : State) (held : Option TlbEnt) (ctx : Nat) (pr : Priv) (k : Access) (va : Word) : Option Loc :=
  (s.engineEnt held ctx va).bind fun e => if leafAllows e.leaf pr k then e.loc s.devNum va else none

/-- Whether an access still waits for its walk: its thread stands at the instruction, neither parked nor exited. -/
def Workgroup.waits (w : Workgroup) (v : Waiter) : Bool :=
  (mfind w.threads v.t).isSome && !(w.thr v.t).exited && !(w.thr v.t).dying && (w.thr v.t).park.isNone && (w.ust v.t).pc == v.pc

/-- TRANSLATION_WALK: the translation-service pipe serves an entry of the merge table (R383). A leaf goes into the TLB
and to the joined accesses, which retry. A walk that fails parks the waiting split threads under one ticket (R387); a
transaction among them aborts with TRAP and is part of no record (R298). A lane of a group parks as its group issues
again, when every lane's cause is known (R51); until the first thread is parked, the entry has no ticket and can be
walked again. -/
def execTranslationWalk (cluster entry : Nat) (s : State) : Host.Outcome State Fault Refusal :=
  .next <|
    match (s.cl cluster).merge[entry]? with
    | none => s
    | some m =>
      if m.ticket.isSome then s
      else
        let va := w64 (m.vpn * 4096)
        let drop := fun (s : State) => s.modCl cluster fun cl => { cl with merge := cl.merge.eraseIdx entry }
        let walk := s.walk m.ctx va
        let s := (s.walkSeen (clDie cluster) m.ctx va).walkMeets cluster m.ctx va
        let live := m.waiters.filter fun v => match s.wg? v.wg with
          | some w => w.waits v
          | none => false
        match walk with
        | .leaf level e =>
          let k : TlbEnt := ⟨m.ctx, level, vpnOf va level, e⟩
          let s := drop ({ s with free := s.free + 1 }.modCl cluster fun cl => cl.tlbPut k)
          live.foldl (fun s v => s.modUnit v.wg v.t fun u => { u with walked := k :: u.walked }) s
        | .fail mal =>
          let inTx := fun (v : Waiter) => match s.wg? v.wg with
            | some w => (w.ust v.t).tx.isSome
            | none => false
          let s := (live.filter inTx).foldl (fun s v => s.txAbort v.wg v.t (abortStatus 3 0 v.cause)) s
          let left := live.filter fun v => !inTx v
          if left.isEmpty then drop s
          else
            let s := s.modCl cluster fun cl => { cl with
              merge := cl.merge.set entry { m with waiters := left, failed := some mal } }
            left.foldl (fun s v => match s.wg? v.wg with
              | some w => if (w.groupOf v.t).isSome then s else s.takeTrap v.wg v.t false v.cause v.va v.pc
              | none => s) s

/-- The bytes of a fault record (R388). -/
def FaultRec.bytes (r : FaultRec) : List Byte :=
  leBytes 8 r.va.toNat ++ leBytes 8 r.pc.toNat ++ leBytes 4 r.ticket ++ leBytes 2 r.ctx ++ leBytes 1 r.cause ++
    leBytes 1 ((if r.malformed then 1 else 0) + (if r.fused then 2 else 0)) ++ leBytes 1 r.x ++ leBytes 1 r.y ++
    leBytes 1 r.colPipe ++ leBytes 5 0

/-- FAULT_RECORD_POST: the first waiting record is written when the ring has room, TAIL rises, and the semaphore is
signalled (R389). -/
def execFaultRecordPost (s : State) : Host.Outcome State Fault Refusal :=
  .next <|
    match s.faults with
    | [] => s
    | r :: rest =>
      if !s.fqEn || 2 ^ s.fqLog2n ≤ (s.fqTail - s.fqHead).toNat then s
      else
        let at' := s.fqbase.toNat + 32 * (s.fqTail.toNat % 2 ^ s.fqLog2n)
        let s := { s.homeWrite .dev at' r.bytes with fqTail := s.fqTail + 1, faults := rest }
        s.semAdd (((s.ctx 0).semBase + s.fqSem) % 4096) 1

-- Answers (R390).

/-- The threads parked under a ticket. -/
def State.parkedUnder (s : State) (ticket : Nat) : List (Nat × Nat) :=
  s.wgs.flatMap fun w => (w.threads.filter fun e => match e.2.park with
    | some p => p.ticket == ticket
    | none => false).map fun e => (w.id, e.1)

/-- Whether a ticket is waiting for an answer. -/
def State.ticketOpen (s : State) (ticket : Nat) : Bool :=
  s.clusters.any fun c => c.2.merge.any fun m => m.ticket == some ticket

/-- The entry of an answered ticket is freed. -/
def State.closeTicket (s : State) (ticket : Nat) : State :=
  { s with clusters := s.clusters.map fun c =>
      (c.1, { c.2 with merge := c.2.merge.filter fun m => m.ticket ≠ some ticket }) }

/-- What each answer does to a parked thread. -/
inductive FAct where
  | retry | kill | deliver
  deriving DecidableEq, Repr

/-- A write to FRESP (R390). -/
def State.fresp (s : State) (act : FAct) (ticket : BitVec 32) : State :=
  let k := ticket.toNat
  if !s.ticketOpen k then s.logError 5 0 k 0
  else
    let one := fun (s : State) (p : Nat × Nat) =>
      match (s.thr p.1 p.2).park, s.wg? p.1 with
      | some f, some w =>
        let s := s.modThr p.1 p.2 fun th => { th with park := none }
        match act with
        | .retry => s
        | .kill => s.killThread p.1 p.2
        | .deliver => (s.modThr p.1 p.2 Thread.waitsOver).enterS p.1 p.2 f.fused f.cause f.va (w.ust p.2).pc (s.ctx w.ctx).stvec
      | _, _ => s
    (s.parkedUnder k).foldl one (s.closeTicket k)

end Sys2Proof.Machine
end

