-- ==== Sys2Proof/Machine/Image.lean ====
section
/-!
DEFINITION. The thread image of R396, as CTXSV, CTXLD (R197) and pre-emption write and read it, and the checks of R397.
-/

namespace Sys2Proof.Machine

/-- A field of bytes. -/
def bfield (b : List Byte) (off n : Nat) : Nat := leNat ((b.drop off).take n)

/-- The size code of a fused size (R102). -/
def fszCode : FSize → Nat
  | .f8 => 1
  | .f16 => 2
  | .f32 => 3

/-- The fused size of a nonzero code. -/
def fszOf (n : Nat) : FSize := if n = 1 then .f8 else if n = 2 then .f16 else .f32

/-- The level's code in STATUS (R101). -/
def privCode : Priv → Nat
  | .u => 0
  | .s => 1

def bnat (b : Bool) : Nat := if b then 1 else 0

/-- STATUS (R101) of an issue state; `rj` says whether the thread holds a rejoin record. -/
def UState.status (u : UState) (rj : Bool) : Nat :=
  1024 * privCode u.sh.priv + 512 * bnat u.tx.isSome + 256 * bnat u.sh.crit.isSome + 128 * bnat rj +
    4 * bnat u.sh.kdivtrap + 2 * bnat u.sh.kdiff + bnat u.sh.kdiv

/-- SPREV (R381). -/
def Thread.sprev (th : Thread) : Nat := 8 * bnat th.uhnd + 4 * bnat th.shnd + th.ppriv.toNat

/-- PORTCFG (R108). -/
def Port.cfg (p : Port) : Nat :=
  4 * bnat p.wrap + (match p.topo with
    | .off => 0
    | .lane => 1
    | .cluster => 2
    | .die => 3)

/-- The four ports of a thread in the order of their codes. -/
def Four.list {α : Type} (f : Four α) : List α := [f.n, f.e, f.s, f.w]

/-- Microseconds of a number of clocks, rounded up. -/
def State.clocksUs (s : State) (n : Nat) : Nat := (n * 1000 + s.rateKHz - 1) / s.rateKHz

/-- What an image takes from a thread: the thread, the issue state whose shared registers the image holds (none where the
image is a group member's and not its leader's), and the group. -/
structure ImageSrc where
  th : Thread
  u : Option UState
  grp : Option Group
  task : Bool := false

/-- The image's source for a thread of a workgroup (R396). -/
def Workgroup.imageSrc (w : Workgroup) (t : Nat) : ImageSrc :=
  match w.groupOf t with
  | some g => { th := w.thr t, u := if g.t0 = t then some g.u else none, grp := some g }
  | none => { th := w.thr t, u := some (w.thr t).u, grp := none, task := 128 ≤ t }

/-- A stack entry of an image. -/
def stackBytes (e : StackEnt) : List Byte :=
  leBytes 8 e.pc.toNat ++ leBytes 4 e.mask.toNat ++ leBytes 4 (if e.join then 1 else 2)

/-- The bytes of an outgoing buffer: its value's, or zeros. -/
def bufBytes {α : Type} (n : Nat) (enc : α → List Byte) (o : Option (α × Option FlagRef)) : List Byte :=
  match o with
  | some (x, _) => enc x
  | none => zeroBytes n

/-- The bytes of the image (R396) at a clock. The time already waited is rounded up, and 1 at least, so that an image
says whether its thread was in a watched wait: a choice of the model (log entry 97). A low-occupancy count past 65,535
(R49) is taken modulo 65,536, a choice of the model (log entry 103). -/
def State.imageBytes (s : State) (i : ImageSrc) : List Byte :=
  let th := i.th
  let u := i.u.getD {}
  let own := i.u.isSome
  let lead := match i.grp with
    | some g => if own then some g else none
    | none => none
  let sh := u.sh
  let w8 := fun (x : Word) => leBytes 8 x.toNat
  let ps := th.ports.list
  let num := fun (l : List Nat) => l.foldl (fun a (x : Nat) => a + x) 0
  let bits := fun (f : Port → Bool) => num (((List.range 4).zip ps).map fun p => if f p.2 then 2 ^ p.1 else 0)
  (List.range 32).flatMap (fun n => if 28 ≤ n then zeroBytes 8 else w8 (th.r.sget (BitVec.ofNat 5 n))) ++
  (List.range 32).flatMap (fun n => if 28 ≤ n then zeroBytes 32 else vbytes (th.r.vget (BitVec.ofNat 5 n))) ++
  (List.range 16).flatMap (fun n => if own then w8 (sh.kget n) else zeroBytes 8) ++
  (List.range 8).flatMap (fun n => leBytes 4 (th.r.qget n).toNat) ++
  (List.range 12).flatMap (fun n => leBytes 1 (mget 0 th.cf n)) ++ zeroBytes 4 ++
  (if own then w8 u.pc ++ leBytes 8 (u.status th.rejoin.isSome) ++ w8 sh.fcsr ++ w8 sh.trapvec else zeroBytes 32) ++
  w8 th.trappc ++ w8 th.trapval ++ w8 th.utpc ++ w8 th.utval ++ w8 th.sscratch ++
  leBytes 2 th.trapcause.toNat ++ leBytes 2 th.utcause.toNat ++ leBytes 2 (if own then sh.srseed.toNat else 0) ++
  leBytes 2 th.gen.toNat ++
  leBytes 2 (if own then sh.splitthr.toNat else 0) ++ ps.flatMap (fun p => leBytes 1 p.cfg) ++ leBytes 1 th.sprev ++
  leBytes 1 (bnat th.exited + 2 * bnat th.arrival.isSome + 4 * (match th.arrival with
    | some f => fszCode f
    | none => 0) + 16 * bnat i.task) ++
  leBytes 8 (match i.grp with
    | some g => fszCode g.f + 4 * g.base + 128 * bnat own + 256 * (if own then g.live.toNat else 0)
    | none => 0) ++
  leBytes 8 (match lead with
    | some g => g.active.toNat + 2 ^ 32 * (g.low % 2 ^ 16) + 2 ^ 48 * g.stack.length
    | none => 0) ++
  leBytes 8 ((match if own then sh.crit else none with
    | some d => s.clocksUs (d - s.clock) % 2 ^ 32
    | none => 0) + 2 ^ 32 * th.children) ++
  leBytes 8 (if own then u.txLast.toNat else 0) ++
  (match th.rejoin with
    | some r => w8 r.pc ++ leBytes 8 (r.live.toNat + 2 ^ 32 * r.col + 2 ^ 34 * r.base + 2 ^ 39 * fszCode r.f + 2 ^ 41)
    | none => zeroBytes 16) ++
  leBytes 8 (match if own && u.waiting = .watched then u.waitSince else none with
    | some c => min (max 1 (s.clocksUs (s.clock - c).toNat)) (2 ^ 32 - 1)
    | none => 0) ++
  padTo 128 (match lead with
    | some g => g.stack.reverse.flatMap stackBytes
    | none => []) ++
  ps.flatMap (fun p => padTo 64 (p.inS.flatMap w8)) ++
  ps.flatMap (fun p => padTo 128 (p.inV.flatMap vbytes)) ++
  ps.flatMap (fun p => bufBytes 8 w8 p.outS) ++ ps.flatMap (fun p => bufBytes 32 vbytes p.outV) ++
  ps.flatMap (fun p => leBytes 1 (p.inS.length + 16 * p.inV.length)) ++
  leBytes 1 (bits (fun p => p.outS.isSome) + 16 * bits (fun p => p.outV.isSome)) ++ zeroBytes 27 ++
  padTo 256 (th.mbox.msgs.flatMap fun m => w8 m.body ++ w8 m.hdr) ++
  padTo 64 (leBytes 8 (th.mbox.msgs.length + 256 * th.mbox.reserved + 2 ^ 16 * th.mbox.lost + 2 ^ 32 * th.mbox.refused)) ++
  padTo 128 (th.fifo.flatMap fun c => w8 c.d0 ++ w8 c.d1 ++ w8 c.d2 ++ w8 c.d3) ++
  leBytes 8 (th.fifo.length + 2 ^ 16 * (th.nextTag % 2 ^ 16)) ++ zeroBytes 944 ++
  leBytes 8 (1 + 2 ^ 16 * 0xC7A5)

/-- The first 32 bytes of the area of a workgroup of a launch (R395). -/
def LaunchRec.areaStart (c : LaunchRec) (wgid : Nat) : List Byte :=
  leBytes 8 (1 + 2 ^ 16 * 0x5A7E) ++
    leBytes 8 (c.threads + 2 ^ 8 * c.taskSlots + 2 ^ 16 * c.tiles + 2 ^ 24 * c.hb + 2 ^ 32 * c.fusion) ++
    leBytes 4 c.scratch ++ leBytes 4 c.kt ++ leBytes 8 wgid

/-- Byte ranges of an image that are zero (R396). -/
def imageZeros : List (Nat × Nat) :=
  [(0, 8), (0xE0, 32), (0x480, 128), (0x5AC, 4), (0x60D, 3), (0x623, 5), (0x63C, 4), (0xA65, 27),
   (0xB86, 58), (0xC44, 4), (0xC41, 1), (0xC48, 944), (0xFFC, 4)]

/-- Bit ranges of image doublewords that are zero: offset, high bit, low bit. Those of the doubleword at 0xC40 are a
choice of the model: R396 lists its other fields and does not call them zero (log entry 110). -/
def imageZeroBits : List (Nat × Nat × Nat) :=
  [(0x600, 63, 61), (0x610, 63, 52), (0x618, 63, 45), (0x630, 63, 42),
   (0xB80, 7, 5), (0xB80, 15, 13), (0xC40, 15, 3), (0xC40, 63, 32)]

/-- Whether an image passes the checks of R397. A stack entry below the depth has kind 1 or 2 (R396): kinds 3 to 255 are
rejected as kind 0 is, a choice of the model, since R397 names kind 0 alone; so are the bounds of the FIFO, the child
count and the stack depth, since R397 cites the capacities of R72, R227 and R339 (log entry 110). -/
def imageOk (b : List Byte) : Bool :=
  let f := bfield b
  let depth := nbits (f 0x610 8) 51 48
  f 0xFF8 8 = 1 + 2 ^ 16 * 0xC7A5 &&
  (imageZeros.all fun r => f r.1 r.2 = 0) && (imageZeroBits.all fun r => nbits (f r.1 8) r.2.1 r.2.2 = 0) &&
  f 0x5B0 8 % 4 = 0 && f 0x5D0 8 % 4 = 0 && f 0x5E0 8 % 4 = 0 &&
  nbits (f 0x5B8 8) 11 10 < 2 && nbits (f 0x606 1) 1 0 < 2 &&
  nbits (f 0x608 8) 1 0 = 0 && nbits (f 0x607 1) 1 0 = 0 &&
  ((List.range 12).all fun i => f (0x5A0 + i) 1 < 64) &&
  ((List.range 4).all fun d => nbits (f (0xA60 + d) 1) 3 0 ≤ 8 && nbits (f (0xA60 + d) 1) 6 4 ≤ 4) &&
  nbits (f 0xB80 8) 4 0 + nbits (f 0xB80 8) 12 8 ≤ 16 && nbits (f 0xC40 8) 2 0 ≤ 4 &&
  nbits (f 0x618 8) 44 32 ≤ 4096 && depth ≤ 8 &&
  ((List.range 8).all fun e =>
    if e < depth then f (0x640 + 16 * e + 12) 4 = 1 || f (0x640 + 16 * e + 12) 4 = 2 else f (0x640 + 16 * e) 16 = 0)

/-- The topology of a PORTCFG code (R108). -/
def topoOf (n : Nat) : Topo := if n = 0 then .off else if n = 1 then .lane else if n = 2 then .cluster else .die

/-- A direction's port from an image. -/
def imagePort (b : List Byte) (d : Nat) : Port :=
  let f := bfield b
  let cfg := f (0x602 + d) 1
  let n := f (0xA60 + d) 1
  { topo := topoOf (cfg % 4)
    wrap := nbit cfg 2
    inS := (List.range (nbits n 3 0)).map fun i => w64 (f (0x6C0 + 64 * d + 8 * i) 8)
    inV := (List.range (nbits n 6 4)).map fun i => BitVec.ofNat 256 (f (0x7C0 + 128 * d + 32 * i) 32)
    outS := if nbit (f 0xA64 1) d then some (w64 (f (0x9C0 + 8 * d) 8), none) else none
    outV := if nbit (f 0xA64 1) (4 + d) then some (BitVec.ofNat 256 (f (0x9E0 + 32 * d) 32), none) else none }

/-- The registers of an image. -/
def imageRegs (b : List Byte) : LaneRegs :=
  let r := (List.range 28).foldl (fun (r : LaneRegs) n => r.sset (BitVec.ofNat 5 n) (w64 (bfield b (8 * n) 8))) {}
  let r := (List.range 28).foldl (fun (r : LaneRegs) n =>
    r.vset (BitVec.ofNat 5 n) (BitVec.ofNat 256 (bfield b (0x100 + 32 * n) 32))) r
  (List.range 8).foldl (fun (r : LaneRegs) n => r.qset n (BitVec.ofNat 32 (bfield b (0x580 + 4 * n) 4))) r

/-- The shared registers of an image; a critical mark is given its time left again. -/
def State.imageShared (s : State) (b : List Byte) : Shared :=
  let f := bfield b
  let st := f 0x5B8 8
  let h : Shared :=
    { priv := if nbits st 11 10 = 1 then .s else .u
      kdivtrap := nbit st 2, kdiff := nbit st 1, kdiv := nbit st 0
      fcsr := w64 (f 0x5C0 2) &&& 0x3FFF, srseed := BitVec.ofNat 16 (f 0x5FC 2), splitthr := BitVec.ofNat 16 (f 0x600 2)
      trapvec := w64 (f 0x5C8 8 / 4 * 4)
      crit := if f 0x618 4 = 0 then none else some (s.clock + s.usClocks (f 0x618 4)) }
  (List.range 16).foldl (fun (h : Shared) n => h.kset n (w64 (f (0x500 + 8 * n) 8))) h

/-- The mailbox of an image. -/
def imageMbox (b : List Byte) : Mailbox :=
  let f := bfield b
  let c := f 0xB80 8
  { msgs := (List.range (nbits c 4 0)).map fun i =>
      { body := w64 (f (0xA80 + 16 * i) 8), hdr := w64 (f (0xA88 + 16 * i) 8) }
    reserved := nbits c 12 8, lost := nbits c 31 16, refused := nbits c 47 32 }

/-- The command FIFO of an image: each command's tag counts back from the next tag. -/
def imageFifo (b : List Byte) : List Cmd :=
  let f := bfield b
  let n := nbits (f 0xC40 8) 2 0
  let tag := nbits (f 0xC40 8) 31 16
  (List.range n).map fun i =>
    { d0 := w64 (f (0xBC0 + 32 * i) 8), d1 := w64 (f (0xBC8 + 32 * i) 8), d2 := w64 (f (0xBD0 + 32 * i) 8)
      d3 := w64 (f (0xBD8 + 32 * i) 8), tag := (tag + 2 ^ 16 + i - n) % 2 ^ 16
      priv := if nbits (f 0x5B8 8) 11 10 = 1 then .s else .u }

/-- The parts of a thread that an image holds, put into a thread. Reserved bits of its registers are dropped (R11, R107).
The image's TASK bit is not looked at: whether the thread is a task stays with its own slot, a choice of the model, since
R397 does not reject a differing bit and no rule says what it does (log entry 110). -/
def State.imageThread (s : State) (b : List Byte) (th : Thread) : Thread :=
  let f := bfield b
  let x := f 0x607 1
  let rj := f 0x630 8
  { th with
    r := imageRegs b
    cf := (List.range 12).foldl (fun (m : Map Nat) n => mset 0 m n (f (0x5A0 + n) 1)) []
    u := { th.u with pc := pcOf (f 0x5B0 8), sh := s.imageShared b, txLast := BitVec.ofNat 24 (f 0x620 3)
                     clause := none, tx := none
                     waiting := if f 0x638 4 = 0 then .none else .watched
                     waitSince := if f 0x638 4 = 0 then none else some ((s.clock : Int) - s.usClocks (f 0x638 4)) }
    gen := BitVec.ofNat 16 (f 0x5FE 2)
    trapcause := w64 (f 0x5F8 2 % 512), trappc := pcOf (f 0x5D0 8), trapval := w64 (f 0x5D8 8)
    utcause := w64 (f 0x5FA 2 % 512), utpc := pcOf (f 0x5E0 8), utval := w64 (f 0x5E8 8), sscratch := w64 (f 0x5F0 8)
    uhnd := nbit (f 0x606 1) 3, shnd := nbit (f 0x606 1) 2, ppriv := BitVec.ofNat 2 (f 0x606 1)
    ports := ⟨imagePort b 0, imagePort b 1, imagePort b 2, imagePort b 3⟩
    mbox := imageMbox b, fifo := imageFifo b, nextTag := nbits (f 0xC40 8) 31 16
    children := nbits (f 0x618 8) 44 32
    exited := nbit x 0, arrival := if nbit x 1 then some (fszOf (nbits x 3 2)) else none
    rejoin := if nbit rj 41 then
        some ⟨nbits rj 33 32, nbits rj 38 34, fszOf (nbits rj 40 39), BitVec.ofNat 32 rj, pcOf (f 0x628 8)⟩
      else none }

/-- A group from its leader's image (R36, R396). -/
def imageGroup (b : List Byte) (t : Nat) (u : UState) : Option Group :=
  let f := bfield b
  let x := f 0x608 8
  if nbits x 1 0 = 0 || !nbit x 7 then none
  else
    let entry := fun (i : Nat) =>
      let o := 0x640 + 16 * i
      ({ join := f (o + 12) 4 = 1, pc := pcOf (f o 8), mask := BitVec.ofNat 32 (f (o + 8) 4) } : StackEnt)
    let m := f 0x610 8
    some { col := t / 32, base := nbits x 6 2, f := fszOf (nbits x 1 0), live := BitVec.ofNat 32 (nbits x 39 8)
           active := BitVec.ofNat 32 m, stack := ((List.range (nbits m 51 48)).map entry).reverse
           low := nbits m 47 32, u := u }

/-- A hardware barrier from its 40 bytes. -/
def hbOf (b : List Byte) (released : BitVec 128) : Hb :=
  let x := bfield b 32 1
  { member := BitVec.ofNat 128 (bfield b 0 16), arrived := BitVec.ofNat 128 (bfield b 16 16), valid := nbit x 0
    phase := nbit x 1, inv := nbit x 2, ens := nbit x 3, released := released }

/-- The thread as TRET would resume it at a clock from the running S handler (R197, R379). -/
def Thread.resumed (th : Thread) (free clock : Nat) : Thread :=
  let (th', pr) := th.tret th.u.sh.priv free
  { th' with u := { th'.u with
      pc := th.trappc, sh := { th'.u.sh with priv := pr.getD th.u.sh.priv }
      waiting := if th.waited = 0 then .none else .watched
      waitSince := if th.waited = 0 then none else some ((clock : Int) - th.waited) } }

/-- The thread after CTXLD: the following TRET resumes the loaded state (R197, R379). TRET takes the trap registers from
the U copies and the level from PPRIV, so the image's own UTCAUSE, UTPC, UTVAL, SHND and PPRIV have no register left: they
are dropped, a choice of the model (log entry 89). The events of flags that are pending as the image's counts replace the
thread's stay, and each takes one off the count that it then finds, a choice of the model too (log entry 110). -/
def State.loadedThread (s : State) (b : List Byte) (th : Thread) : Thread :=
  let n := s.imageThread b th
  { n with
    u := { n.u with pc := th.u.pc, waiting := .none, waitSince := none, sh := { n.u.sh with priv := .s } }
    utcause := n.trapcause, utpc := n.trappc, utval := n.trapval
    trapcause := th.trapcause, trappc := n.u.pc, trapval := th.trapval
    waited := match n.u.waitSince with
      | some c => (s.clock - c).toNat
      | none => 0
    ppriv := BitVec.ofNat 2 (privCode n.u.sh.priv), shnd := true }

end Sys2Proof.Machine
end

