-- ==== Sys2Proof/Machine/Adopt.lean ====
section
/-!
DEFINITION. Saved units that come from another device (R398, R399): the launch-queue state that system software brings
with the areas that it copies into a context's save region.
-/

namespace Sys2Proof.Machine

/-- A flag of a workgroup that moves: this device numbers what comes from another one from `n` on. -/
def FlagRef.moved (n : Nat) (f : FlagRef) : FlagRef := { f with wg := f.wg + n, half := none }

/-- A launch that moves, at a clock. A child of a task has no one left to tell of its end: tasks end before a save (R365,
R394). -/
def Launch.moved (ctx n now : Nat) (l : Launch) : Launch :=
  { l with id := l.id + n, ctx := ctx, since := now, passed := none, rect := none, parentTask := none
           parent := if l.parentTask.isSome then none else l.parent.map fun p => (p.1 + n, p.2) }

/-- A saved workgroup that moves: its area stands at an offset of the region that begins at `base`. -/
def SavedWg.moved (n base : Nat) (v : SavedWg) : SavedWg :=
  { v with id := v.id + n, area := base + v.area
           fifoFlags := v.fifoFlags.map fun e => (e.1, e.2.map fun c => (c.1.map (FlagRef.moved n), c.2)) }

/-- A saved unit that moves. -/
def SavedUnit.moved (ctx n now base : Nat) (u : SavedUnit) : SavedUnit :=
  { u with id := u.id + n, launch := u.launch + n, ctx := ctx, since := now, passed := none, rect := none, pinFail := false
           wgs := u.wgs.map (SavedWg.moved n base) }

/-- The numbers of launches, units and workgroups that a launch-queue state uses. -/
def Moved.ids (m : Moved) : List (List Nat) :=
  [m.launches.map (·.id), m.units.map (·.id), m.units.flatMap fun u => u.wgs.map (·.id)]

/-- The places of its areas, as offsets of the region. -/
def Moved.places (m : Moved) : List (Nat × Nat) := m.units.flatMap fun u => u.wgs.map fun v => (v.area, v.size)

/-- Whether a saved workgroup is one of a launch, and its area stands at its place of the region (R350, R395). -/
def State.areaStands (s : State) (base size : Nat) (l : Launch) (u : SavedUnit) (v : SavedWg) : Bool :=
  let r := l.cfg
  v.gx < r.wgx && v.gy < r.wgy && v.gz < r.wgz && v.ex = v.gx % r.ew && v.ey = v.gy % r.eh && v.size = r.areaSize &&
    v.area % 4096 = 0 && v.area + v.size ≤ size &&
    s.homeBytes .dev (base + v.area) 32 = r.areaStart (v.gx + 2 ^ 21 * v.gy + 2 ^ 42 * v.gz) &&
    s.homeBytes .dev (base + v.area + 0x428) 1 = leBytes 1 u.pinned.toNat

/-- Whether a launch-queue state fits the areas in the region: each unit belongs to one launch of it, each area stands
where it says, no two lie over each other, and none over an area of this device. -/
def State.stands (s : State) (m : Moved) : Bool :=
  let c := s.ctx m.ctx
  let base := c.svbase.toNat
  let apart := fun (a b : Nat × Nat) => a.1 + a.2 ≤ b.1 || b.1 + b.2 ≤ a.1
  let here := s.saved.flatMap fun u => u.wgs.map fun v => (v.area, v.size)
  (m.ids.all fun l => l.Nodup) && m.places.Pairwise (fun a b => apart a b) &&
    (m.places.all fun a => here.all fun b => apart (base + a.1, a.2) b) &&
    m.units.all fun u => match m.launches.find? fun l => l.id == u.launch with
      | some l => u.wgs.all (s.areaStands base c.svsize.toNat l u)
      | none => false

/-- The launches and saved units of a launch-queue state enter the device's own, under numbers of its own. -/
def State.takeMoved (s : State) (m : Moved) : State :=
  let n := s.nextId
  { s with
    nextId := n + (m.ids.flatten.foldl max 0 + 1)
    launches := s.launches ++ m.launches.map (Launch.moved m.ctx n s.clock)
    saved := s.saved ++ m.units.map (SavedUnit.moved m.ctx n s.clock (s.ctx m.ctx).svbase.toNat) }

/-- The launch-queue state that has been brought for a context is taken over, where it fits the areas that stand in its
save region (R399). That RESUME does this, and what the state says, are choices of the model (log entry 97). -/
def State.adopt (s : State) (ctx : Nat) : State :=
  match s.incoming.find? fun m => m.ctx == ctx with
  | none => s
  | some m =>
    if s.stands m then { s.takeMoved m with incoming := s.incoming.filter fun k => k.ctx ≠ ctx } else s

end Sys2Proof.Machine
end

