-- ==== Sys2Proof/Machine/Keyed.lean ====
section
/-!
DEFINITION. The keyed store (spec/11 R239 to R263): tables in the cluster scratchpad with spill buffers in memory. Each
instruction runs on a working copy of the state, so that one that traps or aborts has no effect.
-/

namespace Sys2Proof.Machine

def keyEmpty : Nat := 0xFFFFFFFF
def keyTomb : Nat := 0xFFFFFFFE
/-- User keys (R241). -/
def userKey (k : Nat) : Bool := k < keyTomb

/-- What ends a keyed instruction before it completes: a trap cause with its address, a transaction abort, or a spill
entry of a peer device that it reads and no link reaches, with its address (R415). -/
inductive KStop where
  | trap (cause : Nat) (va : Word)
  | abort (st : BitVec 24)
  | far (va : Word)
  deriving DecidableEq, Repr

/-- A keyed instruction at work: the state, the table's descriptor, the open transaction, the lane whose step runs, what
has stopped that step, and the writes of spill entries that no link takes, which are dropped (R415). -/
structure KRun where
  s : State
  k : KtTable
  y : Option Tx
  lane : Nat := 0
  stop : Option KStop := none
  lost : List LaneAcc := []

/-- A table as the unit sees it: inside a transaction with the counts that its own steps have changed (R262). -/
def Issuer.table (x : Issuer) (kt : BitVec 2) : KtTable :=
  let k := x.w.kt.getD kt.toNat {}
  match x.u.tx with
  | none => k
  | some y => k.bump (y.ktd.getD kt.toNat (0, 0, 0))

/-- SRAM offset of the bucket array: KTDESC.BASE (R240). -/
def Issuer.ktBase (x : Issuer) (k : KtTable) : Nat := x.w.ktBase + k.off
/-- Own-cluster window address of an SRAM offset of the bucket array (R259 selector 3). -/
def Issuer.ktVa (x : Issuer) (k : KtTable) (a : Nat) : Word :=
  ownAddr (x.w.cfg.sPrime + k.off + (a - x.ktBase k))

/-- The hash (R243). -/
def ktHash (key b : Nat) : Nat := key * 0x9E3779B1 % 2 ^ 32 / 2 ^ (32 - b)

/-- SRAM offsets of the slots of a key's probe sequence (R243). -/
def Issuer.ktSlots (x : Issuer) (k : KtTable) (key : Nat) : List Nat :=
  (List.range (k.plim + 1)).flatMap fun p =>
    (List.range 4).map fun i => x.ktBase k + 32 * ((ktHash key k.logb + p) % 2 ^ k.logb) + 8 * i

/-- Where a spill entry lies, by the table's pinned translations (R253). -/
def KtTable.spillLoc (k : KtTable) (e : Nat) : Option Loc :=
  let va := w64 (k.spillVa + 8 * e)
  match k.pins.find? fun p => p.1 == vpnOf va 0 with
  | some (_, .mem sp a nc) => some (.mem sp (a + va.toNat % 4096) nc)
  | some (_, .sram _ _) | none => none

/-- A slot enters a set of the transaction, and other transactions that hold it meet a conflict (R262, R296). -/
def KRun.touch (r : KRun) (x : Issuer) (a : Nat) (write : Bool) : KRun :=
  let s := r.s.conflict x.cl (some x.id) write ⟨true, a / 32⟩
  match r.y with
  | none => { r with s := s }
  | some y => match y.touch ⟨true, a / 32⟩ (!write) write with
    | some y => { r with s := s, y := some y }
    | none => { r with stop := some (.abort (abortStatus 2 0 0)) }

/-- Read a slot: key and value (R241, R250). -/
def KRun.readSlot (r : KRun) (x : Issuer) (a : Nat) : KRun × Nat × Nat :=
  let own := r.y.any fun y => y.whole.contains ⟨true, a / 32⟩
  match if own then none else r.s.sramFail x.cl a 8 with
  | some (_, c) => ({ r with stop := some (.trap c (x.ktVa r.k a)) }, 0, 0)
  | none =>
    let bs := r.s.sramBytes x.cl a 8
    let bs := match r.y with
      | some y => y.overlay (.sram x.cl a) bs
      | none => bs
    (r.touch x a false, leNat (bs.take 4), leNat (bs.drop 4))

/-- Write bytes of a slot. -/
def KRun.writeSlot (r : KRun) (x : Issuer) (a : Nat) (bs : List Byte) : KRun :=
  let r := r.touch x (a / 32 * 32) true
  match r.y with
  | some y => { r with y := some (y.redo (.sram x.cl a) bs) }
  | none => { r with s := r.s.sramWrite x.cl a bs }

/-- The address of a spill entry. -/
def KtTable.spillAddr (k : KtTable) (e : Nat) : Word := w64 (k.spillVa + 8 * e)

/-- Whether reading a location through the cluster-shared part needs a link that is down (R415). -/
def State.farRead (s : State) (c : Nat) (l : Loc) : Bool :=
  s.farLoc l && match l with
    | .mem sp a nc => !(cached sp nc && ((s.cl c).l1find 32 sp (a / 32)).isSome)
    | .sram _ _ => false

/-- Read a spill entry; inside a transaction the step aborts with SPILL (R262). -/
def KRun.readSpill (r : KRun) (x : Issuer) (e : Nat) : KRun × Nat × Nat :=
  if r.y.isSome then ({ r with stop := some (.abort (abortStatus 6 0 0)) }, 0, 0)
  else match r.k.spillLoc e with
    | none => (r, keyEmpty, 0)
    | some l =>
      if r.s.farRead x.cl l then ({ r with stop := some (.far (r.k.spillAddr e)) }, 0, 0)
      else
        let r := { r with s := r.s.engineSeen x.cl l }
        match r.s.engineFail x.cl l 8 with
        | some (_, c) => ({ r with stop := some (.trap c (r.k.spillAddr e)) }, 0, 0)
        | none =>
          let bs := r.s.engineRead x.cl l 8
          (r, leNat (bs.take 4), leNat (bs.drop 4))

/-- Write bytes of a spill entry from an offset. A write that no link takes is dropped, as a store's is (R415, log entry
33). -/
def KRun.writeSpill (r : KRun) (x : Issuer) (e off : Nat) (bs : List Byte) : KRun :=
  if r.y.isSome then { r with stop := some (.abort (abortStatus 6 0 0)) }
  else match r.k.spillLoc e with
    | some (.mem sp a nc) =>
      if r.s.farLoc (.mem sp a nc) then { r with lost := r.lost ++ [⟨r.lane, r.k.spillAddr e, 8⟩] }
      else { r with s := r.s.engineWrite x.cl (.mem sp (a + off) nc) bs }
    | some (.sram _ _) | none => r

/-- What a search finds (R244): a slot or a spill entry with its value, or that the key is absent, with the slot where
an insertion goes and whether it is a tombstone. -/
inductive KFound where
  | slot (a v : Nat)
  | spill (e v : Nat)
  | absent (t : Option (Nat × Bool))
  deriving DecidableEq, Repr

/-- The scan of the spill entries from entry `e` on (R244). -/
def KRun.scan (x : Issuer) (key : Nat) (tomb : Option (Nat × Bool)) : Nat → Nat → KRun → KRun × KFound
  | 0, _, r => (r, .absent tomb)
  | n + 1, e, r =>
    let (r, k, v) := r.readSpill x e
    if r.stop.isSome then (r, .absent none)
    else if k = key then (r, .spill e v)
    else KRun.scan x key tomb n (e + 1) r

/-- The search of R244. -/
def KRun.search (x : Issuer) (key : Nat) : List Nat → Option (Nat × Bool) → KRun → KRun × KFound
  | [], tomb, r => if r.k.spilled then KRun.scan x key tomb r.k.used 0 r else (r, .absent tomb)
  | a :: as, tomb, r =>
    let (r, k, v) := r.readSlot x a
    if r.stop.isSome then (r, .absent none)
    else if k = key then (r, .slot a v)
    else if k = keyEmpty then (r, .absent (some (tomb.getD (a, false))))
    else KRun.search x key as (if k = keyTomb then some (tomb.getD (a, true)) else tomb) r

/-- A step's result word (R246). -/
def ktWord (status value : Nat) : Word := w64 (status * 2 ^ 32 + value)

/-- Change the found entry's value. -/
def KRun.setValue (r : KRun) (x : Issuer) (f : KFound) (v : Nat) : KRun :=
  match f with
  | .slot a _ => r.writeSlot x (a + 4) (leBytes 4 v)
  | .spill e _ => r.writeSpill x e 4 (leBytes 4 v)
  | .absent _ => r

/-- place(key, v) (R245, R255). -/
def KRun.place (r : KRun) (x : Issuer) (key v : Nat) (t : Option (Nat × Bool)) : KRun × Word :=
  let bs := leBytes 4 key ++ leBytes 4 v
  match t with
  | some (a, tomb) =>
    let r := r.writeSlot x a bs
    ({ r with k := { r.k with live := r.k.live + 1, tomb := if tomb then r.k.tomb - 1 else r.k.tomb } }, ktWord 0 v)
  | none =>
    if r.k.used < r.k.cap then
      let r := r.writeSpill x r.k.used 0 bs
      ({ r with k := { r.k with used := r.k.used + 1, live := r.k.live + 1, spilled := true } }, ktWord 3 v)
    else (r, ktWord 4 0)

/-- combine(a, v) (R256). -/
def ktCombine (vt aop a v : Nat) : Nat :=
  if aop = 3 then a ||| v
  else if vt = 2 then
    if aop = 0 then fAddPlain .f32 a v
    else (fMinMax .f32 false (aop = 2) a v).1
  else if aop = 0 then (a + v) % 2 ^ 32
  else if vt = 0 then (if aop = 1 then aluMin 32 a v else aluMax 32 a v)
  else if aop = 1 then Nat.min a v else Nat.max a v

/-- Keyed operations that step once per lane (R255). -/
inductive KStep where
  | ins | prb | del | acc
  deriving DecidableEq, Repr

/-- One lane's step (R255). Counts that plain stores have made too low stay at 0, a choice of the model (R260, log entry
102). -/
def KRun.step (r : KRun) (x : Issuer) (op : KStep) (key v : Nat) : KRun × Word :=
  if !userKey key then (r, ktWord 5 0)
  else
    let (r, f) := KRun.search x key (x.ktSlots r.k key) none r
    if r.stop.isSome then (r, 0)
    else match op, f with
      | .prb, .slot _ w | .prb, .spill _ w => (r, ktWord 0 w)
      | .prb, .absent _ => (r, ktWord 2 0)
      | .ins, .slot _ w | .ins, .spill _ w => (r, ktWord 1 w)
      | .ins, .absent t | .acc, .absent t => r.place x key v t
      | .del, .slot a w =>
        let r := r.writeSlot x a (leBytes 4 keyTomb)
        ({ r with k := { r.k with live := r.k.live - 1, tomb := r.k.tomb + 1 } }, ktWord 0 w)
      | .del, .spill e w =>
        let r := r.writeSpill x e 0 (leBytes 4 keyTomb)
        ({ r with k := { r.k with live := r.k.live - 1 } }, ktWord 0 w)
      | .del, .absent _ => (r, ktWord 2 0)
      | .acc, .slot _ w | .acc, .spill _ w =>
        let n := ktCombine r.k.vt r.k.aop w v
        (r.setValue x f n, ktWord 0 n)

/-- The steps of the active lanes in ascending order, each seeing those before it (R249): results, and what has stopped
lanes. An abort ends the instruction: one that a later lane meets comes before the trap cause of an earlier one, a
choice of the model (log entry 96). -/
def KRun.steps (x : Issuer) (op : KStep) (vals : Nat → Vals) :
    List Nat → KRun → KRun × List (Nat × Word) × List (Nat × KStop)
  | [], r => (r, [], [])
  | t :: ts, r =>
    let v := vals t
    let (r', w) := { r with lane := t }.step x op (v.sa.toNat % 2 ^ 32) (v.sb.toNat % 2 ^ 32)
    match r'.stop with
    | some (.abort st) => (r', [], [(t, .abort st)])
    | some e =>
      let (r'', out, stops) := KRun.steps x op vals ts { r' with stop := none }
      (r'', out, (t, e) :: stops)
    | none =>
      let (r'', out, stops) := KRun.steps x op vals ts r'
      (r'', (t, w) :: out, stops)

/-- The abort among what has stopped lanes. -/
def stopAbort (stops : List (Nat × KStop)) : Option (BitVec 24) :=
  stops.findSome? fun e => match e.2 with
    | .abort st => some st
    | .trap _ _ | .far _ => none

/-- The traps among what has stopped lanes. -/
def stopTraps (stops : List (Nat × KStop)) : List LaneTrap :=
  stops.filterMap fun e => match e.2 with
    | .trap c va => some (e.1, c, va)
    | .abort _ | .far _ => none

/-- The accesses among what has stopped lanes that need a link. -/
def stopFar (stops : List (Nat × KStop)) : List LaneAcc :=
  stops.filterMap fun e => match e.2 with
    | .far va => some ⟨e.1, va, 8⟩
    | .trap _ _ | .abort _ => none

/-- A working copy for a unit's table. -/
def State.kRun (s : State) (x : Issuer) (kt : BitVec 2) : KRun := { s := s, k := x.table kt, y := s.txOf x }

/-- Keep what a keyed instruction did: the table's descriptor, or inside a transaction the changes of its counts. -/
def KRun.keep (r : KRun) (x : Issuer) (kt : BitVec 2) : State :=
  match r.y with
  | none => r.s.modWg x.id.wg fun w => { w with kt := w.kt.set kt.toNat r.k }
  | some y =>
    let k := x.w.kt.getD kt.toNat {}
    let d : Int × Int × Int := ((r.k.used : Int) - k.used, (r.k.live : Int) - k.live, (r.k.tomb : Int) - k.tomb)
    r.s.setTx x { y with ktd := y.ktd.set kt.toNat d }

/-- Set a table's descriptor. -/
def State.setKt (s : State) (x : Issuer) (kt : BitVec 2) (k : KtTable) : State :=
  s.modWg x.id.wg fun w => { w with kt := w.kt.set kt.toNat k }

/-- Mark the result of a keyed instruction pending (R250). -/
def State.pendS (s : State) (x : Issuer) (rd : R5) : State :=
  if (portOf (.s rd)).isSome || rd = 0 then s else s.setBusy x.id.wg x.active (.s rd)

/-- The LINK errors of writes that are dropped because no link has taken them in time (R415). -/
def State.dropped (s : State) (x : Issuer) (lost : List LaneAcc) : State :=
  lost.foldl (fun s a => s.postErrorTo x.id.wg a.t x.taskAt 5 a.va) s

/-- KTINS, KTPRB, KTDEL, KTACC (R248 to R251, R255). A spill entry that needs a link that is down makes the instruction
wait. When the time of R415 has passed, one that is read traps 0x0A, and one that is written is dropped with a LINK for
each lane, while the instruction completes (log entry 33). Where a port operand of a lane traps 0x11 no step runs, so no
lane raises 0x09 or 0x0A: a choice of the model (log entry 87). -/
def State.keyed (s : State) (op : KStep) (kt : BitVec 2) (rd ra : R5) (rb : Option R5) :
    Host.Outcome State Fault Refusal :=
  s.onUnit fun x =>
    let f : Fields := { a := some (.s ra), b := rb.map .s, dst := some (.s rd) }
    match s.gate x f with
    | .stop s' => s'
    | .go pt =>
      if !(x.table kt).valid then s.trapLanes x false (x.active.map fun t => (t, 0x0F, 1))
      else if !pt.isEmpty then s.trapLanes x false pt
      else
        let (r, out, stops) := KRun.steps x op (fun t => (x.w.thr t).vals f) x.active (s.kRun x kt)
        let traps := stopTraps stops
        match stopAbort stops with
        | some st => s.txAbort x.id.wg x.id.t st
        | none =>
          let far := if stops.isEmpty then r.lost else stopFar stops
          match if far.isEmpty then .traps [] else s.linkWait x far with
          | .stop s' => s'
          | .go _ => s
          | .traps dead =>
            if !stops.isEmpty then s.trapLanes x false (mergeTraps x.active traps dead)
            else
              let s := (((r.keep x kt).dropReqs x).dropped x r.lost).commit x f fun t =>
                .ofS (((out.find? fun w => w.1 == t).map (·.2)).getD 0)
              s.pendS x rd

/-- KTINS (R255). -/
def execKtins (kt : BitVec 2) (rd ra rb : R5) (s : State) : Host.Outcome State Fault Refusal :=
  s.keyed .ins kt rd ra (some rb)
/-- KTPRB (R255). -/
def execKtprb (kt : BitVec 2) (rd ra : R5) (s : State) : Host.Outcome State Fault Refusal := s.keyed .prb kt rd ra none
/-- KTDEL (R255). -/
def execKtdel (kt : BitVec 2) (rd ra : R5) (s : State) : Host.Outcome State Fault Refusal := s.keyed .del kt rd ra none
/-- KTACC (R255, R256). -/
def execKtacc (kt : BitVec 2) (rd ra rb : R5) (s : State) : Host.Outcome State Fault Refusal :=
  s.keyed .acc kt rd ra (some rb)

-- Claiming and freeing.

/-- The pages that `n` bytes from an address touch, by number. -/
def pagesOf (va n : Nat) : List Nat :=
  if n = 0 then [] else (List.range ((va + n - 1) / 4096 - va / 4096 + 1)).map (va / 4096 + ·)

/-- An empty table's bytes: key 0xFFFF_FFFF and value 0 in every slot (R253). -/
def emptySlots (b : Nat) : List Byte :=
  (List.replicate (4 * 2 ^ b) (leBytes 4 keyEmpty ++ leBytes 4 0)).flatten

/-- The table that a configuration operand describes (R252). -/
def ktConfig (cfg spill : Word) : KtTable :=
  let c := cfg.toNat
  { valid := true, aop := nbits c 31 30, vt := nbits c 29 28, plim := nbits c 27 25, logb := nbits c 24 21
    off := nbits c 18 0, cap := nbits c 55 32, spillVa := if nbits c 55 32 = 0 then 0 else spill.toNat }

/-- KTCLAIM's trap 0x0F (R251). -/
def Issuer.claimTrap (x : Issuer) (kt : BitVec 2) (k : KtTable) : Option Nat :=
  let size := 32 * 2 ^ k.logb
  let meets := fun (o : KtTable) => o.valid && rangesMeet k.off size o.off (32 * 2 ^ o.logb)
  if (x.table kt).valid then some 2
  else if k.logb < 4 || 13 < k.logb || k.vt = 3 || k.off % 32 ≠ 0 ||
      (k.cap ≠ 0 && (k.spillVa % 8 ≠ 0 || 2 ^ 64 < k.spillVa + 8 * k.cap)) then some 3
  else if x.w.cfg.kt = 0 || x.w.cfg.kt < k.off + size then some 4
  else if ((List.range 4).any fun i => i ≠ kt.toNat && meets (x.w.kt.getD i {})) then some 5
  else none

/-- KTCLAIM (R250 to R253): acts once, with the operands of the lowest active lane. A spill buffer at a window address
traps 0x08 and one in PCIe peer space is taken: R242 names neither, and both are choices of the model (log entry 101). -/
def execKtclaim (kt : BitVec 2) (ra rb : R5) (s : State) : Host.Outcome State Fault Refusal :=
  s.onUnit fun x =>
    let f : Fields := { a := some (.s ra), b := some (.s rb) }
    if x.u.tx.isSome then s.abortExplicit x
    else match s.gate x f with
      | .stop s' => s'
      | .go pt =>
        let v := (x.w.thr x.lead).vals f
        let k := ktConfig v.sa v.sb
        if (x.table kt).valid then s.trapAll x 0x0F 2
        else if !pt.isEmpty then s.trapLanes x false pt
        else match x.claimTrap kt k with
          | some c => s.trapAll x 0x0F (w64 c)
          | none =>
            let at' := fun p => w64 (max (4096 * p) k.spillVa)
            let ps := (pagesOf k.spillVa (8 * k.cap)).map fun p =>
              (p, s.probe x.w x.lead x.u.sh.priv .store (at' p) 1)
            -- the lowest page that has no translation for writing
            let first := ps.find? fun p => match p.2 with
              | .ok (.mem _ _ _) _ => false
              | .ok (.sram _ _) _ | .remote _ _ | .trap _ | .park | .miss => true
            match first with
            | some (p, .miss) => (s.joinMiss x.w x.lead 6 (at' p)).stall
            | some (p, .trap c) => s.trapAll x c (at' p)
            | some (p, .park) => s.trapAll x 6 (at' p)
            | some (p, .ok _ _) | some (p, .remote _ _) => s.trapAll x 8 (at' p)
            | none =>
                let pins := ps.filterMap fun p => match p.2 with
                  | .ok (.mem sp a nc) _ =>
                    some (vpnOf (at' p.1) 0, Loc.mem sp (a - (at' p.1).toNat % 4096) nc)
                  | .ok (.sram _ _) _ | .remote _ _ | .trap _ | .park | .miss => none
                let k := { k with pins := pins }
                let s := s.engineWrite x.cl (.sram x.cl (x.ktBase k)) (emptySlots k.logb)
                ((s.setKt x kt k).popAll x f).retire x

/-- KTFREE (R254). -/
def execKtfree (kt : BitVec 2) (s : State) : Host.Outcome State Fault Refusal :=
  s.onUnit fun x =>
    if x.u.tx.isSome then s.abortExplicit x
    else
      let k := x.table kt
      (if k.valid then
        s.setKt x kt { k with valid := false, spilled := false, used := 0, live := 0, tomb := 0, pins := [] }
      else s).retire x

-- Drain and status.

/-- The bytes that an entry holds, whether or not their sector fails its check (R304). -/
def KRun.stored (r : KRun) (x : Issuer) (p : Sum Nat Nat) : List Byte :=
  match p with
  | .inl a => r.s.sramBytes x.cl a 8
  | .inr e => match r.k.spillLoc e with
    | some l => r.s.engineRead x.cl l 8
    | none => leBytes 8 keyEmpty

/-- The code of the trap that a stop makes; an abort comes before any (R377). -/
def KStop.code : KStop → Nat
  | .trap c _ => c
  | .far _ => 10
  | .abort _ => 0

/-- Reading the live entries in the order of R257. The pairs are those that the entries hold; of the entries that cannot
be read the first with the lowest cause is noted (R250, R377: causes that come after those of the output). -/
def KRun.drain (x : Issuer) : List (Sum Nat Nat) → KRun → KRun × List (Nat × Nat)
  | [], r => (r, [])
  | p :: ps, r =>
    let (r', _, _) := match p with
      | .inl a => r.readSlot x a
      | .inr e => r.readSpill x e
    let bs := r.stored x p
    let (k, v) := (leNat (bs.take 4), leNat (bs.drop 4))
    let (r'', out) := KRun.drain x ps { r' with stop := none }
    ({ r'' with stop := match r'.stop, r''.stop with
        | some e, some e' => some (if e'.code < e.code then e' else e)
        | some e, none => some e
        | none, e' => e' }, if userKey k then (k, v) :: out else out)

/-- Every slot of a table, then its spill entries (R257). -/
def Issuer.ktAll (x : Issuer) (k : KtTable) : List (Sum Nat Nat) :=
  ((List.range (4 * 2 ^ k.logb)).map fun i => .inl (x.ktBase k + 8 * i)) ++
    (if k.spilled then (List.range k.used).map .inr else [])

/-- The addresses at which a table's bucket array begins: in the own-cluster window forms and in the global form of its
cluster (R266). -/
def Issuer.arrayVas (x : Issuer) (k : KtTable) : List Nat :=
  [(63, 31), (48, 31), (x.cl % 36, x.cl / 36)].map fun p =>
    0xFFFF800000000000 + 2 ^ 25 * p.2 + 2 ^ 19 * p.1 + x.w.cfg.sPrime + k.off

/-- Whether KTDRN's output, whichever addresses it runs through, meets the table's bucket array or spill buffer (R251). -/
def Issuer.drainMeets (x : Issuer) (k : KtTable) (va n : Nat) : Bool :=
  let meets := fun (b m : Nat) => rangesMeet va n b m || rangesMeet va n (2 ^ 64 + b) m
  n ≠ 0 && ((x.arrayVas k).any (meets · (32 * 2 ^ k.logb)) || (k.cap ≠ 0 && meets k.spillVa (8 * k.cap)))

/-- Whether a store of any issuing lane to a byte of KTDRN's pairs is still on its way, or a matrix instruction of one has
still to make its access: the pairs come after them in program order (R258, R209). -/
def State.drainHeld (s : State) (x : Issuer) (rs : List (LaneAcc × Probe)) : Bool :=
  rs.any fun r => x.active.any fun t =>
    s.heldByMatrix x .drain { r.1 with t := t } r.2 || s.heldByStore x { r.1 with t := t } r.2

/-- The pairs of KTDRN that go to a peer device that no link reaches (R415). -/
def State.farPairs (s : State) (rs : List (LaneAcc × Probe)) : List LaneAcc :=
  rs.filterMap fun r => match r.2 with
    | .ok l _ => if s.farLoc l then some r.1 else none
    | .remote _ _ | .trap _ | .park | .miss => none

/-- Write KTDRN's pairs: at cluster scope, in another cluster's window at its SRAM port (R258, R268), where each is
entered in the trace ring as the store that it is (R284). Pairs that no link reaches are dropped. -/
def State.drainOut (s : State) (x : Issuer) (rs : List (LaneAcc × Probe)) (pairs : List (List Byte)) : State :=
  (rs.zip pairs).foldl (fun (s : State) r =>
    match r.1.2 with
    | .ok l e =>
      if s.farLoc l then s
      else
        let s := match l with
          | .sram c _ => if c = x.cl then s else traceAdd s c x.cl r.1.1.t 8 (r.1.1.va.toNat % 2 ^ 19) false
          | .mem _ _ _ => s
        (s.noteTlb x.cl (pipeOf r.1.1.t) e).engineWrite x.cl l r.2
    | .remote _ _ | .trap _ | .park | .miss => s) s

/-- The flag of KTDRN (R72): its event is the writing of the last pair. Where rd is a port register, the flag's one count
falls as the value enters the far queue, which comes later. -/
def State.drainFlag (s : State) (x : Issuer) (f : Fields) : State :=
  if f.push.isSome then s else s.storeFlag x 0 []

/-- KTDRN (R250, R257, R258). Where it needs a link that is down, the whole instruction waits. After the time of R415 an
entry that cannot be read traps 0x0A, which comes after every check of the output (R250); pairs that cannot be written
are dropped with one LINK for the lowest of them, a choice of the model (log entry 33). -/
def execKtdrn (kt : BitVec 2) (clr : Bool) (rd ra : R5) (s : State) : Host.Outcome State Fault Refusal :=
  s.onUnit fun x =>
    let f := fSS rd ra
    if x.u.tx.isSome then s.abortExplicit x
    else match s.gate x f with
      | .stop s' => s'
      | .go pt =>
        let k := x.table kt
        let all := fun (ts : List LaneTrap) => x.active.flatMap fun t => ts.map fun l => (t, l.2)
        if !k.valid then s.trapAll x 0x0F 1
        else if !pt.isEmpty then s.trapLanes x false pt
        else
          let out := ((x.w.thr x.lead).vals f).sa
          let (r, pairs) := KRun.drain x (x.ktAll k) (s.kRun x kt)
          let n := 8 * pairs.length
          if x.drainMeets k out.toNat n then s.trapAll x 0x0F 6
          else if out.toNat % 8 ≠ 0 then s.trapAll x 4 out
          else
            let as := (List.range pairs.length).map fun i => LaneAcc.mk x.lead (out + w64 (8 * i)) 8
            match s.access x .drain false as with
            | .stop s' => s'
            | .traps ts => s.trapLanes x false (all ts)
            | .go rs =>
              if s.drainHeld x rs then s.stall
              else match r.stop with
              | some (.trap c va) => s.trapAll x c va
              | some (.far va) => match s.linkWait x [⟨x.lead, va, 8⟩] with
                | .stop s' => s'
                | .traps ts => s.trapLanes x false (all ts)
                | .go _ => s
              | some (.abort _) | none =>
                let far := (s.farPairs rs).take 1
                match if far.isEmpty then .traps [] else s.linkWait x far with
                | .stop s' => s'
                | .go _ => s
                | .traps _ =>
                  let s := r.s.drainOut x rs (pairs.map fun p => leBytes 4 p.1 ++ leBytes 4 p.2)
                  let s := if clr then
                      (s.engineWrite x.cl (.sram x.cl (x.ktBase k)) (emptySlots k.logb)).setKt x kt
                        { k with spilled := false, used := 0, live := 0, tomb := 0 }
                    else s
                  let s := (s.dropReqs x).dropped x far
                  ((s.drainFlag x f).commit x f fun _ => .ofS (w64 pairs.length)).pendS x rd

/-- KTSTAT's word (R259). -/
def Issuer.ktStat (x : Issuer) (kt : BitVec 2) (sel : Nat) : Word :=
  let k := x.table kt
  if !k.valid then 0
  else match sel with
    | 0 => w64 (k.used * 2 ^ 32 + k.live)
    | 1 => w64 k.spillVa
    | 2 => w64 (k.tomb * 2 ^ 32 + k.cap)
    | _ => ownAddr (x.w.cfg.sPrime + k.off)

/-- KTSTAT (R259). A port rd traps 0x11 in the lanes that it concerns, here and in KTCLAIM and KTDRN, although R250 has
every active lane fault in the keyed causes: a choice of the model (log entry 87). -/
def execKtstat (kt : BitVec 2) (sel : BitVec 2) (rd : R5) (s : State) : Host.Outcome State Fault Refusal :=
  s.onUnit fun x =>
    let f : Fields := { dst := some (.s rd) }
    match s.gate x f with
    | .stop s' => s'
    | .go pt =>
      if !pt.isEmpty then s.trapLanes x false pt
      else (s.commit x f fun _ => .ofS (x.ktStat kt sel.toNat)).pendS x rd

end Sys2Proof.Machine
end

