-- ==== Sys2Proof/Machine/Csr.lean ====
section
/-!
DEFINITION. Control registers (R99 to R110) and supervisor registers (R338, R380, R381): what a read gives and what a
write does, and pre-emption requests (R393, R399).
-/

namespace Sys2Proof.Machine

-- Pre-emption requests.

/-- Every running workgroup of a context is to be saved (R381, R393); with HOLD, nothing of it is placed until RESUME. -/
def State.preempt (s : State) (ctx : Nat) (imm hold : Bool) : State :=
  let s := if hold then s.modCtx ctx fun c => { c with hold := true, holdAt := if c.hold then c.holdAt else s.clock } else s
  { s with wgs := s.wgs.map fun w =>
      if w.ctx ≠ ctx then w
      else { w with saveReq := some (if imm then .imm else match w.saveReq with
        | some .imm => .imm
        | some .prio => .prio
        | some .normal | some .join | none => .normal) } }

/-- The saved units of a context become resumable at this moment (R358), and are passed over from now on (R361). -/
def State.resumable (s : State) (ctx : Nat) : State :=
  { s with saved := s.saved.map fun u =>
      if u.ctx = ctx then { u with since := s.clock, passed := none, pinFail := false } else u }

/-- RESUME takes over the units that have come from another device (R399), and clears HOLD: the context's saved units
become resumable, and the time in which its launches could not be dispatched does not count for them (R358, R361, R381). A
context that is not held has nothing else to resume. -/
def State.resume (s : State) (ctx : Nat) : State :=
  let s := s.adopt ctx
  let k := s.ctx ctx
  if !k.hold then s
  else
    let s := (s.modCtx ctx fun c => { c with hold := false }).resumable ctx
    { s with launches := s.launches.map fun l =>
        if l.ctx = ctx ∧ l.state = .dispatching then
          { l with since := l.since + (s.clock - max l.since k.holdAt), passed := none }
        else l }

/-- Whether the features of some saved unit of a context are missing (R399). -/
def State.fmis (s : State) (c : Nat) : Bool :=
  s.saved.any fun u => u.ctx == c && u.pinned &&& ~~~(s.ctx c).featset ≠ 0

-- Values that registers give.

/-- The context that a per-context register refers to (R380). -/
def Issuer.ctxOf (x : Issuer) (t : Nat) : Nat := if x.w.ctx = 0 then (x.w.thr t).ctxsel else x.w.ctx

/-- Workgroup counts of the launch (R103). -/
def pack3 (x y z : Nat) : Word := w64 (x + 2 ^ 21 * y + 2 ^ 42 * z)

/-- The workgroup column that PIPEID reports; a task reports its SEND's (R342). -/
def Workgroup.colOf (w : Workgroup) (t : Nat) : Nat :=
  match (w.thr t).task with
  | some (_, c) => c
  | none => t / 32

/-- KTDESC (R109, R240). A table that no KTCLAIM has configured has LOGB 0, and BASE at its reset value (R98). -/
def ktDesc (base : Nat) (k : KtTable) : Nat :=
  2 ^ 63 * bnat k.valid + 2 ^ 62 * bnat k.spilled + 2 ^ 60 * k.aop + 2 ^ 58 * k.vt + 2 ^ 55 * k.plim +
    2 ^ 51 * k.logb + (if k.logb = 0 then 0 else base / 32 % 2 ^ 14 * 32)

/-- A word of the trace entry that TRCTL selects (R284); zero where the ring holds none. -/
def State.traceWord (s : State) (hi : Bool) : Word :=
  if 36 ≤ s.trX ∨ 16 ≤ s.trY then 0
  else match (s.cl (clusterAt s.trX s.trY)).trace[s.trIdx]? with
    | none => 0
    | some e =>
      if hi then w64 (e.x + 2 ^ 8 * e.y + 2 ^ 16 * e.colPipe + 2 ^ 24 * bnat e.atomic +
          2 ^ 32 * (e.off % 2 ^ 19 + 2 ^ 19 * Nat.log2 e.size))
      else w64 e.clock

/-- Whether a command is a copy-engine command (R305). -/
def Cmd.op (c : Cmd) : Nat := nbits c.d0.toNat 63 56
def Cmd.isCopy (c : Cmd) : Bool := c.op < 0x10

/-- CTXSTAT (R381, R399). -/
def State.ctxStat (s : State) (c : Nat) : Nat :=
  let run := (s.wgs.filter fun w => w.ctx == c).length
  let mine := s.saved.filter fun u => u.ctx == c
  let saved := mine.foldl (fun n u => n + u.wgs.length) 0
  let engq := (s.cmds.filter fun e => e.ctx == c && !e.cmd.isCopy).length
  min run 65535 + 2 ^ 16 * min saved 65535 + 2 ^ 32 * min engq 65535 + 2 ^ 48 * bnat (s.fmis c) + 2 ^ 49 * bnat (s.ctx c).hold

/-- A dependence slot as DEPVAL gives it (R381). -/
def State.depWord (s : State) : Nat :=
  match mfind s.deps s.depidx with
  | none => 0
  | some d => 2 ^ 63 + 2 ^ 48 * d.ctx + wrap 32 d.count

/-- The selected launch queue. -/
def State.lq (s : State) : LQueue := mget {} s.queues s.lqsel

/-- A user control register as a thread of the issuer reads it (R100 to R110). -/
def State.csrUser (s : State) (x : Issuer) (t n : Nat) : Word :=
  let th := x.w.thr t
  let h := x.u.sh
  let g := x.grp
  match n with
  | 0x000 => w64 (x.u.status th.rejoin.isSome)
  | 0x001 => w64 (4 * bnat x.isTask + (match g with
      | some g => fszCode g.f
      | none => 0))
  | 0x002 => w64 (x.laneOf t)
  | 0x003 => w64 x.lanes
  | 0x004 => w64 (pipeOf t + 32 * x.w.colOf t)
  | 0x005 => w64 (clX x.cl + 64 * clY x.cl + 4096 * clDie x.cl)
  | 0x006 => pack3 x.w.gx x.w.gy x.w.gz
  | 0x007 => pack3 x.w.cfg.wgx x.w.cfg.wgy x.w.cfg.wgz
  | 0x008 => w64 (x.w.ex + 8 * x.w.ey + 64 * x.w.cfg.ew + 1024 * x.w.cfg.eh + 16384 * bnat x.w.cfg.torus)
  | 0x009 => match g with
    | some g => w64 (2 * laneCount g.f + 256 * 64 + 65536 * 128)
    | none => 0
  | 0x00A => h.fcsr
  | 0x00B => h.srseed.setWidth 64
  | 0x00C => h.splitthr.setWidth 64
  | 0x010 => w64 s.clock + (s.ctx x.w.ctx).clkoff
  | 0x020 => h.trapvec
  | 0x021 => th.trapcause
  | 0x022 => th.trappc &&& ~~~3
  | 0x023 => th.trapval
  | 0x040 => w64 th.ports.n.cfg
  | 0x041 => w64 th.ports.e.cfg
  | 0x042 => w64 th.ports.s.cfg
  | 0x043 => w64 th.ports.w.cfg
  | 0x050 => w64 (ktDesc (x.w.ktBase + (x.table 0).off) (x.table 0))
  | 0x051 => w64 (ktDesc (x.w.ktBase + (x.table 1).off) (x.table 1))
  | 0x052 => w64 (ktDesc (x.w.ktBase + (x.table 2).off) (x.table 2))
  | 0x053 => w64 (ktDesc (x.w.ktBase + (x.table 3).off) (x.table 3))
  | 0x060 => w64 th.mbox.msgs.length
  | _ => 0

/-- A supervisor register (R380, R381); a write-only register reads as zero. -/
def State.csrSup (s : State) (x : Issuer) (t n : Nat) : Word :=
  let th := x.w.thr t
  let c := s.ctx (x.ctxOf t)
  match n with
  | 0x100 => c.stvec
  | 0x101 => c.sdeleg
  | 0x102 => w64 th.sprev
  | 0x103 => th.utcause
  | 0x104 => th.utpc &&& ~~~3
  | 0x105 => th.utval
  | 0x106 => th.sscratch
  | 0x107 => w64 th.ctxsel
  | 0x108 => c.ptroot
  | 0x109 => c.featset.setWidth 64
  | 0x10A => c.clkoff
  | 0x10B => w64 (c.semBase + 4096 * c.semSize)
  | 0x10C => c.svbase
  | 0x10D => c.svsize
  | 0x110 => s.wdtask
  | 0x111 => s.wdwait
  | 0x112 => s.ageq
  | 0x113 => s.gather
  | 0x114 => s.joinspin
  | 0x118 => s.fqbase
  | 0x119 => w64 (2 ^ 32 * s.fqTail.toNat + 2 ^ 17 * bnat s.fqEn + 4096 * s.fqLog2n + s.fqSem)
  | 0x11A => s.fqHead.setWidth 64
  | 0x11C => s.eqbase
  | 0x11D => w64 (2 ^ 32 * s.eqTail.toNat + 2 ^ 20 * s.eqDrop + 2 ^ 17 * bnat s.eqEn + 4096 * s.eqLog2n)
  | 0x11E => s.eqHead.setWidth 64
  | 0x120 => w64 (4096 * s.trIdx + 2048 * bnat (s.cl (clusterAt s.trX s.trY)).traceOn + 64 * s.trY + s.trX)
  | 0x121 => s.traceWord false
  | 0x122 => s.traceWord true
  | 0x123 => w64 (s.cl (clusterAt s.trX s.trY)).traceCount
  | 0x124 => w64 s.semidx
  | 0x125 => mget 0 s.sems s.semidx
  | 0x126 => w64 s.depidx
  | 0x127 => w64 s.depWord
  | 0x128 => w64 s.lqsel
  | 0x129 => s.lq.base
  | 0x12A => s.lq.cfg
  | 0x12B => s.lq.headWord
  | 0x132 => w64 (s.ctxStat (x.ctxOf t))
  | _ => 0

/-- Device registers, which only a thread of context 0 may write (R380). -/
def csrDevice (n : Nat) : Bool := 0x110 ≤ n && n ≤ 0x131

/-- Change the selected launch queue. -/
def State.modLq (s : State) (f : LQueue → LQueue) : State := { s with queues := mput s.queues s.lqsel (f s.lq) }

/-- A write of a semaphore by its absolute number (R338): one step of its order, which re-evaluates readiness. -/
def State.semSet (s : State) (v : Word) : State := { s with sems := mset 0 s.sems s.semidx v }.reeval

/-- A write of the selected dependence slot (R338, R381). -/
def State.depSet (s : State) (v : Word) : State :=
  let d : Dep := { ctx := nbits v.toNat 59 48, count := sint 32 v.toNat }
  { s with deps := if v.getLsbD 63 then mput s.deps s.depidx d else mdel s.deps s.depidx }.reeval

/-- A write of FEATSET (R381): ANDed with the set that this device offers, all seven features. Saved units that it lets
resume become resumable now (R358, R399). -/
def State.featSet (s : State) (c : Nat) (v : Word) : State :=
  let s' := s.modCtx c fun k => { k with featset := v.setWidth 7 }
  if s.fmis c && !s'.fmis c then s'.resumable c else s'

/-- A write of SRSEED, which reseeds the writing lanes (R123, R191). -/
def State.seedSet (s : State) (x : Issuer) (v : Word) : State :=
  let s := s.modSh x fun h => { h with srseed := v.setWidth 16 }
  s.modThrs x.id.wg x.active fun t th => { th with gen := genSeed (v.setWidth 16) (x.laneOf t) }

/-- Per-context registers that CSRW writes. -/
def csrPerCtx (n : Nat) : Bool := n = 0x100 || n = 0x101 || (0x108 ≤ n && n ≤ 0x10D)

/-- A write of a per-context register of a context (R380, R381). -/
def State.csrCtx (s : State) (c n : Nat) (v : Word) : State :=
  let b := v.toNat
  match n with
  | 0x100 => s.modCtx c fun k => { k with stvec := v &&& ~~~3 }
  | 0x101 => s.modCtx c fun k => { k with sdeleg := v &&& 0x7FF1E }
  | 0x108 => s.modCtx c fun k => { k with ptroot := v &&& 0xFFFFFFFE00001 }
  | 0x109 => s.featSet c v
  | 0x10A => s.modCtx c fun k => { k with clkoff := v }
  | 0x10B =>
    let size := nbits b 24 12
    let base := nbits b 11 0
    if 4096 < base + size then s else s.modCtx c fun k => { k with semBase := base, semSize := size }
  | 0x10C => if b % 4096 = 0 then s.modCtx c fun k => { k with svbase := v } else s
  | 0x10D => s.modCtx c fun k => { k with svsize := v }
  | _ => s

/-- A write of a register that exists once: of the unit, the context or the device (R99, R191, R380, R381). -/
def State.csrOnce (s : State) (x : Issuer) (n : Nat) (v : Word) : State :=
  let b := v.toNat
  let low2 : Word := ~~~3
  match n with
  | 0x000 => s.modSh x fun h => { h with
      kdivtrap := nbit b 2, kdiff := h.kdiff && !nbit b 1, kdiv := h.kdiv && !nbit b 0 }
  | 0x00A => s.modSh x fun h => { h with fcsr := fcsrWrite h.fcsr v }
  | 0x00B => s.seedSet x v
  | 0x00C => s.modSh x fun h => { h with splitthr := v.setWidth 16 }
  | 0x020 => s.modSh x fun h => { h with trapvec := v &&& low2 }
  | 0x100 | 0x101 | 0x108 | 0x109 | 0x10A | 0x10B | 0x10C | 0x10D => s.csrCtx (x.ctxOf x.lead) n v
  | 0x110 => if b = 0 then s else { s with wdtask := v }
  | 0x111 => if b = 0 then s else { s with wdwait := v }
  | 0x112 => if b = 0 then s else { s with ageq := v }
  | 0x113 => if b = 0 then s else { s with gather := v }
  | 0x114 => if b = 0 then s else { s with joinspin := v }
  | 0x118 => if b % 4096 = 0 then { s with fqbase := v } else s
  | 0x119 =>
    let l := nbits b 16 12
    if 4 ≤ l ∧ l ≤ 16 then { s with fqEn := nbit b 17, fqLog2n := l, fqSem := nbits b 11 0 } else s
  | 0x11A => { s with fqHead := v.setWidth 32 }
  | 0x11B =>
    let k := v.setWidth 32
    match nbits b 33 32 with
    | 0 => s.fresp .retry k
    | 1 => s.fresp .kill k
    | 2 => s.fresp .deliver k
    | _ => s
  | 0x11C => if b % 4096 = 0 then { s with eqbase := v } else s
  | 0x11D =>
    let l := nbits b 16 12
    if 4 ≤ l ∧ l ≤ 16 then
      { s with eqEn := nbit b 17, eqLog2n := l, eqDrop := s.eqDrop - (s.eqDrop &&& nbits b 31 20) }
    else s
  | 0x11E => { s with eqHead := v.setWidth 32 }
  | 0x120 =>
    let x := nbits b 5 0
    let y := nbits b 10 6
    let s := { s with trIdx := nbits b 19 12, trX := x, trY := y }
    if x < 36 ∧ y < 16 then s.modCl (clusterAt x y) fun cl => { cl with traceOn := nbit b 11 } else s
  | 0x124 => { s with semidx := nbits b 11 0 }
  | 0x125 => s.semSet v
  | 0x126 =>
    let i := nbits b 14 0
    if 1 ≤ i ∧ i ≤ 16384 then { s with depidx := i } else s
  | 0x127 => s.depSet v
  | 0x128 => { s with lqsel := nbits b 9 0 }
  | 0x129 => if b % 4096 = 0 then s.modLq fun q => { q with base := v } else s
  | 0x12A =>
    let k := nbits b 4 0
    if 4 ≤ k ∧ k ≤ 16 then s.modLq fun q => { q with cfg := v &&& 0x1FFFFFF } else s
  | 0x12B => if b % 8 = 0 then s.modLq fun q => { q with headWord := v } else s
  | 0x130 => s.preempt (nbits b 11 0) (nbit b 12) (nbit b 13)
  | 0x131 => s.resume (nbits b 11 0)
  | _ => s

/-- A write of a per-lane register, in one lane (R99, R107, R380, R381). -/
def Thread.csrLane (th : Thread) (ctx n : Nat) (v : Word) : Thread :=
  let b := v.toNat
  let low2 : Word := ~~~3
  match n with
  | 0x022 => { th with trappc := v &&& low2 }
  | 0x102 => { th with uhnd := nbit b 3, shnd := nbit b 2, ppriv := v.setWidth 2 }
  | 0x103 => { th with utcause := v &&& 0x1FF }
  | 0x104 => { th with utpc := v &&& low2 }
  | 0x105 => { th with utval := v }
  | 0x106 => { th with sscratch := v }
  | 0x107 => if ctx = 0 then { th with ctxsel := nbits b 11 0 } else th
  | _ => th

/-- Per-lane registers that CSRW writes. -/
def csrPerLane (n : Nat) : Bool := n = 0x022 || (0x102 ≤ n && n ≤ 0x107)

end Sys2Proof.Machine
end

