-- ==== Sys2Proof/Machine/Stage.lean ====
section
/-!
DEFINITION. Stage barriers (R332 to R335): the object of 16 bytes, its steps at the SRAM port, and STGINIT, STGEXP,
STGARV, STGWAIT and STGTRY.
-/

namespace Sys2Proof.Machine

-- The object (R332).

/-- The 16 bytes of a stage barrier as one number, byte 0 lowest. -/
abbrev StgBits := BitVec 128

def stgGet (b : StgBits) (lo n : Nat) : Nat := b.toNat / 2 ^ lo % 2 ^ n
def stgSet (b : StgBits) (lo n v : Nat) : StgBits :=
  BitVec.ofNat 128 (b.toNat - stgGet b lo n * 2 ^ lo + v % 2 ^ n * 2 ^ lo)

def stgExpect (b : StgBits) : Nat := stgGet b 0 16
def stgArrived (b : StgBits) : Nat := stgGet b 16 16
def stgPhase (b : StgBits) : Nat := stgGet b 32 1
def stgOvr (b : StgBits) : Nat := stgGet b 33 1
def stgInv (b : StgBits) : Nat := stgGet b 34 1
def stgGen (b : StgBits) : Nat := stgGet b 48 12
def stgCount (b : StgBits) : Int := sint 40 (stgGet b 64 40)
def stgPend (b : StgBits) : Nat := stgGet b 104 16

/-- COUNT plus a number, mod 2^40 (R333). -/
def stgAdd (b : StgBits) (n : Int) : StgBits := stgSet b 64 40 (wrap 40 (stgCount b + n))

/-- check (R332). -/
def stgCheck (b : StgBits) : StgBits :=
  if stgExpect b ≤ stgArrived b ∧ stgCount b ≤ 0 then stgSet (stgSet b 32 1 (1 - stgPhase b)) 16 16 0 else b

/-- charge(n, g) (R332): the object, and the status that the command reaches at least: 0, OVERRUN or STALE. -/
def stgCharge (b : StgBits) (n g : Nat) : StgBits × Nat :=
  if stgGen b ≠ g ∨ stgInv b = 1 then (b, 3)
  else
    let b := stgAdd b (-(n : Int))
    if stgCount b < 0 then (stgCheck (stgSet b 33 1 1), 2) else (stgCheck b, 0)

/-- An update of PEND, under charge's generation rule (R332). -/
def stgPendBy (b : StgBits) (g : Nat) (n : Int) : StgBits :=
  if stgGen b ≠ g ∨ stgInv b = 1 then b else stgSet b 104 16 (wrap 16 (stgPend b + n))

/-- STGINIT (R333). -/
def stgInit (b : StgBits) (expect : Nat) : StgBits :=
  BitVec.ofNat 128 (expect % 65536 + stgPhase b * 2 ^ 32 + (stgGen b + 1) % 4096 * 2 ^ 48 + stgPend b * 2 ^ 104)

/-- status (R333), for a token's low bit. -/
def stgStatus (b : StgBits) (token : Nat) : Nat :=
  stgPhase b + 2 * stgOvr b + 4 * stgInv b + (if stgPhase b ≠ token % 2 ∨ stgInv b = 1 then 8 else 0)

-- Where it lies.

/-- Where a workgroup's stage barrier at a view offset lies: in SRAM, or in the area of a saved workgroup (R326). -/
def State.stgLoc (s : State) (wg off : Nat) : Option Loc :=
  match s.wg? wg with
  | some w => some (.sram w.cluster (w.phys off))
  | none => (s.saved? wg).map fun v => .mem .dev (v.1.area + v.2.areaView + off) false

/-- The object at a location. -/
def State.stgRead (s : State) (l : Loc) : StgBits :=
  BitVec.ofNat 128 (leNat (match l with
    | .sram c o => s.sramBytes c o 16
    | .mem sp a _ => s.homeBytes sp a 16))

/-- Write the object by one action at the SRAM port, which conflicts with transactions (R296, R332). -/
def State.stgWrite (s : State) (me : Option UnitId) (l : Loc) (b : StgBits) : State :=
  match l with
  | .sram c o => (s.conflict c me true l.lineId).sramWrite c o (leBytes 16 b.toNat)
  | .mem sp a _ => s.homeWrite sp a (leBytes 16 b.toNat)

/-- A step at the SRAM port reads the object: a transaction that has written its line aborts (R296). -/
def State.stgSeen (s : State) (me : Option UnitId) (l : Loc) : State :=
  match l with
  | .sram c _ => s.conflict c me false l.lineId
  | .mem _ _ _ => s

/-- A step of an engine on the object, which writes it where it changes (R296, R332). -/
def State.stgStep (s : State) (l : Loc) (old b : StgBits) : State :=
  if b = old then s.stgSeen none l else s.stgWrite none l b

/-- Change the record of the scopes that have charged a workgroup's barrier: those of its current phase and of the phase
completed last (R310). -/
def State.stgNote (s : State) (wg : Nat) (l : Loc) (f : List Scope × List Scope → List Scope × List Scope) : State :=
  match l with
  | .sram _ o => s.modWg wg fun w =>
    let k := o - w.scratchBase
    { w with stgScopes := mput w.stgScopes k (f (mget ([], []) w.stgScopes k)) }
  | .mem _ _ _ => s

/-- Scopes enter a barrier's record in a step that leaves a phase, or completes it. -/
def stgEnter (scs : List Scope) (done : Bool) (r : List Scope × List Scope) : List Scope × List Scope :=
  let now := (r.1 ++ scs).eraseDups
  if done then ([], now) else (now, r.2)

/-- The scopes at which an observation of the phase completed last acquires: CLUSTER, and those of the commands that
charged it (R310, R335). -/
def State.stgScopes (s : State) (wg : Nat) (l : Loc) : List Scope :=
  match l, s.wg? wg with
  | .sram _ o, some w => .cluster :: (mget ([], []) w.stgScopes (o - w.scratchBase)).2
  | .sram _ _, none | .mem _ _ _, _ => [.cluster]

/-- Charge landed bytes of a command of a scope to a workgroup's barrier; the status reached at least. -/
def State.charge (s : State) (wg off n g : Nat) (sc : Scope) : State × Nat :=
  match s.stgLoc wg off with
  | none => (s, 3)
  | some l =>
    let b := s.stgRead l
    let (b', st) := stgCharge b n g
    let s := s.stgStep l b b'
    (if st = 3 then s else s.stgNote wg l (stgEnter [sc] (stgPhase b' ≠ stgPhase b)), st)

/-- Add to PEND of a workgroup's barrier. An update that the generation rule discards leaves the command's status, a
choice of the model: R332 applies the rule of charge and does not say whether its status goes with it (log entry 115).
-/
def State.pendBy (s : State) (wg off g : Nat) (n : Int) : State :=
  match s.stgLoc wg off with
  | none => s
  | some l => s.stgStep l (s.stgRead l) (stgPendBy (s.stgRead l) g n)

-- The instructions.

/-- The offset of a stage-barrier address in the scratchpad part of the own window view, or its trap (R334). -/
def Issuer.stgOff (x : Issuer) (va : Word) : Except Nat Nat :=
  let off := va.toNat % 2 ^ 19
  let own := isWindow va && (ownForm va || (nbits va.toNat 24 19 = clX x.cl && nbits va.toNat 29 25 = clY x.cl))
  if va.toNat % 16 ≠ 0 then .error 4
  else if own && off + 16 ≤ x.w.cfg.scratch then .ok off
  else .error 8

/-- The frame of the STG instructions (R313): once for the unit, with the operands of the lowest active lane. `act` gets
the state after the read, the object's location, its bits and the operand, and answers a trap subcode or the state. -/
def State.stg (s : State) (ra : R5) (rb rd : Option R5)
    (act : State → Issuer → Fields → Loc → StgBits → Word → State ⊕ Nat) : Host.Outcome State Fault Refusal :=
  s.onUnit fun x =>
    let f : Fields := { a := some (.s ra), b := rb.map .s, dst := rd.map .s }
    if x.u.tx.isSome then s.abortExplicit x
    else match s.gate x f with
      | .stop s' => s'
      | .go pt =>
        let v := (x.w.thr x.lead).vals f
        let all := fun (s : State) (c : Nat) (y : Word) =>
          s.trapLanes x false (mergeTraps x.active pt (x.active.map fun t => (t, c, y)))
        match x.stgOff v.sa with
        | .error c => all s c v.sa
        | .ok off =>
          let l := Loc.sram x.cl (x.w.phys off)
          match s.readFail x.cl (pipeOf x.lead) l 16 with
          | some c => all s c v.sa
          | none =>
            let seen := s.stgSeen (some x.id) l
            match act seen x f l (s.stgRead l) v.sb with
            | .inr sub => all seen 0x0E (w64 sub)
            | .inl s' => if pt.isEmpty then s' else seen.trapLanes x false pt

/-- STGINIT (R333, R334). -/
def execStginit (ra rb : R5) (s : State) : Host.Outcome State Fault Refusal :=
  s.stg ra (some rb) none fun s x f l b y =>
    if stgPend b ≠ 0 then .inr 5
    else if y.toNat % 65536 = 0 then .inr 6
    else .inl (((s.stgWrite (some x.id) l (stgInit b y.toNat)).stgNote x.id.wg l fun r => ([], r.2)).commit x f fun _ => {})

/-- STGEXP (R333). -/
def execStgexp (ra rb : R5) (s : State) : Host.Outcome State Fault Refusal :=
  s.stg ra (some rb) none fun s x f l b y =>
    .inl ((s.stgWrite (some x.id) l (stgAdd b (y.toNat % 2 ^ 32 : Nat))).commit x f fun _ => {})

/-- STGARV (R333 to R335): a release at CLUSTER. -/
def execStgarv (rd ra rb : R5) (s : State) : Host.Outcome State Fault Refusal :=
  s.stg ra (some rb) (some rd) fun s x f l b y =>
    if stgExpect b ≤ stgArrived b then .inr 9
    else
      let b' := stgAdd b (y.toNat % 2 ^ 32 : Nat)
      let b' := stgCheck (stgSet b' 16 16 (stgArrived b' + 1))
      let s := (s.release x.cl x.live .cluster).stgWrite (some x.id) l b'
      .inl ((s.stgNote x.id.wg l (stgEnter [] (stgPhase b' ≠ stgPhase b))).commit x f fun _ => .ofS (w64 (stgPhase b)))

/-- The acquire of an observation that finds a barrier's phase complete: at CLUSTER, and at the scopes of the commands
whose charges the phase counted (R310, R335). -/
def State.stgAcquire (s : State) (x : Issuer) (l : Loc) : State :=
  (s.stgScopes x.id.wg l).foldl (fun s sc => s.acquire x.cl x.live sc) s

/-- What STGWAIT and STGTRY do once they return: a status, and an acquire where the phase is complete (R335). -/
def State.stgReturn (s : State) (x : Issuer) (f : Fields) (l : Loc) (b : StgBits) (y : Word) : State :=
  let st := stgStatus b y.toNat
  let s := if 8 ≤ st ∧ stgInv b = 0 then s.stgAcquire x l else s
  s.commit x f fun _ => .ofS (w64 st)

/-- STGWAIT (R333, R347). -/
def execStgwait (rd ra rb : R5) (s : State) : Host.Outcome State Fault Refusal :=
  s.stg ra (some rb) (some rd) fun s x f l b y =>
    .inl (if stgStatus b y.toNat < 8 then s.stallIn x .watched else s.stgReturn x f l b y)

/-- STGTRY (R333). -/
def execStgtry (rd ra rb : R5) (s : State) : Host.Outcome State Fault Refusal :=
  s.stg ra (some rb) (some rd) fun s x f l b y => .inl (s.stgReturn x f l b y)

end Sys2Proof.Machine
end

