-- ==== Sys2Proof/Machine/Command.lean ====
section
/-!
DEFINITION. ENQ, DEQ and EQRY (R305 to R307, R313 to R315) and the semaphore instructions (R336, R337).
-/

namespace Sys2Proof.Machine

-- Commands (R306).

/-- The scope of a command (R306); none where SCOPE is malformed. -/
def engScope (n : Nat) : Option Scope :=
  match n with
  | 0 | 4 => some .device
  | 2 => some .cluster
  | 3 => some .die
  | 5 => some .domain
  | 6 => some .system
  | _ => none

def Cmd.scope (c : Cmd) : Scope := (engScope (nbits c.d0.toNat 55 53)).getD .device
def Cmd.cap (c : Cmd) : Nat := nbits c.d3.toNat 63 40
def Cmd.mbox (c : Cmd) : Bool := nbit c.d3.toNat 33
def Cmd.sem (c : Cmd) : Bool := nbit c.d3.toNat 32
def Cmd.semn (c : Cmd) : Nat := nbits c.d3.toNat 31 20
def Cmd.stg (c : Cmd) : Bool := nbit c.d3.toNat 19
def Cmd.sboff (c : Cmd) : Nat := nbits c.d3.toNat 18 0
def Cmd.len (c : Cmd) : Nat := nbits c.d0.toNat 39 0
def Cmd.crc (c : Cmd) : Nat := nbits c.d0.toNat 52 51
def Cmd.codec (c : Cmd) : Nat := nbits c.d0.toNat 50 48
/-- The storage queue that a storage command names (R330). -/
def Cmd.queue (c : Cmd) : Nat := nbits c.d0.toNat 47 40
def Cmd.isColl (c : Cmd) : Bool := 0x10 ≤ c.op && c.op ≤ 0x13
def Cmd.isStorage (c : Cmd) : Bool := 0x20 ≤ c.op && c.op ≤ 0x22
/-- A listed opcode (R307). -/
def Cmd.listed (c : Cmd) : Bool := (1 ≤ c.op && c.op ≤ 9) || c.isColl || c.isStorage

/-- Bits of d0 [52:0] that a command uses (R316, R330). -/
def Cmd.used0 (c : Cmd) : Nat :=
  match c.op with
  | 0x01 => 3 * 2 ^ 51 + (2 ^ 40 - 1)
  | 0x02 => 31 * 2 ^ 48 + (2 ^ 40 - 1)
  | 0x07 => 15 * 2 ^ 44 + (2 ^ 40 - 1)
  | 0x20 => 255 * 2 ^ 40 + 65535
  | 0x21 => 255 * 2 ^ 40 + 2 ^ 32 + 65535
  | 0x22 => 255 * 2 ^ 40
  | _ => 0

/-- Bits of d1 that a command uses. -/
def Cmd.used1 (c : Cmd) : Nat :=
  match c.op with
  | 0x08 => 2 ^ 44 - 1
  | 0x09 => 15 * 2 ^ 39
  | 0x22 => 0
  | _ => 2 ^ 64 - 1

/-- Bits of d2 that a command uses; WOPEN's barrier offset is used with LINK (R323). -/
def Cmd.used2 (c : Cmd) : Nat :=
  match c.op with
  | 0x01 | 0x02 | 0x07 | 0x20 | 0x21 => 2 ^ 64 - 1
  | 0x06 => 63
  | 0x08 => if nbit c.d1.toNat 43 then 2 ^ 19 - 1 else 0
  | _ => 0

/-- Whether some unused or reserved field is not zero, or a code is reserved (R307, subcode 0x02). SEMN is used with SEM
and SBOFF with STG (R306). -/
def Cmd.reserved (c : Cmd) : Bool :=
  nbits c.d0.toNat 52 0 &&& c.used0 ≠ nbits c.d0.toNat 52 0 || c.d1.toNat &&& c.used1 ≠ c.d1.toNat ||
    c.d2.toNat &&& c.used2 ≠ c.d2.toNat || nbits c.d3.toNat 39 34 ≠ 0 || (c.op ≠ 2 && c.cap ≠ 0) ||
    (!c.sem && c.semn ≠ 0) || (!c.stg && c.sboff ≠ 0) ||
    ((c.op = 1 || c.op = 2) && c.crc = 3) || (c.op = 2 && c.codec ≠ 1 && c.codec ≠ 2) ||
    (c.op = 6 && nbit c.d2.toNat 5 && nbits c.d2.toNat 4 3 ≠ 0)

/-- A field of a storage queue's entry (R406). -/
def State.sqField (s : State) (q off n : Nat) : Nat := leNat (mgets 0 s.sqTable (64 * q + off) n)

/-- Blocks of a read or write (R330). -/
def Cmd.blocks (c : Cmd) : Nat := nbits c.d0.toNat 15 0 + 1

/-- Bytes that a storage command transfers; `size` is byte 40 of its queue's entry, with the block size (R406). -/
def Cmd.moved (c : Cmd) (size : Nat) : Nat :=
  if c.op = 0x22 then 0 else c.blocks * (if nbit size 0 then 4096 else 512)

/-- The pieces of a buffer page by page: address and size. -/
def bufPages : Nat → Nat → Nat → List (Nat × Nat)
  | 0, _, _ => []
  | fuel + 1, va, n =>
    if n = 0 then []
    else
      let k := min n (4096 - va % 4096)
      (va, k) :: bufPages fuel (va + k) (n - k)

/-- Bytes of device memory become undefined, at home and in every L1 copy (R331). -/
def State.undef (s : State) (pa n : Nat) : State :=
  let line := fun (l : L1Line) => (List.range 32).foldl (fun (l : L1Line) i =>
    let a := 32 * l.line + i
    if l.sp = .dev ∧ pa ≤ a ∧ a < pa + n then
      { l with data := vsetByte l.data i (Config.freeByte (s.free + n + (a - pa))) } else l) l
  { s with
    mem := msets 0 s.mem pa ((List.range n).map fun i => Config.freeByte (s.free + i))
    clusters := s.clusters.map fun c => (c.1, { c.2 with l1 := c.2.l1.map line })
    free := s.free + 2 * n }

/-- The translation that an I/O die's TLB holds (R382). -/
def State.ioFind (s : State) (die ctx : Nat) (va : Word) : Option TlbEnt :=
  (mget [] s.ioTlb die).find? fun t => t.hits ctx va

/-- The bytes of an SREAD buffer are undefined from its ENQ on (R331). -/
def State.undefBuffer (s : State) (ctx : Nat) (c : Cmd) : State :=
  let n := c.moved (s.sqField c.queue 40 1)
  (bufPages (n / 4096 + 2) c.d1.toNat n).foldl (fun s p =>
    match s.engineLoc (s.ioFind (s.sqField c.queue 41 1) ctx (w64 p.1)) ctx c.priv .store (w64 p.1) with
    | some (.mem .dev pa _) => s.undef pa p.2
    | some (.mem (.peer _) _ _) | some (.mem .host _ _) | some (.mem .pcie _ _) | some (.sram _ _) | none => s) s

/-- Whether a storage queue is granted to a context (R406, R407). -/
def State.sqGranted (s : State) (q ctx : Nat) : Bool :=
  let g := s.sqField q 44 2
  nbit g 15 && (nbit g 14 || nbits g 11 0 = ctx)

/-- The member bits of a launch's ensemble; bit 0 without one (R307, R324). -/
def LaunchRec.members (r : LaunchRec) : Nat := maskOf 64 fun i => i % 8 < r.ew && i / 8 < r.eh

/-- The subcode of trap 0x10 that a command raises at ENQ: the lowest that holds (R307). -/
def State.enqTrap (s : State) (x : Issuer) (c : Cmd) : Option Nat :=
  let k := s.ctx x.w.ctx
  if !c.listed then some 1
  else if c.reserved then some 2
  else if (engScope (nbits c.d0.toNat 55 53)).isNone ||
      (c.stg && (c.sboff % 16 ≠ 0 || x.w.cfg.scratch < c.sboff + 16)) || (c.sem && k.semSize ≤ c.semn) then some 3
  else if c.isStorage && !s.sqGranted c.queue x.w.ctx then some 4
  else if c.isStorage && c.op ≠ 0x22 &&
      (c.d1.toNat % 4 ≠ 0 || s.sqField c.queue 42 2 < nbits c.d0.toNat 15 0) then some 5
  else if c.op = 6 && x.w.cfg.tiles = 0 then some 6
  else if c.op = 7 && (c.d2.toNat &&& x.w.cfg.members ≠ c.d2.toNat || c.len = 0 || 458752 < c.len) then some 7
  else if c.op = 2 && c.cap = 0 then some 8
  else none

/-- The addresses that a command names as operands in memory (R316, R320 to R324, R328, R330). -/
def Cmd.operands (c : Cmd) : List Word :=
  match c.op with
  | 0x01 | 0x02 => if c.len = 0 then [] else [c.d1, c.d2]
  | 0x07 => if c.len = 0 then [] else [c.d1]
  | 0x03 | 0x04 | 0x05 | 0x06 | 0x10 | 0x11 | 0x12 | 0x13 | 0x20 | 0x21 => [c.d1]
  | _ => []

/-- The trap that a command raises at ENQ, of the lower code (R377): an operand at a non-canonical address (R265), or a
failed check of R307. -/
def State.enqFault (s : State) (x : Issuer) (c : Cmd) : Option (Nat × Word) :=
  match c.operands.find? fun a => !canonical a with
  | some a => some (8, a)
  | none => (s.enqTrap x c).map fun k => (0x10, w64 k)

/-- A result that ENQ.NB gives when it pushes nothing (R314). -/
def enqBusy : Word := BitVec.allOnes 64

/-- ENQ (R305, R307, R308, R314). The FIFO, the tag and the mailbox are those of the thread on the lowest pipe of the
span. -/
def execEnq (nb : Bool) (rd ra : R5) (s : State) : Host.Outcome State Fault Refusal :=
  s.onUnit fun x =>
    let f : Fields := { a := some (.s ra), b := some (.s (ra + 1)), c := some (.s (ra + 2)), d := some (.s (ra + 3))
                        dst := some (.s rd) }
    match s.gate x f with
      | .stop s' => s'
      | .go pt =>
        let v := (x.w.thr x.lead).vals f
        let own := x.w.thr x.id.t
        let c : Cmd := { d0 := v.sa, d1 := v.sb, d2 := v.sc, d3 := v.sd, tag := own.nextTag, priv := x.u.sh.priv }
        match s.enqFault x c with
        | some k => s.trapLanes x false (mergeTraps x.active pt (x.active.map fun t => (t, k.1, k.2)))
        | none =>
          if !pt.isEmpty then s.trapLanes x false pt
          else if x.u.tx.isSome then s.abortExplicit x
          else if 4 ≤ own.fifo.length || (c.mbox && own.mbox.free = 0) then
            if nb then s.commit x f fun _ => .ofS enqBusy else s.stall
          else if s.releaseWaits x x.live c.scope then s.releaseStall x c.scope
          else
            let s := s.release x.cl x.live c.scope
            let (s, fl) := if f.push.isSome then s.takeHalf x else s.takeFlag x
            let s := s.modThr x.id.wg x.id.t fun th => { th with
              fifo := th.fifo ++ [{ c with flag := fl }], nextTag := (th.nextTag + 1) % 2 ^ 16
              mbox := if c.mbox then { th.mbox with reserved := th.mbox.reserved + 1 } else th.mbox }
            let s := s.commit x f fun _ => .ofS (w64 c.tag)
            let s := if c.op = 0x20 then s.undefBuffer x.w.ctx c else s
            match f.push with
            | some p => s.halvePort x p (fl.bind (·.half))
            | none => s

/-- Whether a message is the completion with a tag. -/
def Msg.isDone (m : Msg) (tag : Nat) : Bool := nbits m.hdr.toNat 63 60 = 1 && nbits m.hdr.toNat 55 40 = tag

/-- Write a message to s[rd] and s[rd+1] of threads (R311). -/
def State.putMsg (s : State) (x : Issuer) (ts : List Nat) (rd : R5) (m : Msg) : State :=
  ts.foldl (fun s t => (s.setS x.id.wg t rd m.body).setS x.id.wg t (rd + 1) m.hdr) s

/-- DEQ (R310, R315, R347). -/
def execDeq (rd ra : R5) (s : State) : Host.Outcome State Fault Refusal :=
  s.onUnit fun x =>
    let f : Fields := { a := some (.s ra), dst := some (.s rd) }
    if x.u.tx.isSome then s.abortExplicit x
    else match s.gate x f with
      | .stop s' => s'
      | .go pt =>
        if !pt.isEmpty then s.trapLanes x false pt
        else if s.scoreboard x [.s (rd + 1)] then s.stall
        else
          let tag := ((x.w.thr x.lead).vals f).sa.toNat % 65536
          let ms := (x.w.thr x.id.t).mbox.msgs
          match ms.find? fun m => m.isDone tag with
          | none => s.stallIn x .watched
          | some m =>
            let s := s.modThr x.id.wg x.id.t fun th => { th with mbox := { th.mbox with
              msgs := th.mbox.msgs.eraseIdx (ms.findIdx fun m => m.isDone tag) } }
            let s := (s.popAll x f).acquire x.cl x.live m.sc
            (s.putMsg x x.active rd m).retire x

/-- EQRY's word (R315). Accepted commands that an earlier task of the slot has pushed count with the others: a choice of
the model, since R315 names no task (log entry 116). -/
def State.eqryWord (s : State) (x : Issuer) (sel : Bool) (a : Word) : Word :=
  let th := x.w.thr x.id.t
  if sel then
    let e := mget {} (s.cl x.cl).windows (a.toNat % 16)
    w64 ((match e.st with
        | .closed => 0
        | .opened => 1
        | .inv => 2) + 4 * e.gen + 2 ^ 14 * e.off + 2 ^ 33 * e.size + 2 ^ 53 * bnat e.link +
      2 ^ 54 * bnat (e.owner = some x.w.id))
  else
    let n := (s.cmds.filter fun c => c.wg == x.id.wg && c.t == x.id.t).length
    w64 (th.fifo.length + 2 ^ 8 * min n 255 + 2 ^ 16 * th.nextTag)

/-- EQRY (R313, R315): once for the unit. -/
def execEqry (sel : Bool) (rd ra : R5) (s : State) : Host.Outcome State Fault Refusal :=
  s.onUnit fun x =>
    let f := fSS rd ra
    if x.u.tx.isSome then s.abortExplicit x
    else match s.gate x f with
      | .stop s' => s'
      | .go pt =>
        if !pt.isEmpty then s.trapLanes x false pt
        else
          let y := s.eqryWord x sel ((x.w.thr x.lead).vals f).sa
          s.commit x f fun _ => .ofS y

-- Semaphores (R336, R337).

/-- The frame of the SEM instructions: once for the unit; a number outside the context's range traps 0x08 (R336).
`act` gets the semaphore's absolute number and the operand. -/
def State.semOp (s : State) (rd : Option R5) (ra rb : R5) (act : Issuer → Fields → Nat → Word → State) :
    Host.Outcome State Fault Refusal :=
  s.onUnit fun x =>
    let f : Fields := { a := some (.s ra), b := some (.s rb), dst := rd.map .s }
    if x.u.tx.isSome then s.abortExplicit x
    else match s.gate x f with
      | .stop s' => s'
      | .go pt =>
        let v := (x.w.thr x.lead).vals f
        let k := s.ctx x.w.ctx
        let n := v.sa.toNat % 4096
        if k.semSize ≤ n then
          s.trapLanes x false (mergeTraps x.active pt (x.active.map fun t => (t, 8, w64 n)))
        else if !pt.isEmpty then s.trapLanes x false pt
        else act x f (k.semBase + n) v.sb

/-- SEMSIG (R337): a release at DEVICE. -/
def execSemsig (ra rb : R5) (s : State) : Host.Outcome State Fault Refusal :=
  s.semOp none ra rb fun x f i y =>
    if s.releaseWaits x x.live .device then s.stall
    else ((s.release x.cl x.live .device).semAdd i y).commit x f fun _ => {}

/-- SEMWAIT (R337, R347). -/
def execSemwait (rd ra rb : R5) (s : State) : Host.Outcome State Fault Refusal :=
  s.semOp (some rd) ra rb fun x f i y =>
    let v := mget 0 s.sems i
    if v < y then s.stallIn x .watched
    else (s.acquire x.cl x.live .device).commit x f fun _ => .ofS v

/-- SEMTRY (R337). -/
def execSemtry (rd ra rb : R5) (s : State) : Host.Outcome State Fault Refusal :=
  s.semOp (some rd) ra rb fun x f i y =>
    let v := mget 0 s.sems i
    (if v < y then s else s.acquire x.cl x.live .device).commit x f fun _ => .ofS v

end Sys2Proof.Machine
end

