-- ==== Sys2Proof/Machine/Message.lean ====
section
/-!
DEFINITION. Messages (R339 to R342), task activation (R28, R29, R366) and hardware barriers (R343 to R347).
-/

namespace Sys2Proof.Machine

-- SEND (R340).

/-- The cluster that a SEND descriptor names for a sender's cluster; none where R268's check of X and Y fails. -/
def sendTarget (src : Nat) (d : Word) : Option Nat :=
  let x := nbits d.toNat 13 8
  let y := nbits d.toNat 18 14
  if x = 63 ∧ y = 31 then some src else if 36 ≤ x ∨ 16 ≤ y then none else some (clusterAt x y)

/-- SEND is a release at CLUSTER where the target lies in the sender's cluster, else at DEVICE (R340). -/
def sendScope (src : Nat) (d : Word) : Scope := if sendTarget src d = some src then .cluster else .device

/-- The header of a user message: the sender's fields (R311). -/
def Issuer.srcHdr (x : Issuer) (t : Nat) : Word :=
  w64 (pipeOf t + 32 * x.w.colOf t + 256 * clX x.cl + 2 ^ 14 * clY x.cl)

/-- SEND (R313, R340): per active lane. -/
def execSend (ra rb : R5) (s : State) : Host.Outcome State Fault Refusal :=
  s.onUnit fun x =>
    let f : Fields := { a := some (.s ra), b := some (.s rb) }
    if x.u.tx.isSome then s.abortExplicit x
    else match s.gate x f with
      | .stop s' => s'
      | .go pt =>
        let v := fun t => (x.w.thr t).vals f
        let own := (x.readable f).filterMap fun t =>
          if (sendTarget x.cl (v t).sa).isNone then some (t, 8, (v t).sa) else none
        let ts := mergeTraps x.active pt own
        if !ts.isEmpty then s.trapLanes x false ts
        else if x.active.any fun t => s.releaseWaits x [t] (sendScope x.cl (v t).sa) then s.stall
        else
          let one := fun (s : State) (t : Nat) =>
            let s := s.release x.cl [t] (sendScope x.cl (v t).sa)
            let m : MsgFlight :=
              { id := s.nextId, wg := x.id.wg, t := t, src := x.cl, launch := x.w.launch, desc := (v t).sa
                body := (v t).sb, hdr := x.srcHdr t, flag := s.laneFlag x t, taskAt := x.taskAt }
            let s := match s.curFlag with
              | some cf => s.modThr x.id.wg t fun th => th.cfAdd cf
              | none => s
            { s with nextId := s.nextId + 1, flights := s.flights ++ [m] }
          (x.active.foldl one s).commit x f fun _ => {}

/-- The role that the placement table maps to a column of a workgroup (R88). -/
def CodeObj.roleOf (o : CodeObj) (ex ey col : Nat) : Nat :=
  match o.places.find? fun p => p.ex0 ≤ ex && ex ≤ p.ex1 && p.ey0 ≤ ey && ey ≤ p.ey1 && nbit p.cols col with
  | some p => p.role
  | none => 0

/-- The code object of a workgroup's launch. -/
def State.objOf (s : State) (w : Workgroup) : Option CodeObj := s.objects.find? fun o => o.handle == w.obj

/-- The role of a workgroup's column. -/
def State.wgRole (s : State) (w : Workgroup) (col : Nat) : Option Role :=
  match s.objOf w with
  | none => none
  | some o => o.roles[o.roleOf w.ex w.ey col]?

/-- What a message's descriptor selects (R340, R342). -/
def msgTask (d : Word) : Bool := nbit d.toNat 19
def msgCol (d : Word) : Nat := nbits d.toNat 6 5
def msgPipe (d : Word) : Nat := nbits d.toNat 4 0
def msgHoff (d : Word) : Nat := nbits d.toNat 63 32

/-- Whether a target workgroup refuses a message (R340, R342). -/
def State.msgRefused (s : State) (w : Workgroup) (d : Word) : Bool :=
  let t := 32 * msgCol d + msgPipe d
  if w.cfg.threads / 32 ≤ msgCol d then true
  else if msgTask d then
    w.cfg.taskSlots = 0 || 16 ≤ ((s.cl w.cluster).runq.filter fun e => e.pipe == msgPipe d).length ||
      match s.wgRole w (msgCol d) with
      | some r => r.textSize ≤ 4 * msgHoff d
      | none => true
  else (w.thr t).exited || (w.thr t).mbox.free = 0

/-- Whether two messages go from one sender to one mailbox or run queue; they arrive in issue order (R340). -/
def MsgFlight.sameWay (m n : MsgFlight) : Bool :=
  m.wg == n.wg && m.t == n.t && sendTarget m.src m.desc == sendTarget n.src n.desc &&
    msgTask m.desc == msgTask n.desc && msgPipe m.desc == msgPipe n.desc &&
    (msgTask m.desc || msgCol m.desc == msgCol n.desc)

/-- MESSAGE_ARRIVE: a message is written into its mailbox or run queue, or is refused (R339, R340, R342). On the sender's
own cluster the target is the sender's workgroup, elsewhere the one that R268 chooses. -/
def execMessageArrive (n : Nat) (s : State) : Host.Outcome State Fault Refusal :=
  .next <|
    match s.flights.find? fun m => m.id == n && !m.refused with
    | none => s
    | some m =>
      let first := s.flights.find? fun k => !k.refused && k.sameWay m
      if first.map (·.id) ≠ some n then s
      else
        let target := (sendTarget m.src m.desc).bind fun c =>
          if c = m.src then (s.wg? m.wg).filter fun w => w.cluster == c else s.target? m.launch c
        let refuse : State := { s with flights := s.flights.map fun k => if k.id = n then { k with refused := true } else k }
        match target with
        | none => refuse
        | some w =>
          if s.msgRefused w m.desc then refuse
          else
            let s := { s with flights := s.flights.filter fun k => k.id ≠ n }
            let s := if msgTask m.desc then
                s.modCl w.cluster fun cl => { cl with
                  runq := cl.runq ++ [⟨w.id, msgPipe m.desc, msgHoff m.desc, msgCol m.desc, m.body, m.hdr⟩] }
              else s.modThr w.id (32 * msgCol m.desc + msgPipe m.desc) fun th => { th with mbox := { th.mbox with
                msgs := th.mbox.msgs ++ [⟨m.body, m.hdr, sendScope m.src m.desc⟩] } }
            s.flagDone m.flag

/-- SEND_REFUSAL: a refusal returns: the sender's count, the error REFUSED, and the completion event (R340). That of a
task that has ended counts nowhere, nor does that of a thread that has exited, unless its group lives on (R314). -/
def execSendRefusal (n : Nat) (s : State) : Host.Outcome State Fault Refusal :=
  .next <|
    match s.flights.find? fun m => m.id == n && m.refused with
    | none => s
    | some m =>
      let s := { s with flights := s.flights.filter fun k => k.id ≠ n }
      let s := match s.saved? m.wg with
        | some (v, r) =>
          let img := v.area + r.areaImages + 4096 * m.t
          let at' := img + 0xB84
          let mute := nbit (s.homeByte .dev (img + 0x607)).toNat 0 && !nbit (s.homeByte .dev (img + 0x608)).toNat 7
          if m.taskAt.isSome || 128 ≤ m.t || mute then s
          else s.homeWrite .dev at' (leBytes 2 (min (leNat (s.homeBytes .dev at' 2) + 1) 65535))
        | none => s.modWg m.wg fun w => if !w.sameTask m.t m.taskAt || w.mute m.t then w
            else w.modThr m.t fun th => { th with mbox := { th.mbox with refused := min (th.mbox.refused + 1) 65535 } }
      (s.postErrorTo m.wg m.t m.taskAt 3 m.desc).flagDone m.flag

-- Reading mailboxes (R341).

/-- RECV (R341, R347): per active lane, when every active lane has a message. -/
def execRecv (rd : R5) (s : State) : Host.Outcome State Fault Refusal :=
  s.onUnit fun x =>
    if x.u.tx.isSome then s.abortExplicit x
    else if s.scoreboard x [.s rd, .s (rd + 1)] then s.stall
    else if x.active.any fun t => (x.w.thr t).mbox.msgs.isEmpty then s.stallIn x .watched
    else
      let one := fun (s : State) (t : Nat) =>
        match (x.w.thr t).mbox.msgs with
        | [] => s
        | m :: ms =>
          let s := s.modThr x.id.wg t fun th => { th with mbox := { th.mbox with msgs := ms } }
          (s.acquire x.cl [t] m.sc).putMsg x [t] rd m
      (x.active.foldl one s).retire x

/-- WAITMSG (R341, R347). -/
def execWaitmsg (s : State) : Host.Outcome State Fault Refusal :=
  s.onUnit fun x =>
    if x.u.tx.isSome then s.abortExplicit x
    else if x.active.any fun t => (x.w.thr t).mbox.msgs.isEmpty then s.stallIn x .watched
    else s.retire x

/-- MBQRY's word (R341). -/
def Mailbox.query (m : Mailbox) : Word :=
  w64 (m.msgs.length + 32 * m.reserved + 2 ^ 10 * (match m.msgs with
    | [] => 15
    | k :: _ => nbits k.hdr.toNat 63 60) + 2 ^ 16 * m.lost + 2 ^ 32 * m.refused)

/-- MBQRY (R341): answers, then clears both counts. -/
def execMbqry (rd : R5) (s : State) : Host.Outcome State Fault Refusal :=
  s.onUnit fun x =>
    let f : Fields := { dst := some (.s rd) }
    if x.u.tx.isSome then s.abortExplicit x
    else match s.gate x f with
      | .stop s' => s'
      | .go pt =>
        if !pt.isEmpty then s.trapLanes x false pt
        else
          let s := s.modThrs x.id.wg x.active fun _ th => { th with mbox := { th.mbox with lost := 0, refused := 0 } }
          s.commit x f fun t => .ofS (x.w.thr t).mbox.query

-- Tasks (R28, R29, R366).

/-- The lowest dormant task slot of a workgroup on a pipe: its thread index (R360, R366). -/
def Workgroup.dormant (w : Workgroup) (p : Nat) : Option Nat :=
  ((List.range w.cfg.taskSlots).map fun j => 128 + 32 * j + p).find? fun t => (mfind w.threads t).isNone

/-- A task's thread at activation (R29, R341, R373). -/
def taskThread (ctx : Nat) (pc : Word) (body hdr : Word) (clock col : Nat) : Thread :=
  { r := ({} : LaneRegs).sset 4 body |>.sset 5 hdr
    u := { pc := pc, sh := { priv := if ctx = 0 then .s else .u } }
    task := some (clock, col)
    gen := genSeed ({} : Shared).srseed 0 }

/-- TASK_ACTIVATE: the first entry of a pipe's run queue that can activate does (R366); activation is an acquire that
synchronises with the SEND (R341). -/
def execTaskActivate (cluster pipe : Nat) (s : State) : Host.Outcome State Fault Refusal :=
  .next <|
    let q := (s.cl cluster).runq
    let can := fun (i : Nat) =>
      match q[i]? with
      | none => none
      | some e =>
        if e.pipe ≠ pipe || (q.take i).any fun k => k.pipe == pipe && k.wg == e.wg then none
        else match s.wg? e.wg with
          | none => none
          | some w =>
            if s.saving w then none
            else match w.dormant pipe, s.wgRole w e.col with
              | some t, some r => some (i, e, w, t, r)
              | _, _ => none
    match (List.range q.length).findSome? can with
    | none => s
    | some (i, e, w, t, r) =>
      let s := s.modCl cluster fun cl => { cl with runq := cl.runq.eraseIdx i }
      let th := taskThread w.ctx (pcOf (r.textVa + 4 * e.hoff)) e.body e.hdr s.clock e.col
      (s.modWg w.id fun w => { w with threads := mput w.threads t th }).acquire cluster [t] .device

-- Hardware barriers (R343 to R345).

/-- Change a barrier of a workgroup. -/
def Workgroup.hbMod (w : Workgroup) (hb : Nat) (f : Hb → Hb) : Workgroup :=
  { w with hbs := mput w.hbs hb (f (mget {} w.hbs hb)) }

/-- The scope of a barrier's arrivals and waits (R344). -/
def Hb.scope (b : Hb) : Scope := if b.ens then .die else .cluster

/-- A thread mask from two scalar operands (R343). -/
def hbMask (a b : Word) : BitVec 128 := a.setWidth 128 ||| (b.setWidth 128 <<< 64)

/-- Traps that every HB instruction shares: barrier number and task threads (R334). -/
def Issuer.hbTrap (x : Issuer) (hb : Nat) : Option Nat :=
  if x.w.cfg.hb ≤ hb then some 1 else if x.isTask then some 8 else none

/-- The frame of the HB instructions: not in a transaction; the lanes' traps, with the lowest subcode first (R334).
`sub` gives a lane's own subcode where the shared ones do not hold. -/
def State.hbOp (s : State) (f : Fields) (hb : Nat) (sub : Issuer → Nat → Option Nat) (act : Issuer → State) :
    Host.Outcome State Fault Refusal :=
  s.onUnit fun x =>
    if x.u.tx.isSome then s.abortExplicit x
    else match s.gate x f with
      | .stop s' => s'
      | .go pt =>
        let own := (x.readable f).filterMap fun t =>
          let k := match x.hbTrap hb, sub x t with
            | some a, some b => some (min a b)
            | some a, none => some a
            | none, b => b
          k.map fun k => (t, 0x0E, w64 k)
        let ts := mergeTraps x.active pt own
        if ts.isEmpty then act x else s.trapLanes x false ts

/-- HBINIT's own subcodes (R334). -/
def Issuer.hbInitTrap (x : Issuer) (ens : Bool) (hb : Nat) (m : BitVec 128) : Option Nat :=
  if x.w.threads.any fun e => e.2.hbWait == some hb then some 2
  else if m = 0 || (List.range 128).any fun t => m.getLsbD t && x.w.cfg.threads ≤ t then some 4
  else if ens && x.w.cfg.ensW = 0 then some 7
  else none

/-- HBINIT (R343, R345): once for the unit, with the masks of the lowest active lane. -/
def execHbinit (ens : Bool) (hb : BitVec 4) (ra rb : R5) (s : State) : Host.Outcome State Fault Refusal :=
  let f : Fields := { a := some (.s ra), b := some (.s rb) }
  let mask := fun (x : Issuer) => let v := (x.w.thr x.lead).vals f; hbMask v.sa v.sb
  s.hbOp f hb.toNat (fun x _ => x.hbInitTrap ens hb.toNat (mask x)) fun x =>
    let s := s.modWg x.id.wg fun w => w.hbMod hb.toNat fun b =>
      { member := mask x, valid := true, ens := ens, released := b.released }
    (s.commit x f fun _ => {}).hbCheck x.id.wg hb.toNat

/-- A lane's arrival trap: not valid, no member, or already arrived (R334), or not made an ensemble barrier here where
another member has made it one (R345). -/
def State.arriveTrap (s : State) (x : Issuer) (hb t : Nat) : Option Nat :=
  let b := mget {} x.w.hbs hb
  let ens := (s.hbPeers x.w hb).any fun v => v.hbEns hb
  if !b.valid || !b.member.getLsbD t || b.arrived.getLsbD t || (ens && !b.ens) then some 3 else none

/-- The arrivals of lanes, which may complete the phase: a release (R344). -/
def State.hbArrive (s : State) (x : Issuer) (hb : Nat) (ts : List Nat) : State :=
  let b := mget {} x.w.hbs hb
  let s := s.release x.cl ts b.scope
  let s := s.modWg x.id.wg fun w => w.hbMod hb fun b =>
    { b with arrived := ts.foldl (fun m t => m ||| (1#128 <<< t)) b.arrived }
  s.hbCheck x.id.wg hb

/-- HBARV (R344). -/
def execHbarv (hb : BitVec 4) (rd : R5) (s : State) : Host.Outcome State Fault Refusal :=
  let f : Fields := { dst := some (.s rd) }
  s.hbOp f hb.toNat (fun x t => s.arriveTrap x hb.toNat t) fun x =>
    let b := mget {} x.w.hbs hb.toNat
    if s.releaseWaits x x.active b.scope then s.stall
    else (s.hbArrive x hb.toNat x.active).commit x f fun _ => .ofS (w64 (bnat b.phase))

/-- Whether a waiter with a token is let go (R344). -/
def Hb.open (b : Hb) (t : Nat) (token : Bool) : Bool := b.phase ≠ token || b.inv || b.released.getLsbD t

/-- HBWAIT's status for a thread (R344). -/
def Hb.status (b : Hb) (t : Nat) : Word := w64 (bnat b.phase + 2 * bnat (b.inv || b.released.getLsbD t))

/-- A completed wait: an acquire where INV is 0, and the waiters' marks go (R344). -/
def State.hbReturn (s : State) (x : Issuer) (hb : Nat) (f : Fields) : State :=
  match s.wg? x.id.wg with
  | none => s
  | some w =>
    let b := mget {} w.hbs hb
    let s := if b.inv || x.active.any fun t => b.released.getLsbD t then s else s.acquire x.cl x.active b.scope
    let s := s.modThrs x.id.wg x.active fun _ th => { th with hbWait := none, hbsync := none }
    let s := s.modWg x.id.wg fun w => w.hbMod hb fun b =>
      { b with released := x.active.foldl (fun m t => m &&& ~~~(1#128 <<< t)) b.released }
    s.commit x f fun t => .ofS (b.status t)

/-- HBWAIT (R344, R347). -/
def execHbwait (hb : BitVec 4) (rd rb : R5) (s : State) : Host.Outcome State Fault Refusal :=
  let f : Fields := { b := some (.s rb), dst := some (.s rd) }
  s.hbOp f hb.toNat (fun _ _ => none) fun x =>
    let b := mget {} x.w.hbs hb.toNat
    if x.active.all fun t => b.open t ((((x.w.thr t).vals f).sb).getLsbD 0) then s.hbReturn x hb.toNat f
    else (s.modThrs x.id.wg x.active fun _ th => { th with hbWait := some hb.toNat }).stallIn x .watched

/-- HBSYNC (R344, R347): the arrival is made at issue and stands while the wait is not ready. -/
def execHbsync (hb : BitVec 4) (rd : R5) (s : State) : Host.Outcome State Fault Refusal :=
  let f : Fields := { dst := some (.s rd) }
  let here := fun (x : Issuer) (t : Nat) => match (x.w.thr t).hbsync with
    | some h => h.hb == hb.toNat
    | none => false
  s.hbOp f hb.toNat (fun x t => if here x t then none else s.arriveTrap x hb.toNat t) fun x =>
    let b := mget {} x.w.hbs hb.toNat
    let now := x.active.filter fun t => !here x t
    if s.releaseWaits x now b.scope then s.stall
    else
      let s := if now.isEmpty then s else s.hbArrive x hb.toNat now
      let s := s.modThrs x.id.wg now fun _ th => { th with hbsync := some ⟨hb.toNat, b.phase, rd⟩ }
      match s.wg? x.id.wg with
      | none => s
      | some w =>
        let b' := mget {} w.hbs hb.toNat
        let token := fun t => match (w.thr t).hbsync with
          | some h => h.token
          | none => b.phase
        if x.active.all fun t => b'.open t (token t) then s.hbReturn x hb.toNat f
        else (s.modThrs x.id.wg x.active fun _ th => { th with hbWait := some hb.toNat }).stallIn x .watched

/-- HBINV on one workgroup: its waiters are released (R344). -/
def Workgroup.hbInv (w : Workgroup) (hb : Nat) : Workgroup :=
  let ws := w.threads.filter fun e => e.2.hbWait == some hb
  let w' := w.hbMod hb fun b =>
    { b with inv := true, valid := false, released := ws.foldl (fun m e => m ||| (1#128 <<< e.1)) b.released }
  { w' with
    threads := w.threads.map fun e => (e.1, if e.2.hbWait = some hb then { e.2 with hbWait := none } else e.2) }

/-- HBINV (R344, R345): on every member of an ensemble barrier. -/
def execHbinv (hb : BitVec 4) (s : State) : Host.Outcome State Fault Refusal :=
  s.hbOp {} hb.toNat (fun _ _ => none) fun x =>
    let ps := s.hbPeers x.w hb.toNat
    (ps.foldl (fun s v => s.modWg v.id fun v => v.hbInv hb.toNat) s).retire x

/-- HBQRY's word (R344). -/
def Workgroup.hbWord (w : Workgroup) (hb : Nat) : Word :=
  let b := mget {} w.hbs hb
  let mem := (List.range 128).filter fun t => b.member.getLsbD t
  let arr := mem.filter fun t => b.arrived.getLsbD t || (w.thr t).exited
  w64 (bnat b.valid + 2 * bnat b.phase + 4 * bnat b.inv + 8 * bnat b.ens + 16 * arr.length + 4096 * mem.length)

/-- HBQRY (R344). -/
def execHbqry (hb : BitVec 4) (rd : R5) (s : State) : Host.Outcome State Fault Refusal :=
  let f : Fields := { dst := some (.s rd) }
  s.hbOp f hb.toNat (fun _ _ => none) fun x => s.commit x f fun _ => .ofS (x.w.hbWord hb.toNat)

end Sys2Proof.Machine
end

