-- ==== Sys2Proof/Machine/Engine.lean ====
section
/-!
DEFINITION. What every engine command shares (R305 to R311, R316): its memory operands, the run of a command until it
completes or stops, and its charges.
-/

namespace Sys2Proof.Machine

/-- An accepted command. -/
def State.eng? (s : State) (n : Nat) : Option EngCmd := s.cmds.find? fun e => e.id == n
/-- Change an accepted command. -/
def State.modEng (s : State) (n : Nat) (f : EngCmd → EngCmd) : State :=
  { s with cmds := s.cmds.map fun e => if e.id = n then f e else e }

/-- The workgroup whose window an engine reaches on a cluster (R268, R316): the issuing one on its own cluster. -/
def State.engTarget (s : State) (e : EngCmd) (c : Nat) : Option Workgroup :=
  if c = e.cluster then (s.wg? e.wg).filter fun w => w.cluster == c else s.target? e.launch c

/-- The translation that the TLB of the engine running a command holds (R382): a cluster's, or for a storage command its
I/O die's. -/
def State.engHeld (s : State) (e : EngCmd) (va : Word) : Option TlbEnt :=
  if e.cmd.isStorage then s.ioFind (e.engine - 2000) e.ctx va
  else (s.cl e.cluster).tlbFind 32 e.ctx va

/-- Whether a byte operand of a command lies on a peer device that no link reaches now (R415). -/
def State.engFar (s : State) (e : EngCmd) (k : Access) (va : Word) : Bool :=
  canonical va && !isWindow va && match s.engineLoc (s.engHeld e va) e.ctx e.cmd.priv k va with
    | some l => s.farLoc l
    | none => false

/-- Whether a request of a moment that no link can carry has waited the time of R415: 1 ms from then, or from when the
last port went down. -/
def State.linkDue (s : State) (since : Nat) : Bool :=
  !s.linkUp && s.usClocks 1000 ≤ s.clock - max since s.linkDownAt

/-- Where a byte operand of a command lies; none where a pipe access of the launch would be refused (R316), and where
it lies on a peer device while no link is up. -/
def State.engByte (s : State) (e : EngCmd) (k : Access) (va : Word) : Option Loc :=
  if !canonical va then none
  else if isWindow va then
    let x := nbits va.toNat 24 19
    let y := nbits va.toNat 29 25
    let off := va.toNat % 2 ^ 19
    if !ownForm va && (36 ≤ x || 16 ≤ y) then none
    else match s.engTarget e (if ownForm va then e.cluster else clusterAt x y) with
      | none => none
      | some w => if w.cfg.inView off 1 then some (.sram w.cluster (w.phys off)) else none
  else match s.engineLoc (s.engHeld e va) e.ctx e.cmd.priv k va with
    | some (.mem (.peer d) pa nc) => if s.linkUp then some (.mem (.peer d) pa nc) else none
    | l => l

/-- Whether the sector of a byte fails its check for a command: copy commands read through the cluster-shared part,
the others at home (R303, R308). -/
def State.engBad (s : State) (e : EngCmd) (l : Loc) : Bool :=
  (match l with
    | .mem sp a _ => if e.cmd.isCopy then s.engineFail e.cluster l 1 else s.memFail sp a 1
    | .sram k o => s.sramFail k o 1).isSome

/-- The die that a command's engine stands on, 8 for an I/O die, which is the home of no page. -/
def EngCmd.die (e : EngCmd) : Nat :=
  if e.cmd.isCopy then clDie e.cluster else if e.cmd.isColl then e.engine - 1000 else 8

/-- The walk that an engine makes for an address whose translation its TLB does not hold (R274, R296, R382). -/
def State.engWalk (s : State) (e : EngCmd) (va : Word) : State :=
  if isWindow va || (s.engHeld e va).isSome then s
  else
    let s := s.walkSeen e.die e.ctx va
    if e.cmd.isCopy then s.walkMeets e.cluster e.ctx va else s

/-- What reading a sector does beside reading (R274, R296). -/
def State.engSeen (s : State) (e : EngCmd) (va : Word) (l : Loc) : State :=
  let s := s.engWalk e va
  match l with
  | .mem sp a _ => if e.cmd.isCopy then s.engineSeen e.cluster l else s.homeSeen e.die sp a
  | .sram _ _ => s.engineSeen e.cluster l

/-- The byte at a location, as the engine of a command reads it (R308). -/
def State.engGet (s : State) (e : EngCmd) (l : Loc) : Byte :=
  (match l with
    | .mem sp a _ => if e.cmd.isCopy then s.engineRead e.cluster l 1 else s.homeBytes sp a 1
    | .sram _ _ => s.engineRead e.cluster l 1).headD 0

/-- Read an operand byte: where it lies and its value, or the status and body with which the command stops (R311). -/
def State.engRead1 (s : State) (e : EngCmd) (va : Word) : Except (Nat × Word) (Loc × Byte) :=
  match s.engByte e .load va with
  | none => .error (4, va)
  | some l => if s.engBad e l then .error (5, va &&& ~~~31) else .ok (l, s.engGet e l)

/-- A command in its run: the state, the status so far, the body, whether it has stopped, and whether an operand lies
where no link reaches. -/
structure ERun where
  s : State
  st : Nat := 0
  body : Word := 0
  halt : Bool := false
  far : Bool := false

/-- Whether a command waits instead of this run: for a link, until its time has passed (R415, log entry 39). -/
def ERun.waits (r : ERun) (s : State) (e : EngCmd) : Bool := r.far && !s.linkDue e.since

/-- A command stops with a status of 4 or above. Of several conditions it reports the highest, with its body (R311). -/
def ERun.stop (r : ERun) (st : Nat) (body : Word) : ERun :=
  if r.halt then r else { r with st := max r.st st, body := if r.st ≤ st then body else r.body, halt := true }

/-- A command reaches a status at least. -/
def ERun.atLeast (r : ERun) (st : Nat) : ERun := { r with st := max r.st st }

/-- Read one more byte, as it stands in a state; nothing once the command has stopped. `first` says that no byte of its
sector has been read before. -/
def ERun.read1 (e : EngCmd) (from' : State) (first : Bool) (va : Word) (p : ERun × List Byte) : ERun × List Byte :=
  if p.1.halt then p
  else match from'.engRead1 e va with
    | .error c => ({ p.1.stop c.1 c.2 with far := p.1.far || from'.engFar e .load va }, p.2)
    | .ok (l, x) =>
      ({ p.1 with s := if first || va.toNat % 32 = 0 then p.1.s.engSeen e va l else p.1.s }, p.2 ++ [x])

/-- Read `k` bytes from an address on; fewer where the command stops. -/
def ERun.readN (r : ERun) (e : EngCmd) (va : Word) (k : Nat) : ERun × List Byte :=
  (List.range k).foldl (fun p i => ERun.read1 e p.1.s (i == 0) (va + w64 i) p) (r, [])

/-- Charge landed bytes to the command's stage barrier (R332). -/
def ERun.charge (r : ERun) (e : EngCmd) (n : Nat) : ERun :=
  match e.stgGen with
  | none => r
  | some g =>
    if n = 0 then r
    else
      let (s, st) := r.s.charge e.wg e.cmd.sboff n g e.cmd.scope
      { r with s := s, st := max r.st st }

/-- Charge landed bytes in landings of 256 bytes at most (R332). -/
def ERun.chargeAll (e : EngCmd) : Nat → Nat → ERun → ERun
  | 0, _, r => r
  | fuel + 1, n, r => if n = 0 then r else ERun.chargeAll e fuel (n - min n 256) (r.charge e (min n 256))

/-- Write bytes at a location, as the engine of a command writes them (R308). -/
def State.engPut (s : State) (e : EngCmd) (l : Loc) (bs : List Byte) : State :=
  match l with
  | .mem sp a _ => if e.cmd.isCopy then s.engineWrite e.cluster l bs else s.homeWrite sp a bs
  | .sram _ _ => s.engineWrite e.cluster l bs

/-- Write bytes that lie in one sector, as far as they may be written, and charge them. -/
def ERun.putSector (r : ERun) (e : EngCmd) (va : Word) (bs : List Byte) : ERun :=
  if r.halt then r
  else
    let ok := fun (i : Nat) => (r.s.engByte e .store (va + w64 i)).isSome
    let n := ((List.range bs.length).find? fun i => !ok i).getD bs.length
    let r' := match r.s.engByte e .store va with
      | some l => if n = 0 then r else { r with s := (r.s.engWalk e va).engPut e l (bs.take n) }.charge e n
      | none => r
    if n < bs.length then
      { r'.stop 4 (va + w64 n) with far := r.far || r.s.engFar e .store (va + w64 n) }
    else r'

/-- Write bytes from an address on, sector by sector; at most `fuel` pieces. -/
def ERun.put (e : EngCmd) : Nat → Word → List Byte → ERun → ERun
  | 0, _, _, r => r
  | fuel + 1, va, bs, r =>
    if bs.isEmpty || r.halt then r
    else
      let k := 32 - va.toNat % 32
      ERun.put e fuel (va + w64 k) (bs.drop k) (r.putSector e va (bs.take k))

/-- Write bytes from an address on. -/
def ERun.write (r : ERun) (e : EngCmd) (va : Word) (bs : List Byte) : ERun := ERun.put e (bs.length + 1) va bs r

/-- The command has run: its status and body wait for its completion. -/
def State.engResult (s : State) (e : EngCmd) (st : Nat) (body : Word) : State :=
  s.modEng e.id fun c => { c with result := some (st, body) }

/-- Run an accepted command of an opcode that has not run yet; one that needs a link that is down waits (R415). -/
def State.engRun (s : State) (cluster n op : Nat) (f : EngCmd → ERun → ERun) : Host.Outcome State Fault Refusal :=
  .next <|
    match s.eng? n with
    | none => s
    | some e =>
      if e.cmd.op ≠ op || e.cluster ≠ cluster || e.result.isSome then s
      else
        let r := f e { s := s }
        if r.waits s e then s else r.s.engResult e r.st r.body

/-- Read a descriptor: aligned to 8, and readable (R307, R316). -/
def ERun.descriptor (r : ERun) (e : EngCmd) (n : Nat) : ERun × List Byte :=
  if e.cmd.d1.toNat % 8 ≠ 0 then (r.stop 9 e.cmd.d1, []) else r.readN e e.cmd.d1 n

/-- The signed value of an 8-byte field. -/
def sfield (b : List Byte) (off : Nat) : Int := sint 64 (bfield b off 8)

end Sys2Proof.Machine
end

