-- ==== Sys2Proof/Machine/Collective.lean ====
section
/-!
DEFINITION. The collective engines (R327, R328): joining, the start of a collective, and what each participant writes.
-/

namespace Sys2Proof.Machine

-- The descriptor (R327).

def collN (b : List Byte) : Nat := bfield b 16 8
def collP (b : List Byte) : Nat := bfield b 36 2
def collRank (b : List Byte) : Nat := bfield b 38 2
def collGid (b : List Byte) : Nat := bfield b 32 4
def collTy (b : List Byte) : Nat := bfield b 40 1
def collOper (b : List Byte) : Nat := bfield b 41 1
def collRoot (b : List Byte) : Nat := bfield b 42 2
def collChunk (b : List Byte) : Nat := bfield b 44 1
/-- Bytes of an element: F32 or BF16. -/
def collSize (b : List Byte) : Nat := if collTy b = 0 then 4 else 2

/-- Whether a joined command's descriptor fails a check (R327, R328). -/
def collBad (op : Nat) (b : List Byte) (table : List Nat) : Bool :=
  1 < collTy b || 2 < collOper b || ((op = 0x12 || op = 0x13) && collOper b ≠ 0) ||
    (if op = 0x13 then collP b ≤ collRoot b else collRoot b ≠ 0) || collChunk b < 12 || 24 < collChunk b ||
    bfield b 45 19 ≠ 0 || ((op = 0x11 || op = 0x12) && collN b % collP b ≠ 0) || table.any fun d => 255 < d

/-- Bytes that a participant's source and destination hold (R328). -/
def collSrcLen (op : Nat) (b : List Byte) : Nat :=
  if op = 0x12 then collN b / collP b * collSize b
  else if op = 0x13 ∧ collRank b ≠ collRoot b then 0 else collN b * collSize b
def collDstLen (op : Nat) (b : List Byte) : Nat :=
  if op = 0x11 then collN b / collP b * collSize b else collN b * collSize b

/-- What a participant tells the ranks on other devices goes out as a data flit of channel 3 (R410, R413). -/
def State.collSend (s : State) (table : List Nat) : State :=
  if table.any fun d => d ≠ s.devNum then s.sendData 3 else s

/-- A collective command that has not joined: it waits for a link, or behind one that does. -/
def EngCmd.unjoined (e : EngCmd) : Bool := e.cmd.isColl && e.result.isNone && e.coll.isNone

/-- The local participants of a group's collective with a count. -/
def State.collLocal (s : State) (gid seq : Nat) : List (EngCmd × CollPart) :=
  s.cmds.filterMap fun e => match e.coll with
    | some c => if c.gid = gid ∧ c.seq = seq ∧ e.result.isNone then some (e, c) else none
    | none => none

/-- Complete all local participants: those with a failure with their own status, the others with PEER (R328). -/
def State.collFail (s : State) (ps : List (EngCmd × CollPart)) (own : EngCmd → Option (Nat × Word)) : State :=
  ps.foldl (fun s p => match own p.1 with
    | some f => s.engResult p.1 f.1 f.2
    | none => s.engResult p.1 12 0) s

/-- No link can carry a participant's requests: it completes with PEER, and so does every other participant of its
collective, those that join later too (R328, R415). -/
def State.collPeer (s : State) (c : CollPart) : State :=
  let s := s.collFail (s.collLocal c.gid c.seq) fun e => e.coll.bind (·.bad)
  { s with collGone := (c.gid, c.seq) :: s.collGone }

/-- The rank table of a command that has joined is read, and its descriptor checked. One whose table needs a link that is
down waits, until the time of R415 has passed. -/
def State.collTable (s0 : State) (e : EngCmd) : State :=
  match e.coll with
  | none => s0
  | some c =>
    let (r, tb) := ({ s := s0 } : ERun).readN e (w64 (bfield c.desc 24 8)) (2 * collP c.desc)
    if c.tabled || e.result.isSome || r.waits s0 e then s0
    else if r.far then s0.collPeer c
    else
      let table := (List.range (collP c.desc)).map fun i => bfield tb (2 * i) 2
      let bad := if r.halt then some (r.st, r.body)
        else if collBad e.cmd.op c.desc table then some (9, e.cmd.d1) else none
      let s := r.s.modEng e.id fun k => { k with coll := some { c with tabled := true, table := table, bad := bad } }
      if s.collGone.contains (c.gid, c.seq) then s.engResult e (bad.getD (12, 0)).1 (bad.getD (12, 0)).2
      else s.collSend table

/-- Whether a command accepted before by the same engine has not joined. Its group and rank are not known yet, so that
those after it wait for their places in the count (R328, log entry 44). -/
def State.collBehind (s : State) (e : EngCmd) : Bool :=
  (s.cmds.takeWhile fun k => k.id ≠ e.id).any fun k => k.unjoined && k.engine == e.engine

/-- A collective command joins by its place in the count of its group and rank, or completes alone where its descriptor
cannot be read or its group, P and rank are out of range (R328). One whose descriptor needs a link that is down joins when
a port comes up, or fails when the time of R415 has passed. -/
def State.collJoin (s0 : State) (e : EngCmd) : State :=
  let (r, b) := ({ s := s0 } : ERun).descriptor e 64
  let s := r.s
  if s0.collBehind e || r.waits s0 e then s0
  else if r.halt then s.engResult e r.st r.body
  else if collP b = 0 ∨ 256 < collP b ∨ collP b ≤ collRank b then s.engResult e 9 e.cmd.d1
  else
    let key := fun (c : Nat × Nat × Nat) => c.1 == collGid b && c.2.1 == collRank b
    let seq := ((s.collSeq.find? key).map (·.2.2)).getD 0
    let c : CollPart := { gid := collGid b, rank := collRank b, seq := seq, desc := b, table := [], tabled := false }
    let s := { s with collSeq := (collGid b, collRank b, seq + 1) :: s.collSeq.filter fun c => !key c }
    (s.modEng e.id fun k => { k with coll := some c }).collTable { e with coll := some c }

/-- The collective commands that wait go on as far as they can, in the order of their acceptance. -/
def State.collQueue (s : State) : State :=
  s.cmds.foldl (fun s k => match s.eng? k.id with
    | some e => if e.unjoined then s.collJoin e else s.collTable e
    | none => s) s

/-- A collective that waits for ranks on other devices (R328). -/
def EngCmd.waitsFar (e : EngCmd) (devNum : Nat) : Bool :=
  e.cmd.isColl && e.result.isNone && match e.coll with
    | some c => !c.started && c.table.any fun d => d ≠ devNum
    | none => false

/-- A link has come up: the collective commands that waited for it join, in their order, and those that had joined tell
the other devices. -/
def State.collRejoin (s : State) : State :=
  (s.cmds.filter fun e => e.waitsFar s.devNum).foldl (fun s _ => s.sendData 3) s.collQueue

-- The start (R328).

/-- What of a participant must agree, and its rank. -/
structure CollKey where
  op : Nat
  p : Nat
  n : Nat
  ty : Nat
  oper : Nat
  root : Nat
  chunk : Nat
  table : List Nat
  deriving DecidableEq, Repr

def collKey (op : Nat) (c : CollPart) : CollKey :=
  ⟨op, collP c.desc, collN c.desc, collTy c.desc, collOper c.desc, collRoot c.desc, collChunk c.desc, c.table⟩
def remoteKey (r : RemotePart) : CollKey := ⟨r.op, r.p, r.n, r.ty, r.oper, r.root, r.chunk, r.ranks⟩

/-- The lowest count of a group's collectives that have not started and of which all P participants have arrived, with
those of other devices, and have their rank tables. -/
def State.collNext (s : State) (gid : Nat) (remote : List RemotePart) : Option Nat :=
  (s.cmds.filterMap fun e => match e.coll with
    | some c =>
      let here := s.collLocal gid c.seq
      if c.gid = gid ∧ !c.started ∧ e.result.isNone ∧ (here.all fun p => p.2.tabled) ∧ remote.all (·.seq == c.seq) ∧
        (here.head?.map fun p => collP p.2.desc) = some (here.length + remote.length) then some c.seq else none
    | none => none).min?

/-- COLLECTIVE_START: when all P participants have arrived, the collective starts, or completes with a participant's
failure or with MISMATCH (R328). A check that a participant's own descriptor failed comes before the comparison, since
a descriptor that fails a check differs from its peers'. A source that no link reaches ends its participant with PEER
(R415). `remote` are the parts of the ranks on other devices, as the link delivers them. -/
def execCollectiveStart (gid : Nat) (remote : List RemotePart) (s : State) : Host.Outcome State Fault Refusal :=
  let old := s
  .next <|
    match s.collNext gid remote with
    | none => s
    | some seq =>
      let ps := s.collLocal gid seq
      match ps with
      | [] => s
      | (e0, c0) :: _ =>
        if (ps.any fun p => p.2.bad.isSome) || remote.any (·.failed) then
          s.collFail ps fun e => ps.findSome? fun p => if p.1.id ≠ e.id then none else p.2.bad
        else
          let ranks := ps.map (fun p => p.2.rank) ++ remote.map (·.rank)
          let keys := ps.map (fun p => collKey p.1.cmd.op p.2) ++ remote.map remoteKey
          if keys.any (fun k => k ≠ collKey e0.cmd.op c0) || !(List.range ranks.length).all fun r => ranks.contains r then
            ps.foldl (fun s p => s.engResult p.1 10 0) s
          else
            let (s, reads) := ps.foldl (fun (q : State × List (EngCmd × CollPart × ERun × List Byte)) p =>
              let r := ({ s := q.1 } : ERun).readN p.1 (w64 (bfield p.2.desc 0 8)) (collSrcLen p.1.cmd.op p.2.desc)
              (r.1.s, q.2 ++ [(p.1, p.2, r)])) (s, [])
            let own := fun (e : EngCmd) => reads.findSome? fun q =>
              if q.1.id ≠ e.id then none
              else if q.2.2.1.far then some (12, 0)
              else if q.2.2.1.halt then some (q.2.2.1.st, q.2.2.1.body) else none
            if reads.any fun q => q.2.2.1.waits old q.1 then old
            else if ps.any fun p => (own p.1).isSome then s.collFail ps own
            else
              let s := if remote.isEmpty then s else ps.foldl (fun s p => s.collSend p.2.table) s
              let srcs := reads.map (fun q => (q.2.1.rank, q.2.2.2)) ++ remote.map fun r => (r.rank, r.data)
              ps.foldl (fun s p => s.modEng p.1.id fun c => { c with
                coll := some { p.2 with started := true, srcs := srcs } }) s

-- The results (R328).

/-- Element `i` of a vector, as F32. -/
def collElem (size : Nat) (v : List Byte) (i : Nat) : Nat :=
  if size = 4 then bfield v (4 * i) 4 else 65536 * bfield v (2 * i) 2

/-- The fold of element `i` over all ranks, ascending, and its final rounding (R328). -/
def collFold (c : CollPart) (i : Nat) : List Byte :=
  let size := collSize c.desc
  let xs := (List.range (collP c.desc)).map fun r =>
    collElem size (((c.srcs.find? fun s => s.1 == r).map (·.2)).getD []) i
  let step := fun (a x : Nat) =>
    if collOper c.desc = 0 then fAddPlain .f32 a x else (fMinMax .f32 false (collOper c.desc = 1) a x).1
  let v := match xs with
    | [] => 0
    | x :: xs => xs.foldl step x
  if size = 4 then leBytes 4 (roundRne .f32 (Fmt.dec .f32 v)) else leBytes 2 (roundRne .bf16 (Fmt.dec .f32 v))

/-- A rank's source vector. -/
def CollPart.src (c : CollPart) (r : Nat) : List Byte := ((c.srcs.find? fun s => s.1 == r).map (·.2)).getD []

/-- What a participant writes (R328). -/
def collResult (op : Nat) (c : CollPart) : List Byte :=
  let n := collN c.desc
  let p := collP c.desc
  match op with
  | 0x10 => (List.range n).flatMap (collFold c)
  | 0x11 => (List.range (n / p)).flatMap fun i => collFold c (c.rank * (n / p) + i)
  | 0x12 => (List.range p).flatMap c.src
  | _ => c.src (collRoot c.desc)

/-- An overlap of source and destination other than ALLRED's equality leaves the overlapped destination elements
undefined (R328). -/
def collOpen (op : Nat) (c : CollPart) (free : Nat) (bs : List Byte) : List Byte :=
  let src := bfield c.desc 0 8
  let dst := bfield c.desc 8 8
  let n := collSrcLen op c.desc
  let size := collSize c.desc
  if op = 0x10 ∧ src = dst then bs
  else ((List.range bs.length).zip bs).map fun b =>
    let el := dst + b.1 / size * size
    if n ≠ 0 ∧ src < el + size ∧ el < src + n then Config.freeByte (free + b.1) else b.2

/-- When every local participant of a started collective has written, they complete: with their own failure, with PEER
where another failed, else with OK (R328). -/
def State.collEnd (s : State) (c : CollPart) : State :=
  let ps := s.collLocal c.gid c.seq
  if ps.all fun p => p.2.written then
    let failed := ps.any fun p => 4 ≤ p.1.soFar.1
    ps.foldl (fun s p =>
      if 4 ≤ p.1.soFar.1 then s.engResult p.1 p.1.soFar.1 p.1.soFar.2
      else if failed then s.engResult p.1 12 0 else s.engResult p.1 p.1.soFar.1 0) s
  else s

/-- A participant's writes; one that needs a link that is down waits, until the time of R415 has passed and it ends with
PEER. -/
def State.collWrite (s : State) (op n : Nat) : State :=
  match s.eng? n with
  | none => s
  | some e =>
    match e.coll with
    | none => s
    | some c =>
      if e.cmd.op ≠ op || !c.started || c.written || e.result.isSome then s
      else
        let bs := collOpen op c s.free (collResult op c)
        let r := ({ s := { s with free := s.free + bs.length } } : ERun).write e (w64 (bfield c.desc 8 8)) bs
        if r.waits s e then s
        else (r.s.modEng n fun k =>
          { k with coll := some { c with written := true }, soFar := if r.far then (12, 0) else (r.st, r.body) }).collEnd c

/-- ALLRED (R328). -/
def execAllred (n : Nat) (s : State) : Host.Outcome State Fault Refusal := .next (s.collWrite 0x10 n)
/-- REDSCAT (R328). -/
def execRedscat (n : Nat) (s : State) : Host.Outcome State Fault Refusal := .next (s.collWrite 0x11 n)
/-- ALLGATH (R328). -/
def execAllgath (n : Nat) (s : State) : Host.Outcome State Fault Refusal := .next (s.collWrite 0x12 n)
/-- BCAST (R328). -/
def execBcast (n : Nat) (s : State) : Host.Outcome State Fault Refusal := .next (s.collWrite 0x13 n)

end Sys2Proof.Machine
end

