-- ==== Sys2Proof/Machine/Matrix.lean ====
section
/-!
DEFINITION. The matrix engine (R198 to R218) and the Planisher (R219 to R226): the checks at issue, the queues, the
start of an instruction, which reads scratchpad, and its retirement, which changes matrix state.
-/

namespace Sys2Proof.Machine

-- Types, rows and layouts.

/-- Bits of an element (R211). -/
def mtBits : MType → Nat
  | .e2m1 => 4
  | .e4m3 | .e5m2 | .i8 => 8
  | .f16 | .bf16 => 16

/-- The float format of an element type; I8 has none and uses its integers. -/
def mtFmt : MType → Fmt
  | .e4m3 => .e4m3
  | .e5m2 => .e5m2
  | .e2m1 => .e2m1
  | .f16 => .f16
  | .bf16 | .i8 => .bf16

/-- The type code (R211). -/
def mtCode : MType → Nat
  | .e4m3 => 0
  | .e5m2 => 1
  | .e2m1 => 2
  | .f16 => 3
  | .bf16 => 4
  | .i8 => 5

/-- The type that a plan's format byte names (R223). A slot that a fill has overwritten since the check at issue may hold
any byte there: above 5 it counts as I8, a choice of the model (log entry 100). -/
def mtOf (n : Nat) : MType :=
  if n = 0 then .e4m3 else if n = 1 then .e5m2 else if n = 2 then .e2m1 else if n = 3 then .f16
  else if n = 4 then .bf16 else .i8

/-- K in elements: a K-step of 128 bytes (R200). -/
def mtK (ty : MType) : Nat := 1024 / mtBits ty

/-- The joined arrays' quads (R201). -/
def MatOp.quads (o : MatOp) : List Nat := (List.range (laneCount o.f / 8)).map (o.base / 8 + ·)
/-- The group's block of rows in a tile: M = 2F (R201). -/
def MatOp.m (o : MatOp) : Nat := 2 * laneCount o.f

/-- Accumulator element (R97). -/
def Cluster.accGet (cl : Cluster) (a r j : Nat) : BitVec 32 := mget 0 cl.acc (4096 * a + 64 * r + j)
/-- Set rows of a tile from row number and column. -/
def Cluster.accRows (cl : Cluster) (a : Nat) (rows : List Nat) (f : Nat → Nat → BitVec 32) : Cluster :=
  { cl with acc := rows.foldl (fun m r => (List.range 64).foldl
      (fun m j => mset 0 m (4096 * a + 64 * r + j) (f r j)) m) cl.acc }

/-- 128 bytes of an ab row (R200), as one number. -/
def Cluster.abRow (cl : Cluster) (q step i : Nat) : Nat := leNat (mgets 0 cl.ab (8192 * q + 2048 * step + 128 * i) 128)
/-- 128 bytes of a bb column (R200). -/
def Cluster.bbCol (cl : Cluster) (n j : Nat) : Nat := leNat (mgets 0 cl.bb (8192 * n + 128 * j) 128)
/-- Row or column `n` of a fragment: four registers (R202). -/
def fragRow (vs : List Vec) (n : Nat) : Nat :=
  (List.range 4).foldl (fun a i => a + (vs.getD (4 * n + i) 0).toNat * 2 ^ (256 * i)) 0

/-- Element k of a row held as one number. -/
def rowElem (ty : MType) (row k : Nat) : Nat := row / 2 ^ (mtBits ty * k) % 2 ^ mtBits ty

/-- SA(i, k) and SB(k, j) (R199, R212). -/
def Cluster.saVal (cl : Cluster) (q i k : Nat) : FVal := scaleVal (mget 0 cl.sa (128 * q + 8 * i + k / 32)).toNat
def Cluster.sbVal (cl : Cluster) (q j k : Nat) : FVal := scaleVal (mget 0 cl.sb (512 * q + 8 * j + k / 32)).toNat

-- Arithmetic (R126, R127).

/-- Float accumulation over the four K-blocks: entries hold k, the A value and the B value, scales included (R126). An
exact sum of zero is +0, so that a block without entries changes no more than a block of the dense product does (R226, log
entry 88). -/
def floatBlocks (kb : Nat) (xs : List (Nat × FVal × FVal)) (c : Nat) : Nat :=
  (List.range 4).foldl (fun c b =>
    let s := sumX ((xs.filter fun y => y.1 / kb = b).map fun y => (mulX y.2.1 y.2.2).1)
    roundRne .f32 (addReal (Fmt.dec .f32 (roundRne .f32 s)) (Fmt.dec .f32 c))) c

/-- One accumulator element from the entries of an A row (k and bits) and a B column (R126, R127, R224). -/
def Cluster.matElem (cl : Cluster) (ty : MType) (sc : Bool) (q i j : Nat) (as : List (Nat × Nat)) (b : Nat)
    (c : Nat) : Nat :=
  if ty = .i8 then
    wrap 32 (as.foldl (fun (z : Int) y => z + sint 8 y.2 * sint 8 (rowElem ty b y.1)) (c : Int))
  else
    floatBlocks (mtK ty / 4) (as.map fun y =>
      let av := (mtFmt ty).dec y.2
      let bv := (mtFmt ty).dec (rowElem ty b y.1)
      (y.1, if sc then (mulX av (cl.saVal q i y.1)).1 else av, if sc then (mulX bv (cl.sbVal q j y.1)).1 else bv)) c

/-- The B columns of an instruction (R203). -/
def Cluster.bCol (cl : Cluster) (o : MatOp) (b : BSel) (j : Nat) : Nat :=
  match b with
  | .regs _ => fragRow o.b j
  | .buf n => cl.bbCol n.toNat j

-- Plans (R219, R223).

/-- A byte of a plan slot. -/
def Cluster.planByte (cl : Cluster) (q slot off : Nat) : Nat := (mget 0 cl.ab (8192 * q + 4096 * slot + off)).toNat
/-- A little-endian field of a plan slot. -/
def Cluster.planNat (cl : Cluster) (q slot off n : Nat) : Nat := leNat (mgets 0 cl.ab (8192 * q + 4096 * slot + off) n)
/-- Whether a plan slot is valid. -/
def Cluster.planValid (cl : Cluster) (q slot : Nat) : Bool := cl.plan.getLsbD (2 * q + slot)

/-- Whether an element is nonzero: not ±0 (R221). -/
def nonzero (ty : MType) (x : Nat) : Bool := if ty = .i8 then x ≠ 0 else x % 2 ^ (mtBits ty - 1) ≠ 0

/-- The nonzero entries of a term's row (R219, R224). -/
def Cluster.termRow (cl : Cluster) (q slot term i : Nat) (ty : MType) : List (Nat × Nat) :=
  let vals := cl.planNat q slot (1024 * term + 64 * i) 64
  let ixs := cl.planNat q slot (0x800 + 512 * term + 32 * i) 32
  ((List.range (mtK ty / 2)).map fun e =>
    (4 * (e / 2) + ixs / 2 ^ (2 * e) % 4, rowElem ty vals e)).filter fun y => nonzero ty y.2

/-- A residual entry: row, k, the element's bits. -/
abbrev Resid := Nat × Nat × Nat

/-- The exact value of an element. -/
def elemVal (ty : MType) (x : Nat) : FVal :=
  if ty = .i8 then .num (decide (sint 8 x < 0)) (sint 8 x).natAbs 0 else (mtFmt ty).dec x

/-- A value without its sign. -/
def absVal : FVal → FVal
  | .nan s => .nan s
  | .inf _ => .inf false
  | .num _ m e => .num false m e

/-- Whether a value comes before another in LOSS order: by magnitude, NaN last (R222). -/
def lossBefore (a b : FVal) : Bool :=
  if a.isNan then false else if b.isNan then true else cmpX (absVal a) (absVal b) = some .lt

/-- Insert an entry after the entries that it does not precede. -/
def lossInsert (ty : MType) (x : Resid) : List Resid → List Resid
  | [] => [x]
  | y :: ys => if lossBefore (elemVal ty x.2.2) (elemVal ty y.2.2) then x :: y :: ys else y :: lossInsert ty x ys

/-- The entries dropped under a bound, in order, and their mass (R222). -/
def lossRun (ty : MType) (l : FVal) : List Resid → FVal → List Resid × FVal
  | [], m => ([], m)
  | x :: xs, m =>
    let v := absVal (elemVal ty x.2.2)
    let m' := (addX .rne m v).1
    if v.isNan || !(cmpX m' l = some .lt || cmpX m' l = some .eq) then ([], m)
    else
      let (d, k) := lossRun ty l xs m'
      (x :: d, k)

/-- The bytes of a plan slot for a 16 × K tile (R219 to R223); `row i` is row i of the tile. -/
def planBytes (ty : MType) (loss : Bool) (lbits : BitVec 32) (row : Nat → Nat) : List Byte :=
  let nzs := fun (i g : Nat) => (((List.range 4).map (4 * g + ·)).filter fun k => nonzero ty (rowElem ty (row i) k))
  let groups := mtK ty / 4
  let extra : List Resid := (List.range 16).flatMap fun i => (List.range groups).flatMap fun g =>
    ((nzs i g).drop 2).map fun k => (i, k, rowElem ty (row i) k)
  let two := 64 < extra.length
  let resid := if two then [] else extra
  let order := resid.foldl (fun l x => lossInsert ty x l) []
  let (dropped, mass) := if loss && !two then lossRun ty (Fmt.dec .f32 lbits.toNat) order (.num false 0 0)
    else ([], .num false 0 0)
  let kept := resid.filter fun x => !dropped.contains x
  let at' := fun (t i e : Nat) => ((nzs i (e / 2)).drop (2 * t))[e % 2]?
  let vals := fun (t : Nat) => (List.range 16).flatMap fun i =>
    leBytes 64 ((List.range (mtK ty / 2)).foldl (fun a e => match at' t i e with
      | some k => a + rowElem ty (row i) k * 2 ^ (mtBits ty * e)
      | none => a) 0)
  let ixs := fun (t : Nat) => (List.range 16).flatMap fun i =>
    leBytes 32 ((List.range (mtK ty / 2)).foldl (fun a e => match at' t i e with
      | some k => a + (k % 4) * 2 ^ (2 * e)
      | none => a) 0)
  let zeros := fun (n : Nat) => List.replicate n (0 : Byte)
  let value := fun (x : Nat) => if ty = .i8 then wrap 32 (sint 8 x) else (cvtFF .f32 (mtFmt ty) .rne false x).1
  let list := kept.flatMap fun x => leBytes 1 x.1 ++ [0] ++ leBytes 2 x.2.1 ++ leBytes 4 (value x.2.2)
  let status := leBytes 1 (mtCode ty) ++ leBytes 1 (if two then 2 else 1) ++ leBytes 2 kept.length ++
    leBytes 2 dropped.length ++ leBytes 4 (roundRne .f32 mass) ++ leBytes 4 (if loss then lbits.toNat else 0) ++
    leBytes 1 (if loss then 1 else 0) ++ zeros 17
  vals 0 ++ (if two then vals 1 else zeros 1024) ++ ixs 0 ++ (if two then ixs 1 else zeros 512) ++
    (list ++ zeros (512 - list.length)) ++ status ++ zeros 480

/-- MSTAT kind 0 (R218): a slot that is not valid reports zero. -/
def Cluster.planWord (cl : Cluster) (q slot : Nat) : Word :=
  if cl.planValid q slot then
    let f := fun off n => cl.planNat q slot (0xE00 + off) n
    w64 (2 ^ 32 * f 6 4 + 2 ^ 24 * (f 4 2 % 256) + 2 ^ 16 * (f 2 2 % 256) + 2 ^ 12 * (f 0 1 % 16) +
      2 ^ 10 * (f 1 1 % 4) + 2 ^ 9 * (f 14 1 % 2) + 256)
  else 0

-- Issue (R204 to R208).

/-- What an instruction asks of the engine at issue. `mem` gives the rows that it touches in memory: how many, the
bytes of each, and whether it reads them. -/
structure MatReq where
  ins : Instr
  f : Fields := {}
  acc : Option Nat := none
  mrow : Nat := 0
  fragA : Option Nat := none
  fragB : Option Nat := none
  plan : Option (Nat × Bool) := none
  mem : Option (Nat × Nat) := none

/-- The format of the plan that a slot will hold once the queued instructions have executed, if it will be valid (R208,
R216, R219). -/
def Cluster.planAhead (cl : Cluster) (q slot : Nat) : Option MType :=
  let now := if cl.planValid q slot then some (mtOf (cl.planByte q slot 0xE00)) else none
  cl.mq.foldl (fun p o => match o.ins with
    | .mplan ty _ sl _ _ => if o.quads.contains q && sl.toNat = slot then some ty else p
    | .mplanS ty _ sl _ _ => if o.quads.contains q && sl.toNat = slot then some ty else p
    | .mldob isB n part all _ => if !isB && n.toNat = q && (all || part.toNat / 2 = slot) then none else p
    | _ => p) now

/-- The subcode of trap 0x02 of a fused group's matrix instruction, in the order of R205. -/
def State.matSub (s : State) (x : Issuer) (g : Group) (r : MatReq) : Option Nat :=
  let cl := s.cl x.cl
  let quads := (List.range (laneCount g.f / 8)).map (g.base / 8 + ·)
  if x.w.cfg.tiles = 0 || (r.acc.any fun a => x.w.cfg.tiles ≤ a) then some 9
  else if r.acc.isSome && 64 / (2 * laneCount g.f) ≤ r.mrow then some 6
  else if r.fragB.isSome && laneCount g.f < 32 then some 7
  else match r.plan with
    | none => none
    | some (slot, sc) =>
      if quads.all fun q => match cl.planAhead q slot with
        | some ty => !(sc && 3 ≤ mtCode ty)
        | none => false
      then none else some 8

/-- The lowest of some addresses. -/
def lowest (as : List Word) : Option Word :=
  as.foldl (fun m a => match m with
    | none => some a
    | some b => if a.toNat < b.toNat then some a else some b) none

/-- The first byte of `n` bytes that lies outside the scratchpad window of the issuing cluster, or beyond the
allocation (R206). -/
def Issuer.outOfPad (x : Issuer) (va : Word) (n : Nat) : Option Word :=
  let cx := nbits va.toNat 24 19
  let cy := nbits va.toNat 29 25
  let off := va.toNat % 2 ^ 19
  if !(isWindow va && (ownForm va || (cx < 36 && cy < 16 && clusterAt cx cy = x.cl))) then some va
  else if off + n ≤ x.w.cfg.scratch then none
  else some (va + w64 (x.w.cfg.scratch - off))

/-- The memory checks of R206, in their order, for rows of `n` bytes, whether they are to be read or written. -/
def State.matMem (s : State) (x : Issuer) (rows : List Word) (n : Nat) : Option (Nat × Word) :=
  match lowest (rows.filter fun a => a.toNat % 32 ≠ 0) with
  | some a => some (4, a)
  | none =>
    match lowest (rows.filterMap fun a => x.outOfPad a n) with
    | some a => some (8, a)
    | none =>
      let cl := s.cl x.cl
      let bad := fun (p : Nat → Bool) => lowest (rows.flatMap fun a =>
        let o := x.w.scratchBase + a.toNat % 2 ^ 19
        ((touchedSectors o n).filter p).map fun k => a + w64 (32 * k) - w64 o)
      match bad fun k => mget 0 cl.sramSyn k ≠ 0 with
      | some a => some (9, a)
      | none => (bad fun k => cl.sramEcc.contains k).map fun a => (10, a)

/-- The eight registers of every lane of the span (R202, R203). -/
def Issuer.frag (x : Issuer) (base : Nat) : List Vec :=
  x.span.flatMap fun t => (List.range 8).map fun i => (x.w.thr t).r.vget (BitVec.ofNat 5 (base + i))

/-- Whether a fragment's registers still wait for a result (R76). -/
def Issuer.fragBusy (x : Issuer) (base : Option Nat) : Bool :=
  match base with
  | none => false
  | some b => x.span.any fun t => (List.range 8).any fun i => (x.w.thr t).busy.contains (.v (BitVec.ofNat 5 (b + i)))

/-- Queued instructions of a quad's array (R208). -/
def Cluster.arrayLen (cl : Cluster) (q : Nat) : Nat := (cl.mq.filter fun o => o.quads.contains q).length

/-- The matrix instruction as it enters the queues: its operands are taken now (R203, R204). -/
def Issuer.matOp (x : Issuer) (g : Group) (r : MatReq) (v : Vals) : MatOp :=
  { ins := r.ins, wg := x.id.wg, col := g.col, base := g.base, f := g.f, lanes := x.active
    a := match r.fragA with
      | some b => x.frag b
      | none => []
    b := match r.fragB with
      | some b => x.frag b
      | none => []
    addr := x.w.scratchBase + v.sa.toNat % 2 ^ 19
    stride := v.sb.toInt
    loss := v.sb.setWidth 32 }

/-- A matrix instruction issues (R204 to R210). A port whose trap 0x11 holds in some lanes is not read, so that there the
memory operands have no value to check: those lanes alone fault (R231), which leaves R207 the traps that have one cause
for all (log entry 87). -/
def State.matIssue (s : State) (x : Issuer) (r : MatReq) : State :=
  if x.u.tx.isSome then s.abortExplicit x
  else match x.grp with
    | none => s.trapAll x 2 1
    | some g =>
      match s.gate x r.f with
      | .stop s' => s'
      | .go pt =>
        let quads := (List.range (laneCount g.f / 8)).map (g.base / 8 + ·)
        if x.fragBusy r.fragA || x.fragBusy r.fragB then s.stall
        else if quads.any fun q => 4 ≤ (s.cl x.cl).arrayLen q then s.stall
        else
          let v := (x.w.thr x.lead).vals r.f
          let all := fun (c : Nat) (val : Word) => x.active.map fun t => (t, c, val)
          let own : List LaneTrap := match s.matSub x g r with
            | some c => all 2 (w64 c)
            | none =>
              if !pt.isEmpty then []
              else match r.mem with
                | none => []
                | some (m, n) =>
                  match s.matMem x ((List.range m).map fun i => v.sa + w64 i * v.sb) n with
                  | some (c, a) => all c a
                  | none => []
          let ts := mergeTraps x.active pt own
          if !ts.isEmpty then s.trapLanes x false ts
          else
            let (s', fl) := (s.popAll x r.f).takeFlag x
            (s'.modCl x.cl fun cl => { cl with mq := cl.mq ++ [{ x.matOp g r v with flag := fl }] }).retire x

/-- A fragment operand's base register. -/
def base8 (b : Fin 3) : Nat := 8 * b.val
/-- The fragment that a B operand names. -/
def bFrag (b : BSel) : Option Nat :=
  match b with
  | .regs n => some (base8 n)
  | .buf _ => none

/-- Lanes of the issuing group; 8 where there is none, which traps. -/
def Issuer.fz (x : Issuer) : Nat :=
  match x.grp with
  | some g => laneCount g.f
  | none => 8

/-- MMA (R211, R212). -/
def execMma (ty : MType) (sc z : Bool) (mrow : BitVec 2) (acc : BitVec 3) (a : ASel) (b : BSel) (s : State) :
    Host.Outcome State Fault Refusal :=
  s.onUnit fun x => s.matIssue x
    { ins := .mma ty sc z mrow acc a b, acc := some acc.toNat, mrow := mrow.toNat, fragB := bFrag b
      fragA := match a with
        | .regs n => some (base8 n)
        | .kstep _ => none }
/-- MMAS (R211, R224). -/
def execMmas (sc z : Bool) (mrow : BitVec 2) (acc : BitVec 3) (slot : Bool) (term2 : Bool) (b : BSel) (s : State) :
    Host.Outcome State Fault Refusal :=
  s.onUnit fun x => s.matIssue x
    { ins := .mmas sc z mrow acc slot term2 b, acc := some acc.toNat, mrow := mrow.toNat, fragB := bFrag b
      plan := some (slot.toNat, sc) }
/-- MRES (R211, R225). -/
def execMres (sc : Bool) (mrow : BitVec 2) (acc : BitVec 3) (slot : Bool) (b : BSel) (s : State) :
    Host.Outcome State Fault Refusal :=
  s.onUnit fun x => s.matIssue x
    { ins := .mres sc mrow acc slot b, acc := some acc.toNat, mrow := mrow.toNat, fragB := bFrag b
      plan := some (slot.toNat, sc) }
/-- MPLAN from an A buffer (R220). -/
def execMplan (ty : MType) (loss : Bool) (slot : Bool) (k : BitVec 2) (rb : R5) (s : State) :
    Host.Outcome State Fault Refusal :=
  s.onUnit fun x => s.matIssue x
    { ins := .mplan ty loss slot k rb, f := { b := if loss then some (.s rb) else none } }
/-- MPLAN from scratchpad (R220). -/
def execMplanS (ty : MType) (loss : Bool) (slot : Bool) (ra rb : R5) (s : State) : Host.Outcome State Fault Refusal :=
  s.onUnit fun x => s.matIssue x
    { ins := .mplanS ty loss slot ra rb, f := { a := some (.s ra), b := if loss then some (.s rb) else none }
      mem := some (1, 256 * x.fz) }
/-- MZACC (R215). -/
def execMzacc (mrow : BitVec 2) (acc : BitVec 3) (s : State) : Host.Outcome State Fault Refusal :=
  s.onUnit fun x => s.matIssue x { ins := .mzacc mrow acc, acc := some acc.toNat, mrow := mrow.toNat }
/-- MLDACC (R215). -/
def execMldacc (mrow : BitVec 2) (acc : BitVec 3) (ra rb : R5) (s : State) : Host.Outcome State Fault Refusal :=
  s.onUnit fun x => s.matIssue x
    { ins := .mldacc mrow acc ra rb, f := { a := some (.s ra), b := some (.s rb) }, acc := some acc.toNat
      mrow := mrow.toNat, mem := some (2 * x.fz, 256) }
/-- MSTACC (R215). -/
def execMstacc (ty : Fmt) (rm : Rm) (mrow : BitVec 2) (acc : BitVec 3) (ra rb : R5) (s : State) :
    Host.Outcome State Fault Refusal :=
  s.onUnit fun x => s.matIssue x
    { ins := .mstacc ty rm mrow acc ra rb, f := { a := some (.s ra), b := some (.s rb) }, acc := some acc.toNat
      mrow := mrow.toNat, mem := some (2 * x.fz, 64 * (ty.bits / 8)) }
/-- MLDOB (R216). -/
def execMldob (isB : Bool) (n : BitVec 2) (part : BitVec 2) (all : Bool) (ra : R5) (s : State) :
    Host.Outcome State Fault Refusal :=
  s.onUnit fun x => s.matIssue x
    { ins := .mldob isB n part all ra, f := { a := some (.s ra) }
      mem := some (1, if all then 8192 else 2048) }
/-- MSCL (R217). -/
def execMscl (isB : Bool) (ra : R5) (s : State) : Host.Outcome State Fault Refusal :=
  s.onUnit fun x => s.matIssue x
    { ins := .mscl isB ra, f := { a := some (.s ra) }, mem := some (1, if isB then 512 else 16 * x.fz) }

/-- MSTAT's word for a lane of a group (R218). The count is that of the instructions in the array's queue. -/
def Cluster.mstatWord (cl : Cluster) (tiles q : Nat) (kind slot : Bool) : Word :=
  if tiles = 0 then 0
  else if kind then w64 (4096 + 256 * tiles + cl.arrayLen q) else cl.planWord q slot.toNat

/-- MSTAT (R218): executes in queue order, its result pending until then. A port as destination keeps its outgoing
buffer until then. A workgroup without matrix state is answered at once; a thread in split mode traps first, there too: a
choice of the model, since R204 has it trap and R218 has MSTAT there raise no trap (log entry 111). -/
def execMstat (kind : Bool) (slot : Bool) (rd : R5) (s : State) : Host.Outcome State Fault Refusal :=
  s.onUnit fun x =>
    if x.u.tx.isSome then s.abortExplicit x
    else match x.grp with
      | none => s.trapAll x 2 1
      | some g =>
        let f : Fields := { dst := some (.s rd) }
        let cl := s.cl x.cl
        let quads := (List.range (laneCount g.f / 8)).map (g.base / 8 + ·)
        match s.gate x f with
        | .stop s' => s'
        | .go pt =>
          if !pt.isEmpty then s.trapLanes x false pt
          else if x.w.cfg.tiles = 0 then s.commit x f fun _ => .ofS 0
          else if quads.any fun q => 4 ≤ cl.arrayLen q then s.stall
          else
            let (s, fl) := s.takeFlag x
            let s := s.modCl x.cl fun cl => { cl with
              mq := cl.mq ++ [{ x.matOp g { ins := .mstat kind slot rd } {} with flag := fl }] }
            (if rd = 0 then s else s.setBusy x.id.wg x.active (.s rd)).retire x

-- Queues (R208, R209).

/-- Whether an instruction heads all of its queues: no earlier one shares an array (R208). -/
def Cluster.mqHead (cl : Cluster) (n : Nat) (o : MatOp) : Bool :=
  !((cl.mq.take n).any fun p => p.quads.any fun q => o.quads.contains q)

/-- MATRIX_QUEUE_START: an instruction that heads all its queues starts, and reads its scratchpad bytes (R208, R209),
which transactions that have written them notice (R296). -/
def execMatrixQueueStart (cluster n : Nat) (s : State) : Host.Outcome State Fault Refusal :=
  .next <|
    let cl := s.cl cluster
    match cl.mq[n]? with
    | none => s
    | some o =>
      if o.started || !cl.mqHead n o then s
      else
        let bytes := o.readRanges.flatMap fun r => s.sramBytes cluster r.1 r.2
        let lines := o.readRanges.flatMap fun r => touchedSectors r.1 r.2
        (lines.foldl (fun s k => s.conflict cluster none false ⟨true, k⟩) s).modCl cluster fun cl =>
          { cl with mq := cl.mq.set n { o with started := true, mem := bytes } }

/-- First row of the group's block of a tile (R201). -/
def MatOp.row0 (o : MatOp) (mrow : BitVec 2) : Nat := mrow.toNat * o.m

/-- Rows of the group's block of a tile (R201). -/
def MatOp.tileRows (o : MatOp) (mrow : BitVec 2) : List Nat := (List.range o.m).map (o.row0 mrow + ·)

/-- Each row of the block: tile row, joined quad, row of the array. -/
def MatOp.rowOf (o : MatOp) (mrow : BitVec 2) (r : Nat) : Nat × Nat :=
  let i := r - mrow.toNat * o.m
  (o.base / 8 + i / 16, i % 16)

/-- MRES's updates of one accumulator element, in list order, each rounded once (R225). An exact sum of zero is +0, here
as in MMA and MMAS (log entry 88). -/
def Cluster.resElem (cl : Cluster) (sc : Bool) (q slot i j : Nat) (b : Nat) (c : Nat) : Nat :=
  let ty := mtOf (cl.planByte q slot 0xE00)
  (List.range (min 64 (cl.planNat q slot 0xE02 2))).foldl (fun c e =>
    let at' := 0xC00 + 8 * e
    if cl.planByte q slot at' ≠ i then c
    else
      let k := cl.planNat q slot (at' + 2) 2
      let a := cl.planNat q slot (at' + 4) 4
      if ty = .i8 then wrap 32 ((c : Int) + sint 32 a * sint 8 (rowElem ty b k))
      else
        let av := Fmt.dec .f32 a
        let bv := (mtFmt ty).dec (rowElem ty b k)
        let p := (mulX (if sc then (mulX av (cl.saVal q i k)).1 else av)
          (if sc then (mulX bv (cl.sbVal q j k)).1 else bv)).1
        roundRne .f32 (addReal p (Fmt.dec .f32 c))) c

/-- Write bytes of an operand buffer from an offset. -/
def bufWrite (m : Map Byte) (at' : Nat) (bs : List Byte) : Map Byte := msets 0 m at' bs

/-- Clear the plan-valid bits of an A buffer's slots that written bytes overlap (R216). -/
def Cluster.planClear (cl : Cluster) (q off n : Nat) : Cluster :=
  let hit := fun (s : Nat) => 0 < n && off < 4096 * s + 4096 && 4096 * s < off + n
  { cl with plan := cl.plan &&& ~~~(BitVec.ofNat 8 ((if hit 0 then 1 else 0) * 2 ^ (2 * q) +
      (if hit 1 then 1 else 0) * 2 ^ (2 * q + 1))) }

/-- What a matrix instruction changes in its cluster's matrix state when it retires. -/
def Cluster.matApply (cl : Cluster) (o : MatOp) : Cluster :=
  match o.ins with
  | .mma ty sc z mrow acc a b =>
    cl.accRows acc.toNat (o.tileRows mrow) fun r j =>
      let (q, i) := o.rowOf mrow r
      let row := match a with
        | .regs _ => fragRow o.a (r - mrow.toNat * o.m)
        | .kstep k => cl.abRow q k.toNat i
      let c := if z then 0 else (cl.accGet acc.toNat r j).toNat
      BitVec.ofNat 32 (cl.matElem ty sc q i j ((List.range (mtK ty)).map fun k => (k, rowElem ty row k)) (cl.bCol o b j) c)
  | .mmas sc z mrow acc slot term2 b =>
    cl.accRows acc.toNat (o.tileRows mrow) fun r j =>
      let (q, i) := o.rowOf mrow r
      let c := if z then 0 else cl.accGet acc.toNat r j
      if term2 && cl.planByte q slot.toNat 0xE01 ≠ 2 then c
      else
        let ty := mtOf (cl.planByte q slot.toNat 0xE00)
        BitVec.ofNat 32 (cl.matElem ty sc q i j (cl.termRow q slot.toNat term2.toNat i ty) (cl.bCol o b j) c.toNat)
  | .mres sc mrow acc slot b =>
    cl.accRows acc.toNat (o.tileRows mrow) fun r j =>
      let (q, i) := o.rowOf mrow r
      BitVec.ofNat 32 (cl.resElem sc q slot.toNat i j (cl.bCol o b j) (cl.accGet acc.toNat r j).toNat)
  | .mplan ty loss slot k _ =>
    o.quads.foldl (fun (c : Cluster) q =>
      let bs := planBytes ty loss o.loss fun i => cl.abRow q k.toNat i
      { c with ab := bufWrite c.ab (8192 * q + 4096 * slot.toNat) bs
               plan := c.plan ||| (1#8 <<< (2 * q + slot.toNat)) }) cl
  | .mplanS ty loss slot _ _ =>
    o.quads.foldl (fun (c : Cluster) q =>
      let p := q - o.base / 8
      let bs := planBytes ty loss o.loss fun i => leNat ((o.mem.drop (2048 * p + 128 * i)).take 128)
      { c with ab := bufWrite c.ab (8192 * q + 4096 * slot.toNat) bs
               plan := c.plan ||| (1#8 <<< (2 * q + slot.toNat)) }) cl
  | .mzacc mrow acc => cl.accRows acc.toNat (o.tileRows mrow) fun _ _ => 0
  | .mldacc mrow acc _ _ =>
    cl.accRows acc.toNat (o.tileRows mrow) fun r j =>
      BitVec.ofNat 32 (leNat ((o.mem.drop (256 * (r - mrow.toNat * o.m) + 4 * j)).take 4))
  | .mldob isB n part _ _ =>
    let at' := 8192 * n.toNat + 2048 * part.toNat
    if isB then { cl with bb := bufWrite cl.bb at' o.mem }
    else { cl.planClear n.toNat (2048 * part.toNat) o.mem.length with ab := bufWrite cl.ab at' o.mem }
  | .mscl isB _ =>
    o.quads.foldl (fun (c : Cluster) q =>
      if isB then { c with sb := bufWrite c.sb (512 * q) o.mem }
      else { c with sa := bufWrite c.sa (128 * q) ((o.mem.drop (128 * (q - o.base / 8))).take 128) }) cl
  | _ => cl

/-- An accumulator element as MSTACC stores it (R215). -/
def mstaccBytes (ty : Fmt) (rm : Rm) (x : BitVec 32) : List Byte :=
  if ty = .f32 then leBytes 4 x.toNat
  else leBytes (ty.bits / 8) (cvtFF ty .f32 (rmodeOf rm 0) false x.toNat).1

/-- What a matrix instruction does beside the matrix state: MSTACC's stores (R209, R215) and MSTAT's result (R218). -/
def State.matOut (s : State) (c : Nat) (o : MatOp) : State :=
  let cl := s.cl c
  match o.ins with
  | .mstacc ty rm mrow acc _ _ =>
    (List.range o.m).foldl (fun (s : State) (i : Nat) =>
      let at' := ((o.addr : Int) + i * o.stride).toNat
      let bs := (List.range 64).flatMap fun j => mstaccBytes ty rm (cl.accGet acc.toNat (o.row0 mrow + i) j)
      let s := (touchedSectors at' bs.length).foldl (fun s k =>
        s.conflict c (some ⟨o.wg, 32 * o.col + o.base⟩) true ⟨true, k⟩) s
      s.sramWrite c at' bs) s
  | .mstat kind slot rd =>
    let tiles := match s.wg? o.wg with
      | some w => w.cfg.tiles
      | none => 0
    s.modThrs o.wg o.lanes fun t th =>
      let q := o.base / 8 + (t - (32 * o.col + o.base)) / 8
      let v := (cl.mstatWord tiles q kind slot).setWidth 256
      { th.put (some (.s rd)) v (o.flag.map fun fl => { fl with lanes := [t] }) with
        busy := th.busy.filter fun b => b ≠ .s rd }
  | _ => s

/-- The flag that an instruction's retirement completes (R72). That of an MSTAT goes on with the value that it pushes. -/
def MatOp.doneFlag (o : MatOp) : Option FlagRef :=
  match o.ins with
  | .mstat _ _ _ => none
  | _ => o.flag

/-- MATRIX_RETIRE: a started instruction changes matrix state, completes its flag and leaves the queues (R72, R208); a
workgroup that waited only for it ends (R392). -/
def execMatrixRetire (cluster n : Nat) (s : State) : Host.Outcome State Fault Refusal :=
  .next <|
    match (s.cl cluster).mq[n]? with
    | none => s
    | some o =>
      if !o.started then s
      else
        let s := (s.matOut cluster o).modCl cluster fun cl => { cl.matApply o with mq := cl.mq.eraseIdx n }
        (s.flagDone o.doneFlag).wgCheck o.wg

end Sys2Proof.Machine
end

