-- ==== Sys2Proof/Machine/Copy.lean ====
section
/-!
DEFINITION. The copy engine (R316 to R326): COPY, COPYZ, TENSOR, GATHER, SCATTER, FILLOB, and the landing windows with
WOPEN, WCLOSE and MCAST.
-/

namespace Sys2Proof.Machine

-- COPY and COPYZ (R317 to R319).

/-- Read bytes of a COPY's source: each from the state before the copy, or, as nothing fixes, from the copy's own
(R317). `s0` is the state before, `i0` the position of the first byte. -/
def ERun.readMix (r : ERun) (e : EngCmd) (s0 : State) (i0 : Nat) (va : Word) (k : Nat) : ERun × List Byte :=
  (List.range k).foldl (fun p i =>
    ERun.read1 e (if Config.copyLate (s0.free + i0 + i) then p.1.s else s0) (i == 0) (va + w64 i) p) (r, [])

/-- The pieces of a COPY, in ascending order; the CRC register runs over the source bytes. -/
def ERun.copyPieces (e : EngCmd) (s0 : State) : Nat → Nat → Nat → ERun → BitVec 32 → ERun × BitVec 32
  | 0, _, _, r, c => (r, c)
  | fuel + 1, i, n, r, c =>
    if n = 0 || r.halt then (r, c)
    else
      let dst := e.cmd.d2 + w64 i
      let k := min n (32 - dst.toNat % 32)
      let (r', bs) := r.readMix e s0 i (e.cmd.d1 + w64 i) k
      -- bytes read before a failing one are written
      let w := ({ r' with halt := false }).putSector e dst bs
      let w := if w.halt then w else { w with halt := r'.halt }
      ERun.copyPieces e s0 fuel (i + k) (n - k) w (bs.foldl crcByte c)

/-- The check of a CRC against the 4 bytes that follow the source (R318), and the body. -/
def ERun.crcEnd (r : ERun) (e : EngCmd) (crc : BitVec 32) (body : Word) : ERun :=
  if r.halt then r
  else if e.cmd.crc = 2 then
    let (r', bs) := r.readN e (e.cmd.d1 + w64 e.cmd.len) 4
    if r'.halt then r'
    else if leNat bs ≠ crc.toNat then r'.stop 6 (crc.setWidth 64) else { r' with body := body }
  else { r with body := body }

/-- COPY (R317, R318). -/
def runCopy (e : EngCmd) (r : ERun) : ERun :=
  if e.cmd.len = 0 then r
  else
    let (r', c) := ERun.copyPieces e r.s e.cmd.len 0 e.cmd.len r 0xFFFFFFFF
    let r' := { r' with s := { r'.s with free := r'.s.free + e.cmd.len } }
    r'.crcEnd e (~~~c) (if e.cmd.crc = 0 then 0 else (~~~c).setWidth 64)

/-- COPY. -/
def execCopy (cluster n : Nat) (s : State) : Host.Outcome State Fault Refusal := s.engRun cluster n 1 runCopy

/-- COPYZ (R318, R319). -/
def runCopyz (e : EngCmd) (r : ERun) : ERun :=
  let (r, src) := r.readN e e.cmd.d1 e.cmd.len
  if r.halt then r
  else
    let d := if e.cmd.codec = 1 then lz4 src else inflate src
    let cap := e.cmd.cap * 4096
    let out := d.out.reverse
    let w := r.write e e.cmd.d2 (out.take cap)
    if w.halt then w
    else if cap < out.length then w.stop 8 (w64 cap)
    else if !d.ok then w.stop 7 (w64 out.length)
    else
      let crc := crc32c out
      w.crcEnd e crc (w64 (out.length % 2 ^ 32 * 2 ^ 32 + if e.cmd.crc = 0 then 0 else crc.toNat))

/-- COPYZ. -/
def execCopyz (cluster n : Nat) (s : State) : Host.Outcome State Fault Refusal := s.engRun cluster n 2 runCopyz

-- TENSOR, GATHER, SCATTER (R320, R321).

/-- Move one element whole. -/
def ERun.move (r : ERun) (e : EngCmd) (src dst : Word) (size : Nat) : ERun :=
  if r.halt then r
  else
    let (r', bs) := r.readN e src size
    if r'.halt then r' else r'.write e dst bs

/-- Whether a TENSOR descriptor is malformed (R320). -/
def tensorBad (b : List Byte) : Bool :=
  let f := bfield b
  let n := f 17 1
  8 < f 16 1 || n = 0 || 5 < n || f 18 6 ≠ 0 || f 44 4 ≠ 0 || f 112 16 ≠ 0 ||
    (List.range 5).any fun d => n ≤ d && f (24 + 4 * d) 4 ≠ 0

/-- The offset of element `k` under strides at a field, with e bytes per element in dimension 0 (R320). -/
def tensorOff (b : List Byte) (strides k : Nat) : Int :=
  let size := fun (d : Nat) => bfield b (24 + 4 * d) 4
  ((List.range (bfield b 17 1)).foldl (fun (a : Int × Nat) d =>
    let i := a.2 % size d
    (a.1 + i * (if d = 0 then ((2 ^ bfield b 16 1 : Nat) : Int) else sfield b (strides + 8 * (d - 1))), a.2 / size d))
    (0, k)).1

/-- TENSOR (R320). -/
def runTensor (e : EngCmd) (r : ERun) : ERun :=
  let (r, b) := r.descriptor e 128
  if r.halt then r
  else if tensorBad b then r.stop 9 e.cmd.d1
  else
    let total := (List.range (bfield b 17 1)).foldl (fun a d => a * bfield b (24 + 4 * d) 4) 1
    (List.range total).foldl (fun r k =>
      r.move e (w64 (bfield b 0 8) + BitVec.ofInt 64 (tensorOff b 48 k))
        (w64 (bfield b 8 8) + BitVec.ofInt 64 (tensorOff b 80 k)) (2 ^ bfield b 16 1)) r

/-- TENSOR. -/
def execTensor (cluster n : Nat) (s : State) : Host.Outcome State Fault Refusal := s.engRun cluster n 3 runTensor

/-- GATHER and SCATTER (R321). -/
def runIndexed (scatter : Bool) (e : EngCmd) (r : ERun) : ERun :=
  let (r, b) := r.descriptor e 32
  if r.halt then r
  else
    let f := bfield b
    if 8 < f 28 1 ∨ f 29 3 ≠ 0 ∨ f 16 8 % 4 ≠ 0 then r.stop 9 e.cmd.d1
    else
      let size := 2 ^ f 28 1
      (List.range (f 24 4)).foldl (fun r i =>
        if r.halt then r
        else
          let (r, xb) := r.readN e (w64 (f 16 8 + 4 * i)) 4
          let at' := w64 (f 0 8 + leNat xb * size)
          let con := w64 (f 8 8 + i * size)
          if scatter then r.move e con at' size else r.move e at' con size) r

/-- GATHER. -/
def execGather (cluster n : Nat) (s : State) : Host.Outcome State Fault Refusal :=
  s.engRun cluster n 4 (runIndexed false)
/-- SCATTER. -/
def execScatter (cluster n : Nat) (s : State) : Host.Outcome State Fault Refusal :=
  s.engRun cluster n 5 (runIndexed true)

-- FILLOB (R216, R322).

/-- Write bytes of an operand buffer of the issuing cluster, clearing plan-valid bits as MLDOB does (R216). -/
def Cluster.fillOb (cl : Cluster) (isB : Bool) (n off : Nat) (bs : List Byte) : Cluster :=
  if isB then { cl with bb := bufWrite cl.bb (8192 * n + off) bs }
  else { cl.planClear n off bs.length with ab := bufWrite cl.ab (8192 * n + off) bs }

/-- The array that a fill's buffer belongs to: ab q to array q; a bb buffer to all (R216). -/
def fillWaits (cl : Cluster) (isB : Bool) (n : Nat) : Bool :=
  cl.mq.any fun o => o.started && (isB || o.quads.contains n)

/-- FILLOB: between two matrix instructions of the array, never during one (R216). It writes the buffers of its own
workgroup: where that runs on the cluster no longer, it writes nothing (R322). -/
def execFillob (cluster n : Nat) (s : State) : Host.Outcome State Fault Refusal :=
  match s.eng? n with
  | none => .next s
  | some e =>
    let d2 := e.cmd.d2.toNat
    let isB := nbit d2 2
    let buf := nbits d2 1 0
    if fillWaits (s.cl cluster) isB buf then .next s
    else s.engRun cluster n 6 fun e r =>
      let off := 2048 * nbits d2 4 3
      let (r, bs) := r.readN e e.cmd.d1 (if nbit d2 5 then 8192 else 2048)
      ERun.chargeAll e (bs.length / 256 + 1) bs.length
        { r with s := match r.s.wg? e.wg with
            | some w => if w.cluster = cluster then r.s.modCl cluster fun cl => cl.fillOb isB buf off bs else r.s
            | none => r.s }

-- Landing windows (R323).

def Cluster.window (cl : Cluster) (n : Nat) : Window := mget {} cl.windows n
def State.setWindow (s : State) (c n : Nat) (w : Window) : State :=
  s.modCl c fun cl => { cl with windows := mput cl.windows n w }

/-- Whether WOPEN or WCLOSE completes with BADDESC (R323): another workgroup owns the open entry, or a range outside
the view. `bar` is the linked barrier's offset. An OFF or SIZE that is no multiple of 32, and a SIZE below 32 or above
458,752, count as such a range: a choice of the model, since R323 gives them no outcome (log entry 114). -/
def State.winBad (s : State) (e : EngCmd) : Bool :=
  let d1 := e.cmd.d1.toNat
  let w := (s.cl e.cluster).window (nbits d1 42 39)
  let off := nbits d1 18 0
  let size := nbits d1 38 19
  (w.st = .opened && w.owner ≠ some e.wg) ||
    (e.cmd.op = 8 && (off % 32 ≠ 0 || size % 32 ≠ 0 || size < 32 || 458752 < size ||
      match s.wg? e.wg with
      | none => true
      | some v => !v.cfg.inView off size ||
        (nbit d1 43 && (nbits e.cmd.d2.toNat 18 0 % 16 ≠ 0 || v.cfg.scratch < nbits e.cmd.d2.toNat 18 0 + 16))))

/-- WOPEN and WCLOSE (R323). -/
def runWindow (e : EngCmd) (r : ERun) : ERun :=
  if r.s.winBad e then r.stop 9 0
  else
    let d1 := e.cmd.d1.toNat
    let n := nbits d1 42 39
    let w := (r.s.cl e.cluster).window n
    let gen := (w.gen + 1) % 4096
    let w' : Window :=
      if e.cmd.op = 8 then
        { st := .opened, gen := gen, off := nbits d1 18 0, size := nbits d1 38 19, link := nbit d1 43
          bar := nbits e.cmd.d2.toNat 18 0, owner := some e.wg }
      else { w with st := .closed, gen := gen }
    { r with s := r.s.setWindow e.cluster n w' }

/-- WOPEN. -/
def execWopen (cluster n : Nat) (s : State) : Host.Outcome State Fault Refusal := s.engRun cluster n 8 runWindow
/-- WCLOSE. -/
def execWclose (cluster n : Nat) (s : State) : Host.Outcome State Fault Refusal := s.engRun cluster n 9 runWindow

-- MCAST (R324).

/-- The members that a mask names on the issuing workgroup's ensemble: bit and workgroup. -/
def State.mcMembers (s : State) (e : EngCmd) : List (Nat × Workgroup) :=
  (bitsOf 64 e.cmd.d2.toNat).filterMap fun i =>
    (s.wgs.find? fun v => v.unit == e.unit && v.ex == i % 8 && v.ey == i / 8).map fun v => (i, v)

/-- Claim a member's entry (R324, step 1): the grant, with PEND of the linked barrier raised under its generation. -/
def State.mcClaim (s : State) (e : EngCmd) (i : Nat) (v : Workgroup) : State × Option Grant :=
  let w := (s.cl v.cluster).window (nbits e.cmd.d0.toNat 47 44)
  if w.st = .opened ∧ w.owner = some v.id ∧ e.cmd.len ≤ w.size then
    match if w.link then s.stgLoc v.id w.bar else none with
    | none => (s, some ⟨i, v.cluster, w.gen, none⟩)
    | some l =>
      let g := stgGen (s.stgRead l)
      (s.pendBy v.id w.bar g 1, some ⟨i, v.cluster, w.gen, some (v.id, w.bar, g)⟩)
  else (s, none)

/-- The packets of a granted member: 256 bytes each. -/
def mcPackets (e : EngCmd) (id0 : Nat) (g : Grant) (bs : List Byte) : List McPacket :=
  (List.range ((bs.length + 255) / 256)).map fun k =>
    { id := id0 + k, cmd := e.id, grant := g, entry := nbits e.cmd.d0.toNat 47 44, pos := 256 * k
      data := (bs.drop (256 * k)).take 256 }

/-- The delivered mask of an MCAST: granted members none of whose packets was dropped (R324). -/
def EngCmd.delivered (e : EngCmd) : Nat :=
  maskOf 64 fun i => (e.grants.any fun g => g.bit == i) && !(e.dropped.testBit i)

/-- The end of each granted member's transfer lowers PEND (R324, step 3); the result of an MCAST whose last packet has
arrived: the mask, PARTIAL where it differs from d2, or the status that stopped it. -/
def State.mcFinish (s : State) (e : EngCmd) (st : Nat) (body : Word) : State :=
  let m := e.delivered
  if 4 ≤ st then s.engResult e st body
  else s.engResult e (max st (if w64 m = e.cmd.d2 then 0 else 1)) (w64 m)

/-- Lower PEND of a granted member's linked barrier (R324, step 3). -/
def State.mcRelease (s : State) (g : Grant) : State :=
  match g.link with
  | none => s
  | some (wg, off, gen) => s.pendBy wg off gen (-1)

/-- MCAST: claims the named members' entries, and sends its source in packets (R324). A source byte that fails stops
it with the packets before sent. -/
def execMcast (cluster n : Nat) (s : State) : Host.Outcome State Fault Refusal :=
  .next <|
    match s.eng? n with
    | none => s
    | some e =>
      if e.cmd.op ≠ 7 || e.cluster ≠ cluster || e.result.isSome || e.submitted then s
      else
        let old := s
        let (s, gs) := (s.mcMembers e).foldl (fun (p : State × List Grant) m =>
          let (s, g) := p.1.mcClaim e m.1 m.2
          (s, p.2 ++ g.toList)) (s, [])
        let (r, bs) := ({ s := s } : ERun).readN e e.cmd.d1 e.cmd.len
        let (s, ps) := gs.foldl (fun (p : State × List McPacket) g =>
          let q := mcPackets e p.1.nextId g bs
          ({ p.1 with nextId := p.1.nextId + q.length }, p.2 ++ q)) (r.s, [])
        let e' := { e with grants := gs, submitted := true, soFar := (r.st, r.body) }
        let s := { s.modEng n fun _ => e' with packets := s.packets ++ ps }
        if r.waits old e then old
        else if ps.isEmpty then (gs.foldl State.mcRelease s).mcFinish e' r.st r.body else s

/-- MCAST_PACKET_ARRIVE: a packet is written only while its entry is open with its generation; with LINK its bytes are
charged (R324, R325). The last packet of a member lowers PEND, and the last of all ends the command. -/
def execMcastPacketArrive (n : Nat) (s : State) : Host.Outcome State Fault Refusal :=
  .next <|
    match s.packets.find? fun p => p.id == n with
    | none => s
    | some p =>
      match s.eng? p.cmd with
      | none => { s with packets := s.packets.filter fun q => q.id ≠ n }
      | some e =>
        let s := { s with packets := s.packets.filter fun q => q.id ≠ n }
        let w := (s.cl p.grant.cluster).window p.entry
        let live := w.st = .opened && w.gen = p.grant.gen
        let owner := w.owner.bind s.wg?
        let (s, st) := match live, owner with
          | true, some v =>
            let s := s.engineWrite v.cluster (.sram v.cluster (v.phys (w.off + p.pos))) p.data
            match p.grant.link with
            | some (wg, off, g) => s.charge wg off p.data.length g e.cmd.scope
            | none => (s, 0)
          | true, none => (s, 0)
          | false, _ => (s, 0)
        let good := live && owner.isSome
        let r := ({ s := s } : ERun)
        let r := if good then r.charge e p.data.length else r
        let s := r.s.modEng e.id fun c => { c with
          dropped := if good then c.dropped else c.dropped ||| 2 ^ p.grant.bit
          soFar := (max c.soFar.1 (max st r.st), c.soFar.2) }
        let s := if s.packets.any fun q => q.cmd == e.id && q.grant.bit == p.grant.bit then s else s.mcRelease p.grant
        if s.packets.any fun q => q.cmd == e.id then s
        else match s.eng? e.id with
          | some e' => s.mcFinish e' e'.soFar.1 e'.soFar.2
          | none => s

end Sys2Proof.Machine
end

