-- ==== Sys2Proof/Machine/Storage.lean ====
section
/-!
DEFINITION. The storage engine (R329 to R331, R406, R407): submission entries, doorbells and completion entries of the
NVMe queues that the storage-queue table names.
-/

namespace Sys2Proof.Machine

def State.sq (s : State) (q : Nat) : SqRun := mget {} s.sqRun q
def State.modSq (s : State) (q : Nat) (f : SqRun → SqRun) : State := { s with sqRun := mput s.sqRun q (f (s.sq q)) }

/-- A field of the table entry that a run of a queue goes by (R406, R407). -/
def SqRun.field (r : SqRun) (off n : Nat) : Nat := leNat ((r.entry.drop off).take n)

/-- Entries of a queue pair (R406). -/
def SqRun.entries (r : SqRun) : Nat := r.field 34 2 + 1

/-- Bytes that an accepted storage command transfers. -/
def State.storageLen (s : State) (e : EngCmd) : Nat := e.cmd.moved ((s.sq e.run).field 40 1)

/-- The physical address and size of each page of a buffer, which must lie in device memory (R329, R330); or the status
and body with which the command stops. -/
def State.bufPas (s : State) (e : EngCmd) (k : Access) : List (Nat × Nat) → Except (Nat × Word) (List (Nat × Nat))
  | [] => .ok []
  | (va, n) :: ps =>
    match s.engByte e k (w64 va) with
    | some (.mem .dev pa _) =>
      match if k = .load then s.homeFail pa n else none with
      | some (sector, _) => .error (5, w64 (va - pa % 32 + 32 * (sector - pa / 32)))
      | none => (State.bufPas s e k ps).map fun r => (pa, n) :: r
    | _ => .error (4, w64 va)

/-- A command identifier that no submitted command of the queue holds. -/
def SqRun.freshCid (r : SqRun) : Nat :=
  ((List.range (r.inflight.length + 1)).find? fun c => !(r.inflight.any fun f => f.1 == c)).getD 0

/-- The 64 bytes of an NVM submission entry: opcode, identifier, namespace, PRPs, LBA, block count and FUA (R329,
R330). -/
def sqEntry (opcode cid nsid prp1 prp2 : Nat) (lba nlb fua : Nat) : List Byte :=
  leBytes 4 (opcode + 65536 * cid) ++ leBytes 4 nsid ++ leBytes 16 0 ++ leBytes 8 prp1 ++ leBytes 8 prp2 ++
    leBytes 8 lba ++ leBytes 4 (nlb + 2 ^ 30 * fua) ++ leBytes 12 0

/-- Whether a command is the next of its queue to be submitted: commands wait in acceptance order (R329). -/
def State.sqTurn (s : State) (e : EngCmd) : Bool :=
  ((s.cmds.find? fun c => c.cmd.isStorage && c.run == e.run && !c.submitted && c.result.isNone).map (·.id)) = some e.id

/-- The I/O die keeps the translations of a buffer's pages in its TLB (R382). -/
def State.ioFill (s : State) (e : EngCmd) (vas : List Nat) : State :=
  vas.foldl (fun s va =>
    let s := s.engWalk e (w64 va)
    match s.engHeld e (w64 va), s.engineEnt none e.ctx (w64 va) with
    | none, some t => { s with ioTlb := mput s.ioTlb (e.engine - 2000) (t :: mget [] s.ioTlb (e.engine - 2000)) }
    | _, _ => s) s

/-- A storage command's submission entry is built once an entry is free. The buffer's pages become PRPs: of more than
two, the second PRP names a list of all but the first, which the engine keeps with the command (`prps`), at an address
that the spec does not give. An SREAD's buffer is undefined (R331). -/
def State.storageStart (s : State) (op opcode n : Nat) : State :=
  match s.eng? n with
  | none => s
  | some e =>
    let r := s.sq e.run
    if e.cmd.op ≠ op || e.submitted || e.result.isSome || !s.sqTurn e || (r.subTail + 1) % r.entries = r.subHead then s
    else
      let len := s.storageLen e
      let pages := bufPages (len / 4096 + 2) e.cmd.d1.toNat len
      match s.bufPas e (if op = 0x20 then .store else .load) pages with
      | .error f => s.engResult e f.1 f.2
      | .ok ps =>
        let prp2 := match ps with
          | [] | [_] => 0
          | [_, p] => p.1
          | _ => (Config.freeWord s.free).toNat
        let rw := op ≠ 0x22
        let cid := r.freshCid
        let entry := sqEntry opcode cid (r.field 36 4) ((ps.map (·.1)).headD 0) prp2
          (if rw then e.cmd.d2.toNat else 0) (if rw then nbits e.cmd.d0.toNat 15 0 else 0)
          (if op = 0x21 then nbits e.cmd.d0.toNat 32 32 else 0)
        let s := { s.ioFill e (pages.map (·.1)) with free := s.free + 1 }
        let s := if op = 0x20 then ps.foldl (fun s p => s.undef p.1 p.2) s else ps.foldl (fun s p => s.homeSeenAll 8 p.1 p.2) s
        let s := s.homeWrite .dev (r.field 0 8 + 64 * r.subTail) entry
        let s := s.modSq e.run fun r => { r with
          subTail := (r.subTail + 1) % r.entries, inflight := r.inflight ++ [(cid, e.id)] }
        s.modEng n fun c => { c with submitted := true, prps := (pages.zip ps).map fun p => (p.1.1, p.2.1) }

/-- SREAD (R330). -/
def execSread (n : Nat) (s : State) : Host.Outcome State Fault Refusal := .next (s.storageStart 0x20 2 n)
/-- SWRITE (R330). -/
def execSwrite (n : Nat) (s : State) : Host.Outcome State Fault Refusal := .next (s.storageStart 0x21 1 n)
/-- SFLUSH (R330). -/
def execSflush (n : Nat) (s : State) : Host.Outcome State Fault Refusal := .next (s.storageStart 0x22 0 n)

/-- The runs of a queue. -/
def State.runsOf (s : State) (q : Nat) : List Nat := (s.sqRun.map (·.1)).filter fun k => k % 256 == q

/-- The submission tail doorbell of a run is written, as a PCIe peer write, for the entries built since (R329). -/
def State.ring (s : State) (k : Nat) : State :=
  let r := s.sq k
  if r.subTail = r.rung then s
  else (s.homeWrite .pcie (r.field 16 8) (leBytes 4 r.subTail)).modSq k fun r => { r with rung := r.subTail }

/-- STORAGE_SUBMIT (R329), for each run of the queue. -/
def execStorageSubmit (q : Nat) (s : State) : Host.Outcome State Fault Refusal :=
  .next ((s.runsOf q).foldl State.ring s)

/-- A completion entry ends its command: OK, or STORAGE with the status field (R311, R330). -/
def State.storageEnd (s : State) (e : EngCmd) (status : Nat) : State :=
  if nbits status 10 0 ≠ 0 then s.engResult e 11 (w64 (status % 2 ^ 15))
  else
    let len := if e.cmd.op = 0x20 then s.storageLen e else 0
    let r := ERun.chargeAll e (len / 256 + 1) len { s := s }
    r.s.engResult e r.st 0

/-- The completion entry at the head of a run's queue, when its phase tag says that it is new, ends its command; the
head moves on and its doorbell is written (R329, R407). -/
def State.reap (s : State) (k : Nat) : State :=
  let r := s.sq k
  let at' := r.field 8 8 + 16 * r.compHead
  let dw2 := leNat (s.homeBytes .dev (at' + 8) 4)
  let dw3 := leNat (s.homeBytes .dev (at' + 12) 4)
  if nbit dw3 16 ≠ r.phase then s
  else
    let head := (r.compHead + 1) % r.entries
    let s' := (s.homeSeenAll 8 at' 16).modSq k fun r => { r with
      subHead := dw2 % 65536 % r.entries, compHead := head, phase := if head = 0 then !r.phase else r.phase
      inflight := r.inflight.filter fun f => f.1 ≠ dw3 % 65536 }
    let s' := s'.homeWrite .pcie (r.field 24 8) (leBytes 4 head)
    match (r.inflight.find? fun f => f.1 == dw3 % 65536).bind fun f => s'.eng? f.2 with
    | none => s'
    | some e => s'.storageEnd e (dw3 / 2 ^ 17)

/-- STORAGE_COMPLETION (R329), for each run of the queue. -/
def execStorageCompletion (q : Nat) (s : State) : Host.Outcome State Fault Refusal :=
  .next ((s.runsOf q).foldl State.reap s)

end Sys2Proof.Machine
end

