-- ==== Sys2Proof/Machine/Complete.lean ====
section
/-!
DEFINITION. COMPLETION_EVENT (R72, R305): a store's event, or an engine's acceptance of a FIFO's head command; and
COMMAND_COMPLETE (R309).
-/

namespace Sys2Proof.Machine

/-- The engine that a command goes to from a cluster (R305): a cluster's copy engine, a die's collective engine, or the
storage engine of the I/O die that serves the named queue. -/
def State.engineOf (s : State) (cluster : Nat) (c : Cmd) : Nat :=
  if c.isCopy then cluster
  else if c.isColl then 1000 + clDie cluster
  else 2000 + s.sqField c.queue 41 1

/-- Whether an engine has room for a command (R305). -/
def State.engineRoom (s : State) (cluster : Nat) (c : Cmd) : Bool :=
  if c.isStorage then
    (s.cmds.filter fun e => e.cmd.isStorage && e.cmd.queue == c.queue).length < 1024
  else
    let held := (s.cmds.filter fun e => e.engine == s.engineOf cluster c).length
    if c.isCopy then held < 16 else held < 64

/-- The FIFOs whose head command an engine could accept: their keys, ascending. A key is 256 times the workgroup plus
the thread. -/
def State.fifoKeys (s : State) (engine : Nat) : List Nat :=
  s.wgs.flatMap fun w => w.threads.filterMap fun e => match e.2.fifo with
    | [] => none
    | c :: _ => if s.engineOf w.cluster c = engine ∧ s.engineRoom w.cluster c then some (256 * w.id + e.1) else none

/-- Round-robin: the first key after the last one served, else the lowest (R305). -/
def State.engineNext (s : State) (engine : Nat) : Option Nat :=
  let ks := s.fifoKeys engine
  match (ks.filter fun k => mget 0 s.rrEng engine < k).min? with
  | some k => some k
  | none => ks.min?

/-- What acceptance does beside taking the command: PEND under STG (R332), WOPEN and WCLOSE take effect (R323), a
collective joins (R328). -/
def State.engineTake (s : State) (e : EngCmd) : State :=
  let (s, e) := match if e.cmd.stg then s.stgLoc e.wg e.cmd.sboff else none with
    | none => (s, e)
    | some l =>
      let g := stgGen (s.stgRead l)
      (s.pendBy e.wg e.cmd.sboff g 1, { e with stgGen := some g })
  let s := { s with cmds := s.cmds ++ [e] }
  if e.cmd.op = 8 ∨ e.cmd.op = 9 then
    let r := runWindow e { s := s }
    r.s.engResult e r.st r.body
  else if e.cmd.isColl then s.collJoin e
  else s

/-- An engine accepts the head command of a thread's FIFO, in its round-robin turn (R305). -/
def State.accept (s : State) (wg t : Nat) : State :=
  match s.wg? wg with
  | none => s
  | some w =>
    match (w.thr t).fifo with
    | [] => s
    | c :: rest =>
      let engine := s.engineOf w.cluster c
      if s.engineNext engine ≠ some (256 * wg + t) then s
      else
        let run := if c.isStorage then c.queue + 256 * mget 0 s.sqGen c.queue else 0
        let e : EngCmd := { id := s.nextId, wg := wg, t := t, cluster := w.cluster, unit := w.unit, engine := engine
                            ctx := w.ctx, launch := w.launch, cmd := c, run := run, since := s.clock
                            taskAt := (w.thr t).task.map (·.1) }
        let s := s.modThr wg t fun th => { th with fifo := rest }
        let s := { s with nextId := s.nextId + 1, rrEng := mput s.rrEng engine (256 * wg + t) }
        ((s.flagDone c.flag).engineTake e).wgCheck wg

/-- COMPLETION_EVENT (R72). -/
def execCompletionEvent (c : Completion) (s : State) : Host.Outcome State Fault Refusal :=
  .next <| match c with
    | .storeDone wg t => s.storeDone wg t
    | .accept wg t => s.accept wg t

/-- The header of a completion message (R311). -/
def doneHdr (status tag : Nat) : Word := w64 (2 ^ 60 + status % 16 * 2 ^ 56 + tag % 65536 * 2 ^ 40)

/-- COMMAND_COMPLETE: a command whose work is done delivers its completion: the final stage-barrier step, the semaphore,
then the message (R309). Without MBOX, a status other than OK posts the error ENGINE (R311). -/
def execCommandComplete (n : Nat) (s : State) : Host.Outcome State Fault Refusal :=
  .next <|
    match s.eng? n with
    | none => s
    | some e =>
      match e.result with
      | none => s
      | some (st, body) =>
        let s := { s with cmds := s.cmds.filter fun c => c.id ≠ n }
        let s := match e.stgGen with
          | some g => s.pendBy e.wg e.cmd.sboff g (-1)
          | none => s
        let s := if e.cmd.sem then s.semAdd ((s.ctx e.ctx).semBase + e.cmd.semn) 1 else s
        let own := ((s.thr e.wg e.t).task).map (·.1) = e.taskAt
        if !own then s
        else if e.cmd.mbox then s.postDone e.wg e.t { body := body, hdr := doneHdr st e.cmd.tag, sc := e.cmd.scope }
        else if st = 0 then s
        else s.postError e.wg e.t 4 (w64 (e.cmd.tag % 65536 + 65536 * (st % 16)))

end Sys2Proof.Machine
end

