-- ==== Sys2Proof/Machine/Task.lean ====
section
/-!
DEFINITION. Launch records (R348, R349), LAUNCH and JOINWAIT (R367 to R369), dependence slots (R355, R370), YIELD and EXIT
(R371, R372).
-/

namespace Sys2Proof.Machine

-- Launch records (R348).

/-- The record that 128 bytes hold. -/
def recordOf (b : List Byte) : LaunchRec :=
  let f := bfield b
  { code := f 0 8, entry := f 8 8, wgx := f 16 4, wgy := f 20 4, wgz := f 24 4, threads := f 28 1, fusion := f 29 1
    taskSlots := f 30 1, priority := f 31 1, scratch := f 32 4, kt := f 36 4, tiles := f 40 1, hb := f 41 1
    ensW := f 42 1, ensH := f 43 1, torus := nbit (f 44 1) 0, gate := nbit (f 44 1) 1, done := nbit (f 44 1) 2
    deps := [f 48 2, f 50 2, f 52 2, f 54 2], gateSem := f 56 2, doneSem := f 58 2, gateThr := f 64 8
    ranges := f 72 8, args := [w64 (f 88 8), w64 (f 96 8), w64 (f 104 8), w64 (f 112 8)] }

/-- Reason 0x01: a field outside its range, or a reserved field not zero (R348, R349). -/
def recordRange (b : List Byte) : Bool :=
  let f := bfield b
  let r := recordOf b
  let wg := fun (n : Nat) => 1 ≤ n && n ≤ 2097151
  !(r.entry % 4 = 0 && wg r.wgx && wg r.wgy && wg r.wgz && [32, 64, 96, 128].contains r.threads &&
    [1, 8, 16, 32].contains r.fusion && r.taskSlots ≤ 3 && r.priority ≤ 47 && r.scratch ≤ 458752 && r.kt ≤ 262144 &&
    r.kt % 32 = 0 && r.tiles ≤ 8 && r.hb ≤ 16 && r.ensW ≤ 8 && r.ensH ≤ 8 && f 44 1 < 8 && f 46 2 = 0 &&
    (r.deps.all fun d => d ≤ 16384) && f 60 4 = 0 && r.ranges % 16 = 0 && f 120 8 = 0)

/-- The end of a role's scratchpad regions, laid out in order at their alignments (R87). -/
def Role.regionsEnd (r : Role) : Nat := r.regions.foldl (fun a g => roundUp a (max 1 g.2) + g.1) 0

/-- Whether two entries of the placement table cover one (member, column) pair of a launch (R88). -/
def CodeObj.twice (o : CodeObj) (r : LaunchRec) : Bool :=
  (List.range r.ew).any fun ex => (List.range r.eh).any fun ey => (List.range (r.threads / 32)).any fun col =>
    1 < (o.places.filter fun p =>
      p.ex0 ≤ ex && ex ≤ p.ex1 && p.ey0 ≤ ey && ey ≤ p.ey1 && nbit p.cols col).length

/-- The lowest reason for which a record is refused (R349). `obj` is the object that its code names, `top` the highest
priority that it may have, and `host` says that it came from a launch queue. -/
def State.recordBad (s : State) (b : List Byte) (ctx : Nat) (obj : Option CodeObj) (top : Nat) (host : Bool) :
    Option Nat :=
  let r := recordOf b
  let k := s.ctx ctx
  let text0 := ((obj.bind fun o => o.roles[0]?).map (·.textSize)).getD 0
  if recordRange b then some 1
  else if (r.ensW = 0) ≠ (r.ensH = 0) || (r.torus && r.ensW = 0) || r.wgx % r.ew ≠ 0 || r.wgy % r.eh ≠ 0 then some 2
  else if 4 < r.threads / 32 + r.taskSlots || 458752 < r.sPrime + r.kt then some 3
  else if obj.isNone || text0 ≤ r.entry then some 4
  else if match obj with
      | some o => (o.roles.any fun g => r.scratch < g.regionsEnd) || o.twice r
      | none => true then some 5
  else if (r.deps.any fun d => d ≠ 0 && match mfind s.deps d with
      | some e => e.ctx ≠ ctx
      | none => true) || (r.gate && k.semSize ≤ r.gateSem) || (r.done && k.semSize ≤ r.doneSem) then some 6
  else if top < r.priority then some 7
  else if host && (bfield b 45 1 ≠ 0 || bfield b 80 8 ≠ 0) then some 8
  else none

/-- The code object of a context with a handle (R348). -/
def State.objNamed (s : State) (ctx handle : Nat) : Option CodeObj :=
  s.objects.find? fun o => o.handle == handle && o.ctx == ctx

/-- Publish a launch; readiness is evaluated at once (R356). -/
def State.publish (s : State) (l : Launch) : State :=
  { s with nextId := s.nextId + 1, launches := s.launches ++ [{ l with id := s.nextId }] }.reeval

-- LAUNCH (R368).

/-- The launch that a workgroup belongs to. -/
def State.launchOf (s : State) (w : Workgroup) : Option Launch := s.launches.find? fun l => l.id == w.launch

/-- A free entry of the pending-launch pool for a depth (R354). -/
def State.poolEntry (s : State) (d : Nat) : Option Pool :=
  if (s.launches.filter fun l => l.pool = .shared).length < 3584 then some .shared
  else if (s.launches.filter fun l => l.pool = .reserve d).length < 64 then some (.reserve d)
  else none

/-- LAUNCH's decision on a record (R368): the state, and the value for rd. -/
def State.launchRecord (s : State) (x : Issuer) (b : List Byte) : State × Word :=
  match s.launchOf x.w with
  | none => (s, 2)
  | some l =>
    let d := l.depth + 1
    let r := recordOf b
    let handle := if r.code = 0 then x.w.obj else r.code
    let top := if x.u.sh.priv = .u then min l.ceil 39 else l.ceil
    if 8 < d then (s, 2)
    else match s.recordBad b x.w.ctx (s.objNamed x.w.ctx handle) top false with
      | some reason => (s, w64 (256 * reason + 3))
      | none => match s.poolEntry d with
        | none => (s, 1)
        | some p =>
          let s := s.modThr x.id.wg x.id.t fun th => { th with children := th.children + 1 }
          (s.publish { id := 0, ctx := x.w.ctx, cfg := { r with code := handle }, depth := d
                       parent := some (x.id.wg, x.id.t), parentTask := x.taskAt, pre := l.pre, ceil := l.ceil
                       obj := handle, pool := p }, 0)

/-- Whether an address lies in the window of another cluster, whatever runs there (R266, R368). -/
def Issuer.farWindow (x : Issuer) (va : Word) : Bool :=
  let cx := nbits va.toNat 24 19
  let cy := nbits va.toNat 29 25
  isWindow va && !ownForm va && !(cx < 36 && cy < 16 && clusterAt cx cy = x.cl)

/-- LAUNCH (R367, R368): once for the unit. R368 gives the record's pieces no order (R377). -/
def execLaunch (rd ra : R5) (s : State) : Host.Outcome State Fault Refusal :=
  s.onUnit fun x =>
    let f := fSS rd ra
    if x.u.tx.isSome then s.abortExplicit x
    else match s.gate x f with
      | .stop s' => s'
      | .go pt =>
        let va := ((x.w.thr x.lead).vals f).sa
        let all := fun (c : Nat) (y : Word) => s.trapLanes x false (mergeTraps x.active pt (x.active.map fun t => (t, c, y)))
        if va.toNat % 128 ≠ 0 then all 4 va
        else if x.farWindow va then all 8 va
        else match s.access x .load true ((List.range 4).map fun i => ⟨x.lead, va + w64 (32 * i), 32⟩) none true with
          | .stop s' => s'
          | .traps ts => match ts with
            | t :: _ => all t.2.1 t.2.2
            | [] => s.trapLanes x false pt
          | .go rs =>
            if !pt.isEmpty then s.trapLanes x false pt
            else if s.releaseWaits x x.live .device then s.stall
            else
              let (s, bs) := ((s.release x.cl x.live .device).dropReqs x).loads x true rs
              let (s, v) := s.launchRecord x (bs.flatMap (·.2))
              s.commit x f fun _ => .ofS v

/-- JOINWAIT (R365, R369): once for the unit. -/
def execJoinwait (rd : R5) (s : State) : Host.Outcome State Fault Refusal :=
  s.onUnit fun x =>
    let f : Fields := { dst := some (.s rd) }
    if x.u.tx.isSome then s.abortExplicit x
    else if x.isTask then s.trapAll x 2 0x0A
    else match s.gate x f with
      | .stop s' => s'
      | .go pt =>
        let own := x.w.thr x.id.t
        if !pt.isEmpty then s.trapLanes x false pt
        else if own.children ≠ 0 then s.stallIn x .join
        else
          let s := s.modThr x.id.wg x.id.t fun th => { th with childDone := 0 }
          (s.acquire x.cl x.live .system).commit x f fun _ => .ofS (w64 own.childDone)

-- Dependence slots (R355, R370).

/-- The free slot with `k` free slots below it, from slot `next` on. -/
def nthFree : Map Dep → Nat → Nat → Nat
  | [], k, next => next + k
  | (i, _) :: ds, k, next => if k < i - next then next + k else nthFree ds (k - (i - next)) (i + 1)

/-- DEPALLOC (R367, R370). -/
def execDepalloc (rd ra : R5) (s : State) : Host.Outcome State Fault Refusal :=
  s.onUnit fun x =>
    let f := fSS rd ra
    if x.u.tx.isSome then s.abortExplicit x
    else match s.gate x f with
      | .stop s' => s'
      | .go pt =>
        if !pt.isEmpty then s.trapLanes x false pt
        else
          let v := ((x.w.thr x.lead).vals f).sa
          let n := 16384 - s.deps.length
          if n = 0 then s.commit x f fun _ => .ofS 0
          else
            let i := nthFree s.deps (Config.slotPick s.free % n) 1
            let s := { s with free := s.free + 1, deps := mput s.deps i ⟨x.w.ctx, sint 32 v.toNat⟩ }.reeval
            s.commit x f fun _ => .ofS (w64 i)

/-- The slot that s[ra] names, when the issuing context holds it (R370). -/
def State.heldSlot (s : State) (ctx : Nat) (v : Word) : Option Dep :=
  if 1 ≤ v.toNat ∧ v.toNat ≤ 16384 then
    match mfind s.deps v.toNat with
    | some d => if d.ctx = ctx then some d else none
    | none => none
  else none

/-- One lane's DEPSIG (R370, R391). -/
def State.depSignal (s : State) (x : Issuer) (v : Word) : State :=
  match s.heldSlot x.w.ctx v with
  | some d => { s with deps := mput s.deps v.toNat { d with count := max (d.count - 1) (-2147483648) } }.reeval
  | none => s.logError 2 x.w.ctx (v.toNat % 2 ^ 32) x.pc

/-- DEPSIG (R357, R367, R370): once per active lane, ascending; a release at DEVICE. -/
def execDepsig (ra : R5) (s : State) : Host.Outcome State Fault Refusal :=
  s.onUnit fun x =>
    let f : Fields := { a := some (.s ra) }
    if x.u.tx.isSome then s.abortExplicit x
    else match s.gate x f with
      | .stop s' => s'
      | .go pt =>
        if !pt.isEmpty then s.trapLanes x false pt
        else if s.releaseWaits x x.active .device then s.stall
        else
          let s := s.release x.cl x.active .device
          (x.active.foldl (fun s t => s.depSignal x ((x.w.thr t).vals f).sa) s).commit x f fun _ => {}

/-- DEPFREE's decision (R370). -/
def State.depFree (s : State) (ctx : Nat) (v : Word) : State × Word :=
  match s.heldSlot ctx v with
  | none => (s, 2)
  | some _ =>
    if s.launches.any fun l => l.state = .published && l.cfg.deps.contains v.toNat then (s, 1)
    else ({ s with deps := mdel s.deps v.toNat }, 0)

/-- DEPFREE (R367, R370). -/
def execDepfree (rd ra : R5) (s : State) : Host.Outcome State Fault Refusal :=
  s.onUnit fun x =>
    let f := fSS rd ra
    if x.u.tx.isSome then s.abortExplicit x
    else match s.gate x f with
      | .stop s' => s'
      | .go pt =>
        if !pt.isEmpty then s.trapLanes x false pt
        else
          let (s, v) := s.depFree x.w.ctx ((x.w.thr x.lead).vals f).sa
          s.commit x f fun _ => .ofS v

-- YIELD and EXIT.

/-- YIELD (R371): the unit is not selectable for the next 4 clocks of its pipe while another slot is ready. -/
def execYield (s : State) : Host.Outcome State Fault Refusal :=
  s.onUnit fun x =>
    if x.u.tx.isSome then s.abortExplicit x
    else (s.modU x fun u => { u with yieldLeft := 4 }).retire x

/-- Whether a FIFO holds EXIT back: those of the exiting threads must be empty, and where a group ends so must that of its
lowest thread, which serves the group when that thread has exited before (R314, R372). -/
def Issuer.exitFifo (x : Issuer) : Bool :=
  let ends := match x.grp with
    | some g => g.active = g.live
    | none => true
  (x.active.any fun t => !(x.w.thr t).fifo.isEmpty) || (ends && !(x.w.thr x.id.t).fifo.isEmpty)

/-- Whether the threads still have something to drain (R372 step 1). -/
def Issuer.exitWaits (x : Issuer) : Bool :=
  x.exitFifo || x.active.any fun t =>
    let th := x.w.thr t
    !th.portsSent || th.remote ≠ 0 || th.cf.any fun c => c.2 ≠ 0

/-- EXIT (R45, R372). Its release at SYSTEM scope waits for the stores that R279 makes it wait for. -/
def execExit (s : State) : Host.Outcome State Fault Refusal :=
  s.onUnit fun x =>
    if x.u.tx.isSome then s.abortExplicit x
    else if x.exitWaits then s.stall
    else if s.releaseWaits x x.active .system then s.releaseStall x .system
    else (s.release x.cl x.active .system).endThreads x.id.wg x.active

end Sys2Proof.Machine
end

