-- ==== Sys2Proof/Machine/Place.lean ====
section
/-!
DEFINITION. Placement (R350, R351, R358 to R360): dispatchable units with their levels and ranks, where a unit fits, and
the start of a workgroup.
-/

namespace Sys2Proof.Machine

-- Fitting (R360).

/-- Slot indices of a cluster that no placed workgroup holds. -/
def freeSlots (here : List Workgroup) : List Nat := (List.range 4).filter fun k => !(here.any fun w => w.cols.contains k)

/-- Whether a cluster fits a workgroup beside the ones placed (R360). -/
def fits (ws : List Workgroup) (c : Nat) (r : LaunchRec) : Bool :=
  let here := ws.filter fun w => w.cluster == c
  r.columns ≤ (freeSlots here).length && sumOf (here.map (·.cfg.alloc)) + r.alloc ≤ Config.scratchMax &&
    sumOf (here.map (·.cfg.kt)) + r.kt ≤ 262144 && (r.tiles = 0 || here.all fun w => w.cfg.tiles == 0) &&
    sumOf (here.map (·.cfg.hb)) + r.hb ≤ 16

/-- Where a new allocation of `n` bytes begins: the lowest place at 0 or after an allocation that is free, if there is
one. -/
def allocBase (here : List Workgroup) (n : Nat) : Option Nat :=
  let used := here.map fun w => (w.scratchBase, w.cfg.alloc)
  let ok := fun (b : Nat) => b + n ≤ Config.scratchMax && used.all fun u => b + n ≤ u.1 || u.1 + u.2 ≤ b
  ((0 :: used.map fun u => u.1 + u.2).filter ok).min?

/-- Moves of allocations toward 0: old base, new base and size, in ascending order. -/
def closeUp : List (Nat × Nat) → Nat → List (Nat × Nat × Nat)
  | [], _ => []
  | (b, n) :: l, at' => (b, at', n) :: closeUp l (at' + n)

/-- Where the moves take a byte of an allocation. -/
def movedTo (ms : List (Nat × Nat × Nat)) (a : Nat) : Option Nat :=
  (ms.find? fun m => m.1 ≤ a && a < m.1 + m.2.2).map fun m => a - m.1 + m.2.1

/-- A transaction's lines and buffered writes of the SRAM follow a move. -/
def Tx.moved (y : Tx) (ms : List (Nat × Nat × Nat)) : Tx :=
  let line := fun (l : LineId) => if l.sram then { l with n := ((movedTo ms (32 * l.n)).getD 0) / 32 } else l
  { y with
    reads := y.reads.map line, writes := y.writes.map line, whole := y.whole.map line
    redoSram := y.redoSram.filterMap fun e => (movedTo ms e.1).map (·, e.2) }

/-- The allocations of a cluster close up, so that the free bytes lie together: its bytes with their checks, and whatever
names them by their place, move. No value that a program can read changes but KTDESC.BASE (R240, R360). -/
def State.compact (s : State) (c : Nat) : State :=
  let here := (s.wgs.filter fun w => w.cluster == c).map fun w => (w.scratchBase, w.cfg.alloc)
  let ms := closeUp (here.mergeSort fun a b => a.1 ≤ b.1) 0
  let line := fun (k : Nat) => (movedTo ms (32 * k)).map (· / 32)
  let s := s.modCl c fun cl => { cl with
    sram := cl.sram.filterMap fun e => (movedTo ms e.1).map (·, e.2)
    sramSyn := cl.sramSyn.filterMap fun e => (line e.1).map (·, e.2)
    sramEcc := cl.sramEcc.filterMap line
    mq := cl.mq.map fun o => { o with addr := (movedTo ms o.addr).getD o.addr } }
  { s with wgs := s.wgs.map fun w =>
      if w.cluster ≠ c then w
      else
        let base := (movedTo ms w.scratchBase).getD w.scratchBase
        { w.mapUnits fun _ u => { u with tx := u.tx.map fun y => y.moved ms } with
          scratchBase := base, ktBase := base + w.cfg.sPrime } }

/-- Room for a new allocation on a cluster that fits it (R360), and where it begins. -/
def State.makeRoom (s : State) (c n : Nat) : State × Nat :=
  let here := fun (s : State) => s.wgs.filter fun w => w.cluster == c
  match allocBase (here s) n with
  | some b => (s, b)
  | none => (s.compact c, sumOf ((here s).map (·.cfg.alloc)))

/-- A workgroup takes its place on a cluster: the quads' banking changes where it must (R35), and the L1 gives up the SRAM
that the scratchpad takes (R18, R360). -/
def State.settleWg (s : State) (w : Workgroup) : State :=
  let s' := { s with wgs := s.wgs ++ [w] }
  let s' := if s.padBytes w.cluster < s'.padBytes w.cluster then
      ({ (s.l1empty w.cluster) with wgs := s.wgs ++ [w] } : State).txLines w.cluster
    else s'
  s.rebank s' w.cluster

-- Units (R350, R358, R359).

/-- WGID of member (0, 0) of unit `i` (R350). -/
def LaunchRec.unitAt (r : LaunchRec) (i : Nat) : Nat × Nat × Nat :=
  let nx := r.wgx / r.ew
  let ny := r.wgy / r.eh
  (i % nx * r.ew, i / nx % ny * r.eh, i / nx / ny)

/-- Microseconds of a number of clocks, rounded down. -/
def State.usOf (s : State) (n : Nat) : Nat := n * 1000 / s.rateKHz

/-- The level of a unit of a priority that has waited since a moment (R358). -/
def State.levelAt (s : State) (p since : Nat) : Nat :=
  if 40 ≤ p then p else min (min (p + s.usOf (s.clock - since) / s.ageq.toNat) (p + 8)) 39

/-- A dispatchable unit (R358): its launch, the saved unit if it is one, its level and rank keys. -/
structure DUnit where
  l : Launch
  saved : Option SavedUnit
  level : Nat
  since : Nat
  deriving DecidableEq, Repr

/-- The dispatchable units: the next unit of each dispatching launch, and the resumable saved units (R358, R365, R381,
R399). -/
def State.dunits (s : State) : List DUnit :=
  (s.launches.filterMap fun l =>
    if l.state = .dispatching ∧ l.next < l.cfg.units ∧ (s.ctx l.ctx).hold = false then
      some ⟨l, none, s.levelAt l.cfg.priority l.since, l.since⟩ else none) ++
  s.saved.filterMap fun u =>
    match s.launches.find? fun l => l.id == u.launch with
    | none => none
    | some l =>
      if (s.ctx u.ctx).hold || u.joinWait || s.fmis u.ctx then none
      else some ⟨l, some u, s.levelAt l.cfg.priority u.since, u.since⟩

/-- The rank of R359. -/
def DUnit.before (a b : DUnit) : Bool :=
  b.level < a.level || (a.level = b.level && (a.since < b.since || (a.since = b.since && a.l.id < b.l.id)))

/-- Insert a unit by its rank. -/
def insertUnit (a : DUnit) : List DUnit → List DUnit
  | [] => [a]
  | b :: l => if a.before b then a :: b :: l else b :: insertUnit a l

/-- The units in rank order. -/
def State.ranked (s : State) : List DUnit := s.dunits.foldl (fun l u => insertUnit u l) []

-- Rectangles (R350, R360).

/-- The clusters of a rectangle, with the members' positions. -/
def rectOf (x y w h : Nat) : List (Nat × Nat × Nat) :=
  (List.range h).flatMap fun ey => (List.range w).map fun ex => (ex, ey, clusterAt (x + ex) (y + ey))

/-- The top-left places of a w by h rectangle on a die, in ascending order of Y and then X. -/
def dieSpots (d w h : Nat) : List (Nat × Nat) :=
  (List.range (9 - h)).flatMap fun y => (List.range (10 - w)).map fun x => (9 * (d % 4) + x, 8 * (d / 4) + y)

/-- The dies in search order: from the one after the die that received the previous unit (R360). -/
def State.dieOrder (s : State) : List Nat :=
  (List.range 8).map fun i => ((match s.lastDie with
    | none => 0
    | some d => d + 1) + i) % 8

/-- All places of a rectangle in search order: die, X, Y. -/
def State.spots (s : State) (w h : Nat) : List (Nat × Nat × Nat) :=
  s.dieOrder.flatMap fun d => (dieSpots d w h).map fun p => (d, p.1, p.2)

/-- The clusters that R361 keeps for other units than this one. -/
def State.keptFor (s : State) (u : DUnit) : List Nat :=
  let area := fun (r : Option (Nat × Nat × Nat)) (c : LaunchRec) => match r with
    | some (_, x, y) => (rectOf x y c.ew c.eh).map (·.2.2)
    | none => []
  (s.launches.flatMap fun l => if u.saved.isNone && l.id = u.l.id then [] else area l.rect l.cfg) ++
    s.saved.flatMap fun v =>
      if u.saved = some v then []
      else match s.launches.find? fun l => l.id == v.launch with
        | some l => area v.rect l.cfg
        | none => []

/-- The rectangle that R361 has chosen for a unit. -/
def DUnit.rect (u : DUnit) : Option (Nat × Nat × Nat) :=
  match u.saved with
  | some v => v.rect
  | none => u.l.rect

/-- Whether every member fits at a place beside some workgroups, off some clusters (R360). -/
def fitsAt (ws : List Workgroup) (avoid : List Nat) (r : LaunchRec) (p : Nat × Nat × Nat) : Bool :=
  (rectOf p.2.1 p.2.2 r.ew r.eh).all fun m => !avoid.contains m.2.2 && fits ws m.2.2 r

/-- The first place where every member fits (R360). -/
def State.findSpot (s : State) (ws : List Workgroup) (avoid : List Nat) (r : LaunchRec) : Option (Nat × Nat × Nat) :=
  (s.spots r.ew r.eh).find? (fitsAt ws avoid r)

/-- Where a unit fits now: in the rectangle chosen for it, else in search order. -/
def State.spotFor (s : State) (u : DUnit) : Option (Nat × Nat × Nat) :=
  let kept := s.keptFor u
  match u.rect.filter (fitsAt s.wgs kept u.l.cfg) with
  | some p => some p
  | none => s.findSpot s.wgs kept u.l.cfg

-- Starting (R34, R351, R373).

/-- Zero an allocation of a cluster's SRAM. -/
def Cluster.zeroSram (cl : Cluster) (base n : Nat) : Cluster :=
  let out := fun (k : Nat) => k < base || base + n ≤ k
  let outS := fun (k : Nat) => 32 * k + 32 ≤ base || base + n ≤ 32 * k
  { cl with
    sram := cl.sram.filter fun e => out e.1
    sramSyn := cl.sramSyn.filter fun e => outS e.1
    sramEcc := cl.sramEcc.filter outS }

/-- Zero the matrix state (R351). -/
def Cluster.zeroMatrix (cl : Cluster) : Cluster := { cl with ab := [], bb := [], acc := [], sa := [], sb := [], plan := 0 }

/-- The entry address of a column (R87, R88, R348). A role's entry that is no multiple of 4, of which no rule speaks,
loses its low bits, as the PC has none (R58): a choice of the model (log entry 91). -/
def CodeObj.entryOf (o : CodeObj) (r : LaunchRec) (ex ey col : Nat) : Nat :=
  let i := o.roleOf ex ey col
  match o.roles[i]? with
  | some g => (g.textVa + (if i = 0 then r.entry else g.entry)) / 4 * 4
  | none => 0

/-- The fused size of a fusion count, if it fuses. -/
def fusionSize (n : Nat) : Option FSize :=
  if n = 8 then some .f8 else if n = 16 then some .f16 else if n = 32 then some .f32 else none

/-- The threads and groups of a workgroup at its start (R34, R98, R351, R373). -/
def startThreads (r : LaunchRec) (ctx : Nat) (entry : Nat → Nat) : Map Thread × List Group :=
  let sh : Shared := { priv := if ctx = 0 then .s else .u }
  let regs := ((List.range 4).zip r.args).foldl (fun (g : LaneRegs) (a : Nat × Word) =>
    g.sset (BitVec.ofNat 5 (4 + a.1)) a.2) {}
  let size := fusionSize r.fusion
  let lane := fun (t : Nat) => match size with
    | some f => t % laneCount f
    | none => 0
  let th := fun (t : Nat) =>
    ({ r := regs, u := { pc := w64 (entry (t / 32)), sh := sh }, gen := genSeed sh.srseed (lane t) } : Thread)
  let gs := match size with
    | none => []
    | some f => (List.range (r.threads / laneCount f)).map fun k =>
        let t0 := k * laneCount f
        let m : Mask := BitVec.ofNat 32 (2 ^ laneCount f - 1)
        ({ col := t0 / 32, base := t0 % 32, f := f, live := m, active := m
           u := { pc := w64 (entry (t0 / 32)), sh := sh } } : Group)
  ((List.range r.threads).map fun t => (t, th t), gs)

/-- Start one workgroup on a cluster (R351): an acquire at SYSTEM. -/
def State.startWg (s : State) (l : Launch) (unit level : Nat) (pinned : BitVec 7) (gid : Nat × Nat × Nat)
    (m : Nat × Nat × Nat) : State :=
  let c := m.2.2
  let here := s.wgs.filter fun w => w.cluster == c
  let (s, base) := s.makeRoom c l.cfg.alloc
  let entry := match s.objects.find? fun o => o.handle == l.obj with
    | some o => o.entryOf l.cfg m.1 m.2.1
    | none => fun _ => 0
  let (ths, gs) := startThreads l.cfg l.ctx entry
  let w : Workgroup :=
    { id := s.nextId, unit := unit, launch := l.id, ctx := l.ctx, gx := gid.1 + m.1, gy := gid.2.1 + m.2.1, gz := gid.2.2
      cluster := c, cols := (freeSlots here).take l.cfg.columns, threads := ths, groups := gs, cfg := l.cfg, obj := l.obj
      scratchBase := base, ktBase := base + l.cfg.sPrime, level := level, pinned := pinned, ex := m.1, ey := m.2.1 }
  let s' := s.modCl c fun cl =>
    let cl := cl.zeroSram base l.cfg.alloc
    if l.cfg.tiles = 0 then cl else cl.zeroMatrix
  (({ s' with nextId := s.nextId + 1 } : State).settleWg w).acquire c (List.range 32) .system

/-- Change a launch. -/
def State.modLaunch (s : State) (id : Nat) (f : Launch → Launch) : State :=
  { s with launches := s.launches.map fun l => if l.id = id then f l else l }

/-- Whether some member and column of a launch run a role (R88). -/
def CodeObj.runs (o : CodeObj) (r : LaunchRec) (role : Nat) : Bool :=
  (List.range r.ew).any fun ex => (List.range r.eh).any fun ey => (List.range (r.threads / 32)).any fun col =>
    o.roleOf ex ey col == role

/-- The pages of device memory where a range of addresses of a context lies. -/
def State.devPages (s : State) (ctx va n : Nat) : List Nat :=
  (bufPages (n / 4096 + 2) va n).filterMap fun p =>
    match (s.engineEnt none ctx (w64 p.1)).bind fun e => e.loc s.devNum (w64 p.1) with
    | some (.mem .dev pa _) => some (pa / 4096)
    | some (.mem (.peer _) _ _) | some (.mem .host _ _) | some (.mem .pcie _ _) | some (.sram _ _) | none => none

/-- The boot tree (R89): each entry whose role and root lie in the launch gives every member a read-only copy of the
role's text and read-only data. Along which rows and columns the copies run changes only when they arrive. -/
def State.bootTree (s : State) (l : Launch) (members : List Nat) : State :=
  match s.objects.find? fun o => o.handle == l.obj with
  | none => s
  | some o => o.boot.foldl (fun s e =>
      match o.roles[e.1]? with
      | none => s
      | some g =>
        if l.cfg.ew ≤ e.2.1 || l.cfg.eh ≤ e.2.2.1 || !o.runs l.cfg e.1 then s
        else (s.devPages l.ctx g.textVa g.textSize ++ s.devPages l.ctx g.roVa g.roSize).foldl (fun s k =>
          let s := s.homeSeenAll (clDie (members.headD 0)) (4096 * k) 4096
          let p := mget {} s.pages k
          { s with pages := mput s.pages k { p with replicated := true, copies := (p.copies ++ members).eraseDups } }) s) s

/-- Place the next unit of a launch (R350, R358, R402). -/
def State.startUnit (s : State) (u : DUnit) (at' : Nat × Nat × Nat) : State :=
  let l := u.l
  let gid := l.cfg.unitAt l.next
  let pinned := (s.ctx l.ctx).featset
  let unit := s.nextId
  let rect := rectOf at'.2.1 at'.2.2 l.cfg.ew l.cfg.eh
  let s := rect.foldl (fun s m => s.startWg l unit u.level pinned gid m)
    { s with nextId := s.nextId + 1, lastDie := some at'.1 }
  (s.bootTree l (rect.map (·.2.2))).modLaunch l.id fun l => { l with
    next := l.next + 1, since := s.clock, passed := none, rect := none
    state := if l.next + 1 = l.cfg.units then .running else l.state }

end Sys2Proof.Machine
end

