-- ==== Sys2Proof/Machine/Ports.lean ====
section
/-!
DEFINITION. Neighbour-port instructions PCFG, PQRY, PWAITE (R232 to R235) and the movement of port values and credits
(R227, R229).
-/

namespace Sys2Proof.Machine

/-- PORTCFG's topology code (R108). -/
def topoCode : Topo → Nat
  | .off => 0
  | .lane => 1
  | .cluster => 2
  | .die => 3

/-- PCFG's trap 0x11 (R231). -/
def pcfgTrap (x : Issuer) (wrap : Bool) (t : Topo) : Option Nat :=
  if t = .cluster && wrap && !x.w.cfg.torus then some 4
  else if t ≠ .off && x.isTask then some 5 else none

/-- A value that stands in the source's outgoing buffer and holds a credit of a thread's incoming queue has left on that
credit: it enters the queue although the credit is revoked (R229, R233). -/
def State.goesOn (s : State) (w : Workgroup) (t : Nat) (d : Dir) (vec : Bool) : State :=
  match s.peer w t d with
  | none => s
  | some (v, u) => match s.wg? v with
    | none => s
    | some w' =>
      let p := (w'.thr u).ports.get (dirOpp d)
      if s.mutual w' u (dirOpp d) ≠ some (w.id, t) || s.credits w' u (dirOpp d) vec = 0 then s
      else if vec then
        if p.outV.isNone || p.goV.isSome then s
        else (s.modThr v u fun th => th.modPort (dirOpp d) fun q => { q with goV := some (w.id, t) }).modThr w.id t fun th =>
          th.modPort d fun q => { q with dueV := q.dueV + 1 }
      else
        if p.outS.isNone || p.goS.isSome then s
        else (s.modThr v u fun th => th.modPort (dirOpp d) fun q => { q with goS := some (w.id, t) }).modThr w.id t fun th =>
          th.modPort d fun q => { q with dueS := q.dueS + 1 }

/-- PCFG (R233): waits for the direction's values, changes the register, and grants the free entries to the new
source. -/
def execPcfg (d : Dir) (wrap : Bool) (t : Topo) (s : State) : Host.Outcome State Fault Refusal :=
  s.onUnit fun x =>
    if x.u.tx.isSome then s.abortExplicit x
    else match pcfgTrap x wrap t with
      | some c => s.trapAll x 0x11 (w64 c)
      | none =>
        if x.active.all fun u => (x.w.thr u).sentAll d then
          let s := x.active.foldl (fun s t => (s.goesOn x.w t d false).goesOn x.w t d true) s
          (s.modThrs x.id.wg x.active fun _ th => th.modPort d fun p =>
            { p with topo := t, wrap := wrap, retS := 0, retV := 0 }).retire x
        else s.stall

/-- PQRY's word (R234). -/
def State.pqryWord (s : State) (w : Workgroup) (t : Nat) (d : Dir) : Word :=
  let p := (w.thr t).ports.get d
  let b := fun (x : Bool) => if x then 1 else 0
  w64 (p.inS.length + 16 * p.inV.length + 128 * b p.outS.isSome + 256 * b p.outV.isSome
    + 512 * s.credits w t d false + 8192 * s.credits w t d true + 65536 * topoCode p.topo + 262144 * b p.wrap
    + 524288 * b (s.neigh w t d ≠ .none))

/-- PQRY (R234). -/
def execPqry (rd : R5) (d : Dir) (s : State) : Host.Outcome State Fault Refusal :=
  s.scalar0 rd fun x t => s.pqryWord x.w t d

/-- PWAITE (R235). -/
def execPwaite (mask : BitVec 4) (s : State) : Host.Outcome State Fault Refusal :=
  s.onUnit fun x =>
    if x.u.tx.isSome then s.abortExplicit x
    else if x.active.all fun t => (List.range 4).all fun i =>
        !mask.getLsbD i || (x.w.thr t).sentAll (dirOf i) then
      s.retire x
    else s.stall

/-- The thread whose queue a value of an outgoing buffer enters now: the one whose credit it holds (R229), or has left on
(R233). -/
def State.portDest (s : State) (w : Workgroup) (t : Nat) (d : Dir) (vec : Bool) : Option (Nat × Nat) :=
  let p := (w.thr t).ports.get d
  match if vec then p.goV else p.goS with
  | some q => some q
  | none => if s.credits w t d vec = 0 then none else s.mutual w t d

/-- A value that holds a credit leaves its outgoing buffer and enters the far queue, which is its completion event
(R227, R229, R230). -/
def State.portArrive (s : State) (wg t : Nat) (d : Dir) (vector : Bool) : State :=
  match s.wg? wg with
  | none => s
  | some w =>
    match s.portDest w t d vector with
    | none => s
    | some (v, u) =>
      let p := (w.thr t).ports.get d
      let less := fun (go : Option (Nat × Nat)) (due : Nat) => if go.isSome then due - 1 else due
      if vector then
        match p.outV with
        | none => s
        | some (y, fl) =>
          let s := s.modThr v u fun th => th.modPort (dirOpp d) fun q =>
            { q with inV := q.inV ++ [y], dueV := less p.goV q.dueV }
          let s := s.modThr wg t fun th => th.modPort d fun q => { q with outV := none, goV := none }
          (s.flagDone fl).portsGone wg t
      else
        match p.outS with
        | none => s
        | some (y, fl) =>
          let s := s.modThr v u fun th => th.modPort (dirOpp d) fun q =>
            { q with inS := q.inS ++ [y], dueS := less p.goS q.dueS }
          let s := s.modThr wg t fun th => th.modPort d fun q => { q with outS := none, goS := none }
          (s.flagDone fl).portsGone wg t

/-- PORT_VALUE_ARRIVE. -/
def execPortValueArrive (wg t : Nat) (d : Dir) (vector : Bool) (s : State) : Host.Outcome State Fault Refusal :=
  .next (s.portArrive wg t d vector)

/-- PORT_CREDIT_ARRIVE: the credit of an entry that a thread popped reaches the queue's source (R229). -/
def execPortCreditArrive (wg t : Nat) (d : Dir) (vector : Bool) (s : State) : Host.Outcome State Fault Refusal :=
  .next <|
    match s.wg? wg with
    | none => s
    | some w =>
      if (mfind w.threads t).isNone then s
      else s.modThr wg t fun th => th.modPort d fun p =>
        if vector then { p with retV := p.retV - 1 } else { p with retS := p.retS - 1 }

end Sys2Proof.Machine
end

