-- ==== Sys2Proof/Machine/Save.lean ====
section
/-!
DEFINITION. Saving a unit (R53, R75, R238, R263, R325, R326, R393 to R396): the drains, the workgroup area, and the freeing
of its resources.
-/

namespace Sys2Proof.Machine

-- The drains (R394 step 4).

/-- Whether nothing of a workgroup is still on its way: running tasks (R394), matrix instructions (R210), remote stores
from it or toward it (R283), stores that wait for a link, messages that bear a flag (R75), copy-engine commands
(R326). -/
def State.drained (s : State) (w : Workgroup) : Bool :=
  (w.threads.all fun e => e.1 < 128) && ((s.cl w.cluster).mq.all fun o => o.wg ≠ w.id) &&
    (s.remote.all fun r => r.wg ≠ w.id && !(r.done.isNone && r.launch = w.launch && r.target = w.cluster)) &&
    (s.linkReqs.all fun q => !q.store || q.wg ≠ w.id) && (s.flights.all fun m => m.flag.isNone || m.wg ≠ w.id) &&
    s.cmds.all fun e => !e.cmd.isCopy || e.wg ≠ w.id

/-- The issuing units of a workgroup, by their lowest threads. -/
def Workgroup.unitIds (w : Workgroup) : List Nat :=
  (w.threads.filterMap fun e => if (w.groupOf e.1).isNone && !e.2.exited then some e.1 else none) ++
    w.groups.map Group.t0

/-- Port values of a unit's threads that hold a credit enter their far queues, as do those on their way to its queues on
credits granted earlier (R233, R238 step 2). A value of another unit
that has not left its buffer when the unit's threads stop holds a credit no longer (R238 step 1). -/
def State.portsFlush (s : State) (unit : Nat) : State :=
  let mine := fun (go : Option (Nat × Nat)) => go.any fun q => (s.wg? q.1).any fun w => w.unit = unit
  let all := s.wgs.flatMap fun w => w.threads.flatMap fun e => [Dir.n, .e, .s, .w].filterMap fun d =>
    let p := e.2.ports.get d
    if w.unit = unit || mine p.goS || mine p.goV then some (w.id, e.1, d) else none
  all.foldl (fun s (y : Nat × Nat × Dir) => (s.portArrive y.1 y.2.1 y.2.2 false).portArrive y.1 y.2.1 y.2.2 true) s

/-- The killed threads of a unit end; the values that find no credit are saved (R238 step 3, R392). -/
def State.endDying (s : State) (unit : Nat) : State :=
  ((s.wgs.filter fun w => w.unit == unit).flatMap fun w =>
    (w.threads.filter fun e => e.2.dying).map fun e => (w.id, e.1)).foldl (fun s y => s.endThreads y.1 [y.2]) s

/-- Pending completion events of a thread are over, but for the acceptance of commands in its FIFO (R75), which alone
those that have two events still wait for. `fifo` are the flags that commands of FIFOs hold in this thread. -/
def Thread.flagsDrained (th : Thread) (fifo : List Nat) : Thread :=
  let out := fun (p : Port) => { p with outS := p.outS.map fun y => (y.1, none), outV := p.outV.map fun y => (y.1, none) }
  { th with
    storeFlags := [], busy := [], halves := []
    fifo := th.fifo.map fun c => { c with flag := c.flag.map fun f => { f with half := none } }
    ports := ⟨out th.ports.n, out th.ports.e, out th.ports.s, out th.ports.w⟩
    cf := fifo.foldl (fun m cf => mset 0 m cf (mget 0 m cf + 1)) [] }

/-- Flags held in a thread by commands of the workgroup's FIFOs (R75). -/
def Workgroup.fifoFlags (w : Workgroup) (t : Nat) : List Nat :=
  w.threads.flatMap fun e => e.2.fifo.filterMap fun c => match c.flag with
    | some f => if f.lanes.contains t then some f.cf else none
    | none => none

-- Windows and linked barriers (R325).

/-- A linked barrier goes to INV: its generation rises and its pending count is 0. -/
def stgInvalid (b : StgBits) : StgBits := stgSet (stgSet (stgSet b 34 1 1) 48 12 (stgGen b + 1)) 104 16 0

/-- Each OPEN entry of a workgroup goes to INV, and each barrier linked to one, once. -/
def State.windowsInv (s : State) (w : Workgroup) : State :=
  let mine := (s.cl w.cluster).windows.filter fun e => e.2.owner == some w.id && e.2.st == .opened
  let bars := ((mine.filter fun e => e.2.link).map fun e => e.2.bar).eraseDups
  let s := bars.foldl (fun s b => match s.stgLoc w.id b with
    | some l => s.stgWrite none l (stgInvalid (s.stgRead l))
    | none => s) s
  let inv := fun (e : Nat × Window) =>
    if e.2.owner = some w.id ∧ e.2.st = .opened then (e.1, { e.2 with st := .inv, gen := (e.2.gen + 1) % 4096 }) else e
  s.modCl w.cluster fun cl => { cl with windows := cl.windows.map inv }

-- The area (R395).

def winCode : WinState → Nat
  | .closed => 0
  | .opened => 1
  | .inv => 2

/-- The first 4,096 bytes of an area, after the header's doublewords: tables, barriers, windows and counts. -/
def Workgroup.areaHead (w : Workgroup) (cl : Cluster) (nq : Nat) : List Byte :=
  let table := fun (k : KtTable) =>
    leBytes 8 (ktDesc k.off k) ++ leBytes 8 k.spillVa ++ leBytes 8 (k.cap + 2 ^ 32 * k.used) ++
      leBytes 8 (k.live + 2 ^ 32 * k.tomb)
  let bar := fun (h : Nat) =>
    let b := mget {} w.hbs h
    leBytes 16 b.member.toNat ++ leBytes 16 b.arrived.toNat ++
      leBytes 8 (bnat b.valid + 2 * bnat b.phase + 4 * bnat b.inv + 8 * bnat b.ens)
  let win := fun (n : Nat) =>
    let e := mget {} cl.windows n
    if e.owner = some w.id then
      leBytes 8 (1 + 2 * winCode e.st + 2 ^ 3 * e.gen + 2 ^ 15 * e.off + 2 ^ 34 * e.size + 2 ^ 54 * bnat e.link) ++
        leBytes 8 e.bar
    else zeroBytes 16
  let c := w.cfg
  c.areaStart w.wgid ++ padTo 128 (w.kt.flatMap table) ++
    (List.range 16).flatMap bar ++ (List.range 16).flatMap win ++ leBytes 8 nq ++ leBytes 8 w.pinned.toNat ++
    zeroBytes 3024

/-- A run-queue entry of an area. -/
def RunEnt.bytes (e : RunEnt) : List Byte :=
  leBytes 4 e.pipe ++ leBytes 4 e.hoff ++ leBytes 8 e.body.toNat ++ leBytes 8 e.hdr.toNat ++ zeroBytes 8

/-- A workgroup's run-queue entries, by pipe ascending, in queue order within each (R395). -/
def Workgroup.runEnts (w : Workgroup) (cl : Cluster) : List RunEnt :=
  (List.range 32).flatMap fun p => cl.runq.filter fun e => e.wg == w.id && e.pipe == p

/-- Bytes from 0x5000 to the view: the matrix part, zero without accumulator tiles (R395). -/
def Workgroup.areaMatrix (w : Workgroup) (cl : Cluster) : List Byte :=
  if w.cfg.tiles = 0 then zeroBytes 0x11000
  else
    mgets 0 cl.sa 0 512 ++ mgets 0 cl.sb 0 2048 ++ leBytes 1 cl.plan.toNat ++ zeroBytes 1535 ++
      mgets 0 cl.ab 0 32768 ++ mgets 0 cl.bb 0 32768 ++
      (List.range (4096 * w.cfg.tiles)).flatMap fun i => leBytes 4 (mget 0 cl.acc i).toNat

/-- The window view's bytes. -/
def Workgroup.viewBytes (w : Workgroup) (cl : Cluster) : List Byte :=
  (List.range (w.cfg.sPrime + w.cfg.kt)).map fun o => mget 0 cl.sram (w.phys o)

/-- The sectors of a workgroup's view, as they number those of its allocation's SRAM and of a copy of the view. -/
def Workgroup.viewLines (w : Workgroup) (at' : Nat) : List (Nat × Nat) :=
  (List.range ((w.cfg.sPrime + w.cfg.kt) / 32)).map fun k => (w.scratchBase / 32 + k, at' / 32 + k)

/-- The view's sectors carry their checks into the area (R302, R304). -/
def State.checksOut (s : State) (w : Workgroup) (at' : Nat) : State :=
  let cl := s.cl w.cluster
  if cl.sramSyn.isEmpty && cl.sramEcc.isEmpty then s
  else (w.viewLines at').foldl (fun s k => { s with
    memSyn := mset 0 s.memSyn k.2 (mget 0 cl.sramSyn k.1)
    memEcc := if cl.sramEcc.contains k.1 then k.2 :: s.memEcc else s.memEcc }) s

/-- The sectors of an area, as it stood in `old`, carry their checks back into the view. -/
def State.checksIn (s old : State) (w : Workgroup) (at' : Nat) : State :=
  if old.memSyn.isEmpty && old.memEcc.isEmpty then s
  else s.modCl w.cluster fun cl => (w.viewLines at').foldl (fun cl k => { cl with
    sramSyn := mset 0 cl.sramSyn k.1 (mget 0 old.memSyn k.2)
    sramEcc := if old.memEcc.contains k.2 then k.1 :: cl.sramEcc else cl.sramEcc }) cl

/-- Write a workgroup's area, and what it has no place for (R395, R396). -/
def State.writeArea (s : State) (w : Workgroup) (area : Nat) : State × SavedWg :=
  let cl := s.cl w.cluster
  let q := w.runEnts cl
  let s := s.homeWrite .dev area (w.areaHead cl q.length)
  let s := s.homeWrite .dev (area + 0x1000) (padTo 0x4000 (q.flatMap RunEnt.bytes))
  let s := s.homeWrite .dev (area + 0x5000) (w.areaMatrix cl)
  let s := s.homeWrite .dev (area + w.cfg.areaView)
    (padTo (w.cfg.areaImages - w.cfg.areaView) (w.viewBytes cl))
  let s := s.checksOut w (area + w.cfg.areaView)
  let s := (List.range w.cfg.threads).foldl (fun s t =>
    s.homeWrite .dev (area + w.cfg.areaImages + 4096 * t) (s.imageBytes (w.imageSrc t))) s
  (s, { id := w.id, gx := w.gx, gy := w.gy, gz := w.gz, ex := w.ex, ey := w.ey, area := area, size := w.cfg.areaSize
        cols := w.cols.length
        children := w.threads.map fun e => (e.1, e.2.children, e.2.childDone)
        fifoFlags := w.threads.filterMap fun e =>
          if e.2.fifo.isEmpty then none else some (e.1, e.2.fifo.map fun c => (c.flag, c.priv))
        ctxsels := w.threads.map fun e => (e.1, e.2.ctxsel)
        hbsyncs := w.threads.filterMap fun e => e.2.hbsync.map fun h => (e.1, h)
        released := w.hbs.map fun h => (h.1, h.2.released)
        hbWaits := w.threads.filterMap fun e => e.2.hbWait.map fun h => (e.1, h)
        runCols := q.map (·.col) })

-- Space in the save region (R393).

/-- The lowest place of a context's save region, at a multiple of 4,096, that is free for `n` bytes. -/
def areaSpot (base size n : Nat) (used : List (Nat × Nat)) : Option Nat :=
  let cands := base :: used.map fun u => roundUp (u.1 + u.2) 4096
  (cands.filter fun a => base ≤ a && a + n ≤ base + size && a + n ≤ Config.devBytes &&
    used.all fun u => a + n ≤ u.1 || u.1 + u.2 ≤ a).min?

/-- Places for the areas of a unit's workgroups, one by one; none where the region cannot hold them all. -/
def areaSpots (base size : Nat) : List Nat → List (Nat × Nat) → Option (List Nat)
  | [], _ => some []
  | n :: ns, used =>
    match areaSpot base size n used with
    | none => none
    | some a => (areaSpots base size ns ((a, n) :: used)).map (a :: ·)

/-- The areas of saved workgroups. -/
def State.areas (s : State) : List (Nat × Nat) := s.saved.flatMap fun u => u.wgs.map fun v => (v.area, v.size)

-- Joining (R365).

/-- The moment at which the last live thread of a workgroup began to wait in JOINWAIT, when every live thread is not
ready there: its children have not all completed. -/
def Workgroup.joinSince (w : Workgroup) : Option Nat :=
  if w.unitIds.isEmpty || w.unitIds.any fun t => (w.ust t).waiting ≠ .join || (w.thr t).children = 0 then none
  else (w.unitIds.map fun t => ((w.ust t).waitSince.getD 0).toNat).max?

-- Saving.

/-- Open transactions of a workgroup abort with PREEMPT (R394 step 2). -/
def State.abortAll (s : State) (w : Workgroup) : State :=
  w.unitIds.foldl (fun s t => s.txAbort w.id t (abortStatus 4 0 0)) s

/-- What each workgroup of a unit does before its area is written (R394): pending events complete, windows go to INV,
releases at SYSTEM. -/
def State.quiesce (s : State) (wg : Nat) : State :=
  match s.wg? wg with
  | none => s
  | some w =>
    let s := s.modWg wg fun w => { w with
      threads := w.threads.map fun e => (e.1, { e.2.flagsDrained (w.fifoFlags e.1) with park := none }) }
    (s.windowsInv w).release w.cluster (List.range 32) .system

/-- A saved workgroup's resources are freed (R394 step 6). -/
def State.freeWg (s : State) (w : Workgroup) : State :=
  let s' := { s with
    wgs := s.wgs.filter fun v => v.id ≠ w.id
    linkReqs := s.linkReqs.filter fun q => q.wg ≠ w.id || q.wb }.retryPins
  let s' := s'.modCl w.cluster fun cl => { cl with
    merge := cl.merge.map fun e => { e with waiters := e.waiters.filter fun v => v.wg ≠ w.id }
    runq := cl.runq.filter fun e => e.wg ≠ w.id
    windows := cl.windows.map fun e => if e.2.owner = some w.id then (e.1, { e.2 with owner := none }) else e }
  s.rebank s' w.cluster

/-- Clear the critical marks of a unit (R57). -/
def State.clearCrit (s : State) (unit : Nat) : State :=
  { s with wgs := s.wgs.map fun w =>
      if w.unit = unit then w.mapUnits fun _ u => { u with sh := { u.sh with crit := none } } else w }

/-- A unit that is not saved keeps running. A rectangle that R361 had chosen over it is given up: the attempt repeats
after another GATHER. -/
def State.keepRunning (s : State) (ws : List Workgroup) : State :=
  let held := fun (r : Option (Nat × Nat × Nat)) (launch : Nat) =>
    match r, s.launches.find? fun l => l.id == launch with
    | some (_, x, y), some l => (rectOf x y l.cfg.ew l.cfg.eh).any fun m => ws.any fun w => w.cluster == m.2.2
    | _, _ => false
  { s with
    wgs := s.wgs.map fun w => if ws.any fun v => v.id == w.id then { w with saveReq := none, begun := false } else w
    launches := s.launches.map fun l => if held l.rect l.id then { l with rect := none, passed := some s.clock } else l
    saved := s.saved.map fun u => if held u.rect u.launch then { u with rect := none, passed := some s.clock } else u }

/-- The save of a unit begins, once (R394 step 2): its open transactions abort. A save with IMM clears its marks (R57).
What a task that runs on opens later is its own (R394 step 3). -/
def State.beginSave (s : State) (ws : List Workgroup) (unit : Nat) : State :=
  if ws.any (·.begun) then s
  else
    let s := if ws.any fun w => w.saveReq == some .imm then s.clearCrit unit else s
    let s := ws.foldl State.abortAll s
    { s with wgs := s.wgs.map fun w => if w.unit = unit then { w with begun := true } else w }

/-- Save a unit, once its save proceeds: its transactions abort, and when everything has drained its areas are
written. Where its context's save region cannot hold it, it keeps running (R393, R394). -/
def State.saveUnit (s : State) (unit : Nat) : State :=
  let ws := s.wgs.filter fun w => w.unit == unit
  match ws with
  | [] => s
  | w0 :: _ =>
    if !s.saving w0 then s
    else
      let join := ws.all fun w => w.saveReq == some .join
      let c := s.ctx w0.ctx
      -- a save that was put off is over when the threads no longer wait
      if join && ws.any fun w => w.joinSince.isNone then s.keepRunning ws
      else match areaSpots c.svbase.toNat c.svsize.toNat (ws.map (·.cfg.areaSize)) s.areas with
        | none => (s.keepRunning ws).logError 8 w0.ctx 0 0
        | some spots =>
          let s := s.beginSave ws unit
          if !ws.all s.drained then s
          else
            let s := (s.portsFlush unit).endDying unit
            let s := ws.foldl (fun s w => s.quiesce w.id) s
            let one := fun (p : State × List SavedWg) (y : Workgroup × Nat) =>
              match p.1.wg? y.1.id with
              | none => p
              | some w =>
                let (s, v) := p.1.writeArea w y.2
                (s, p.2 ++ [v])
            let (s, vs) := (ws.zip spots).foldl one (s, [])
            let s := ws.foldl State.freeWg s
            let waits := vs.any fun v => v.children.any fun k => k.2.1 ≠ 0
            -- a unit whose last threads have ended as their values left is over (R392)
            if vs.isEmpty then s
            else { s with saved := s.saved ++ [{ id := unit, launch := w0.launch, ctx := w0.ctx, wgs := vs
                                                 pinned := w0.pinned, since := s.clock, level := w0.level
                                                 joinWait := join && waits }] }

/-- WORKGROUP_SAVE: the unit of a workgroup is saved (R394). -/
def execWorkgroupSave (wg : Nat) (s : State) : Host.Outcome State Fault Refusal :=
  .next <| match s.wg? wg with
    | some w => s.saveUnit w.unit
    | none => s

end Sys2Proof.Machine
end

