-- ==== Sys2Proof/Machine/Restore.lean ====
section
/-!
DEFINITION. Restoring a saved unit (R53, R74, R238, R346, R366, R398): its place, the contents of its areas, and the
acquire at SYSTEM.
-/

namespace Sys2Proof.Machine

-- What an area holds (R395, R396).

/-- What a thread had beside its image. -/
def SavedWg.complete (v : SavedWg) (t : Nat) (th : Thread) : Thread :=
  let own := v.children.find? fun c => c.1 == t
  let extra := (v.fifoFlags.find? fun c => c.1 == t).map (·.2)
  { th with
    children := (own.map (·.2.1)).getD 0
    childDone := (own.map (·.2.2)).getD 0
    ctxsel := ((v.ctxsels.find? fun c => c.1 == t).map (·.2)).getD 0
    hbsync := (v.hbsyncs.find? fun c => c.1 == t).map (·.2)
    hbWait := (v.hbWaits.find? fun c => c.1 == t).map (·.2)
    fifo := (th.fifo.zip ((extra.getD []) ++ List.replicate 4 (none, .u))).map fun y =>
      { y.1 with flag := y.2.1, priv := y.2.2 } }

/-- A table from its 32 bytes, unpinned. -/
def tableOf (b : List Byte) : KtTable :=
  let d := bfield b 0 8
  { valid := nbit d 63, spilled := nbit d 62, aop := nbits d 61 60, vt := nbits d 59 58, plim := nbits d 57 55
    logb := nbits d 54 51, off := nbits d 18 5 * 32, spillVa := bfield b 8 8, cap := bfield b 16 4
    used := bfield b 20 4, live := bfield b 24 4, tomb := bfield b 28 4 }

/-- A window entry from its 16 bytes, when the workgroup owned it. -/
def windowOf (b : List Byte) (wg : Nat) : Option Window :=
  let x := bfield b 0 8
  if nbit x 0 then
    some { st := if nbits x 2 1 = 1 then .opened else if nbits x 2 1 = 2 then .inv else .closed
           gen := nbits x 14 3, off := nbits x 33 15, size := nbits x 53 34, link := nbit x 54, bar := bfield b 8 3
           owner := some wg }
  else none

/-- Bytes as sparse storage. -/
def mapOf (bs : List Byte) : Map Byte := msets 0 [] 0 bs

/-- 4-byte elements as sparse storage. -/
def mapOf32 (bs : List Byte) : Map (BitVec 32) :=
  msets 0 [] 0 ((List.range (bs.length / 4)).map fun i => BitVec.ofNat 32 (bfield bs (4 * i) 4))

-- Spill buffers (R253, R398).

/-- The translation of a page of a spill buffer, pinned afresh; none where it does not translate for writing. -/
def State.pinPage (s : State) (ctx p : Nat) : Option (Nat × Loc) :=
  let va := w64 (4096 * p)
  match s.walk ctx va with
  | .fail _ => none
  | .leaf level e =>
    if leafAllows e .s .store then
      ((⟨ctx, level, vpnOf va level, e⟩ : TlbEnt).loc s.devNum va).map fun l => (vpnOf va 0, l)
    else none

/-- The pages of a table's spill buffer, by number. -/
def KtTable.spillPages (k : KtTable) : List Nat := if k.valid then pagesOf k.spillVa (8 * k.cap) else []

/-- The translations of a table's spill buffer; none where a page has none. -/
def State.repin (s : State) (ctx : Nat) (k : KtTable) : Option (List (Nat × Loc)) :=
  k.spillPages.mapM (s.pinPage ctx)

/-- A workgroup's tables with their pins, or the first table that cannot be pinned and its spill address. -/
def State.tablesOf (s : State) (ctx : Nat) (v : SavedWg) : Except (Nat × Nat) (List KtTable) :=
  (List.range 4).foldr (fun i (acc : Except (Nat × Nat) (List KtTable)) =>
    let k := tableOf (s.homeBytes .dev (v.area + 0x20 + 32 * i) 32)
    match s.repin ctx k with
    | none => .error (i, k.spillVa)
    | some ps => acc.map fun ks => { k with pins := ps } :: ks) (.ok [])

/-- What a pinning that fails does beside reading (R274): the area's tables are read, and the pages of the spill buffers
walked, up to the first that cannot be pinned. -/
def State.pinSeen (s : State) (ctx : Nat) (v : SavedWg) (c : Nat) : State :=
  let ps := (List.range 4).flatMap fun i => (tableOf (s.homeBytes .dev (v.area + 0x20 + 32 * i) 32)).spillPages
  let ok := ps.takeWhile fun p => (s.pinPage ctx p).isSome
  (ps.take (ok.length + 1)).foldl (fun s p => s.walkSeen (clDie c) ctx (w64 (4096 * p)))
    (s.homeSeenAll (clDie c) (v.area + 0x20) 128)

-- Placing (R398).

/-- Put the windows of a saved workgroup into its cluster; an entry that another workgroup holds open stays as it is. -/
def Cluster.putWindows (cl : Cluster) (es : List (Nat × Window)) : Cluster :=
  es.foldl (fun cl e =>
    if (mget {} cl.windows e.1).st = .opened then cl else { cl with windows := mput cl.windows e.1 e.2 }) cl

/-- What reading a saved workgroup's area does beside reading (R274): the cluster where it resumes reads each part that
the area holds, and the tables that map the spill buffers. -/
def State.areaSeen (s : State) (r : LaunchRec) (v : SavedWg) (kts : List KtTable) (ctx c : Nat) : State :=
  let nq := leNat (s.homeBytes .dev (v.area + 0x420) 8)
  let parts := [(0, 0x430), (0x1000, 32 * min nq 512), (r.areaView, r.sPrime + r.kt), (r.areaImages, 4096 * r.threads)] ++
    if r.tiles = 0 then [] else [(0x5000, 0x11000 + 16384 * r.tiles)]
  let s := parts.foldl (fun s p => s.homeSeenAll (clDie c) (v.area + p.1) p.2) s
  (kts.flatMap (·.pins)).foldl (fun s p => s.walkSeen (clDie c) ctx (w64 (4096 * p.1))) s

/-- Restore one workgroup of a unit on a cluster, from its area as it stood when the unit was about to resume. -/
def State.restoreWg (s old : State) (l : Launch) (u : SavedUnit) (level : Nat) (v : SavedWg) (kts : List KtTable) (c : Nat) :
    State :=
  let r := l.cfg
  let here := s.wgs.filter fun w => w.cluster == c
  let s := s.areaSeen r v kts l.ctx c
  let (s, base) := s.makeRoom c r.alloc
  let bytes := fun (o n : Nat) => old.homeBytes .dev (v.area + o) n
  let image := fun (t : Nat) => bytes (r.areaImages + 4096 * t) 4096
  let ths := (List.range r.threads).map fun t => (t, v.complete t (s.imageThread (image t) {}))
  let gs := ths.filterMap fun e => imageGroup (image e.1) e.1 e.2.u
  let hbs := (List.range 16).map fun h =>
    (h, hbOf (bytes (0xA0 + 40 * h) 40) (((v.released.find? fun y => y.1 == h).map (·.2)).getD 0))
  let w : Workgroup :=
    { id := v.id, unit := u.id, launch := l.id, ctx := l.ctx, gx := v.gx, gy := v.gy, gz := v.gz, cluster := c
      cols := (freeSlots here).take r.columns, threads := ths, groups := gs, cfg := r, obj := l.obj
      scratchBase := base, ktBase := base + r.sPrime, hbs := hbs, kt := kts, level := level, pinned := u.pinned
      ex := v.ex, ey := v.ey }
  let wins := (List.range 16).filterMap fun n => (windowOf (bytes (0x320 + 16 * n) 16) v.id).map fun e => (n, e)
  let nq := leNat (bytes 0x420 8)
  let runs := (List.range nq).map fun i =>
    let b := bytes (0x1000 + 32 * i) 32
    ({ wg := v.id, pipe := bfield b 0 1, hoff := bfield b 4 4, col := v.runCols.getD i 0, body := w64 (bfield b 8 8)
       hdr := w64 (bfield b 16 8) } : RunEnt)
  let matrix := fun (cl : Cluster) =>
    if r.tiles = 0 then cl
    else { cl with
      sa := mapOf (bytes 0x5000 512), sb := mapOf (bytes 0x5200 2048), plan := BitVec.ofNat 8 (leNat (bytes 0x5A00 1))
      ab := mapOf (bytes 0x6000 32768), bb := mapOf (bytes 0xE000 32768)
      acc := mapOf32 (bytes 0x16000 (16384 * r.tiles)) }
  let s' := s.modCl c fun cl =>
    { (matrix (cl.zeroSram base r.alloc)).putWindows wins with runq := cl.runq ++ runs }
  let s' := (s'.sramWrite c base (bytes r.areaView (r.sPrime + r.kt))).checksIn old w (v.area + r.areaView)
  -- commands that ran on have the workgroup's window where it is now (R326)
  let s' := { s' with cmds := s'.cmds.map fun (e : EngCmd) => if e.wg = v.id then { e with cluster := c } else e }
  (s'.settleWg w).acquire c (List.range 32) .system

/-- The cluster of a unit's workgroup, at a place: a die and the corner of a rectangle. -/
def SavedWg.cluster (v : SavedWg) (at' : Nat × Nat × Nat) : Nat := clusterAt (at'.2.1 + v.ex) (at'.2.2 + v.ey)

/-- A unit's spill buffers could not be pinned: it stays saved, and the error is logged (R398). -/
def State.pinFailed (s : State) (u : SavedUnit) (at' : Nat × Nat × Nat) (k va : Nat) : State :=
  let mark := fun (w : SavedUnit) => if w.id = u.id then { w with pinFail := true } else w
  let ok := u.wgs.takeWhile fun v => (s.tablesOf u.ctx v).toOption.isSome
  let s := (u.wgs.take (ok.length + 1)).foldl (fun s v => s.pinSeen u.ctx v (v.cluster at')) s
  { s with saved := s.saved.map mark }.logError 7 u.ctx k (w64 va)

/-- Restore a unit at a place of its rectangle: every spill buffer is pinned again first, or it stays saved with the
error 0x07 logged (R398). -/
def State.restoreUnit (s : State) (d : DUnit) (u : SavedUnit) (at' : Nat × Nat × Nat) : State :=
  let one := fun (v : SavedWg) (acc : Except (Nat × Nat) (List (SavedWg × List KtTable))) =>
    match s.tablesOf u.ctx v with
    | .error e => .error e
    | .ok ks => acc.map fun l => (v, ks) :: l
  match u.wgs.foldr one (.ok []) with
  | .error (k, va) => s.pinFailed u at' k va
  | .ok vs =>
    let old := s
    let s := { s with saved := s.saved.filter fun k => k.id ≠ u.id, lastDie := some at'.1 }
    let s := vs.foldl (fun s y => s.restoreWg old d.l u d.level y.1 y.2 (y.1.cluster at')) s
    -- a unit whose threads have all ended while it was being saved ends here
    vs.foldl (fun s y => s.wgCheck y.1.id) s

/-- The first unit in rank order that fits, and its place (R359). A saved unit whose pins have failed stays saved until
resources are freed or its context resumes, so that it does not hold up those after it (log entry 92). -/
def State.placeable (s : State) : Option (DUnit × (Nat × Nat × Nat)) :=
  s.ranked.findSome? fun d => if d.saved.any (·.pinFail) then none else (s.spotFor d).map fun p => (d, p)

/-- WORKGROUP_RESTORE: a saved unit resumes when it is the first in rank order that fits (R359, R398). -/
def execWorkgroupRestore (unit : Nat) (s : State) : Host.Outcome State Fault Refusal :=
  .next <| match s.placeable with
    | some (d, p) => match d.saved with
      | some u => if u.id = unit then s.restoreUnit d u p else s
      | none => s
    | none => s

end Sys2Proof.Machine
end

