-- ==== Sys2Proof/Machine/Distributor.lean ====
section
/-!
DEFINITION. The distributor (R275, R352 to R363): doorbells, launch queues, range lists, placement with pre-emption, levels,
gathering, joining; and the watchdogs (R30, R347).
-/

namespace Sys2Proof.Machine

-- Launch queues (R352, R381).

def LQueue.en (q : LQueue) : Bool := nbit q.cfg.toNat 24
def LQueue.ctx (q : LQueue) : Nat := nbits q.cfg.toNat 23 12
def LQueue.pre (q : LQueue) : Bool := nbit q.cfg.toNat 11
def LQueue.ceil (q : LQueue) : Nat := nbits q.cfg.toNat 10 5
def LQueue.k (q : LQueue) : Nat := nbits q.cfg.toNat 4 0

def State.queue (s : State) (q : Nat) : LQueue := mget {} s.queues q

/-- A doorbell write (R352, R404): it sets the tail, unless the value lies outside [head, head + 2^k] or the function
is not the one that the queue's context is bound to. -/
def State.doorbell (s : State) (fn q : Nat) (v : BitVec 32) : State :=
  let x := s.queue q
  if (fn ≠ 0 && mget 0 s.bindings x.ctx ≠ fn) || 2 ^ x.k < (v - x.head).toNat then
    s.logError 4 x.ctx q (v.setWidth 64)
  else { s with queues := mput s.queues q { x with tail := v } }

/-- DOORBELL. -/
def execDoorbell (fn q : Nat) (value : BitVec 32) (s : State) : Host.Outcome State Fault Refusal :=
  .next (if 1024 ≤ q || 64 < fn then s else s.doorbell fn q value)

/-- Queues that have a record to take. -/
def State.pendingQueues (s : State) : List Nat :=
  s.queues.filterMap fun e => if e.2.en && e.2.head ≠ e.2.tail then some e.1 else none

/-- The queue whose turn it is (R352): round-robin. -/
def State.queueNext (s : State) : Option Nat :=
  let ks := s.pendingQueues
  match (ks.filter fun k => s.rrQueue < k).min? with
  | some k => some k
  | none => ks.min?

/-- Take the next record of a queue: it is copied, the head word is written, and the launch is published or refused. The
distributor's reads count as those of no stack's die (R274, log entry 105). -/
def State.queueTake (s : State) (q : Nat) : State :=
  let x := s.queue q
  let b := s.homeBytes .dev (x.base.toNat + 128 * (x.head.toNat % 2 ^ x.k)) 128
  let s := s.homeSeenAll 8 (x.base.toNat + 128 * (x.head.toNat % 2 ^ x.k)) 128
  let s := s.homeWrite .dev x.headWord.toNat (leBytes 8 (x.head + 1).toNat)
  let s := { s with queues := mput s.queues q { x with head := x.head + 1 }, rrQueue := q }
  let r := recordOf b
  match s.recordBad b x.ctx (s.objNamed x.ctx r.code) x.ceil true with
  | some reason => s.logError 3 x.ctx (q % 1024 + 65536 * reason) (x.head.setWidth 64)
  | none => s.publish { id := 0, ctx := x.ctx, cfg := r, pre := x.pre, ceil := x.ceil, obj := r.code }

/-- LAUNCH_QUEUE_TAKE: in the queue's round-robin turn, and only while fewer than 8,192 host launches are published and
not complete (R352). -/
def execLaunchQueueTake (q : Nat) (s : State) : Host.Outcome State Fault Refusal :=
  .next (if s.queueNext = some q ∧ (s.launches.filter fun l => l.pool = .host).length < 8192 then s.queueTake q else s)

-- Range lists (R275).

/-- Where a virtual address of a context lies, by a walk at level U. -/
def State.walkLoc (s : State) (ctx : Nat) (k : Access) (va : Word) : Option (Loc × Word) :=
  if !canonical va || isWindow va then none
  else match s.walk ctx va with
    | .fail _ => none
    | .leaf level e =>
      if leafAllows e (if ctx = 0 then .s else .u) k then
        ((⟨ctx, level, vpnOf va level, e⟩ : TlbEnt).loc s.devNum va).map fun l => (l, e)
      else none

/-- The 16 bytes of entry `i` of a range list; none where they cannot be read. -/
def State.rangeEntry (s : State) (l : Launch) (i : Nat) : Option (List Byte) :=
  match s.walkLoc l.ctx .load (w64 (l.cfg.ranges + 16 * i)) with
  | some (.mem .dev pa _, _) => if (s.homeFail pa 16).isSome then none else some (s.homeBytes .dev pa 16)
  | some (.mem sp pa _, _) => some (s.homeBytes sp pa 16)
  | some (.sram _ _, _) | none => none

/-- What reading entry `i` of a range list does beside reading (R274). -/
def State.rangeSeen (s : State) (l : Launch) (i : Nat) : State :=
  let va := w64 (l.cfg.ranges + 16 * i)
  let s := if !canonical va || isWindow va then s else s.walkSeen 8 l.ctx va
  match s.walkLoc l.ctx .load va with
  | some (.mem sp pa _, _) => s.seenAt 8 sp pa 16
  | some (.sram _ _, _) | none => s

/-- Move `n` bytes of device memory from one address to another with their checks; both are multiples of `n`. The copies
of both places in the L1s are written back first and go, with the instruction words, and transactions lose the lines. -/
def State.moveBytes (s : State) (src dst n : Nat) : State :=
  let within := fun (a : Nat) => (src ≤ a && a < src + n) || (dst ≤ a && a < dst + n)
  let inside := fun (l : L1Line) => l.sp = .dev && within (32 * l.line)
  let s := (s.clusters.map (·.1)).foldl (fun s c => (((s.l1flush c inside).l1drop c inside).txLines c).modCl c fun cl =>
    { cl with icache := cl.icache.filter fun k => !within k.1 }) s
  let lands := fun (a unit : Nat) => dst ≤ unit * a && unit * a < dst + n
  let takes := fun (a unit : Nat) => src ≤ unit * a && unit * a < src + n
  { s with
    pages := pageWrites s.pages dst n
    mem := (s.mem.filter fun e => takes e.1 1).foldl (fun (m : Map Byte) e => mset 0 m (e.1 - src + dst) e.2)
      (s.mem.filter fun e => !lands e.1 1)
    memSyn := (s.memSyn.filter fun e => takes e.1 32).foldl
      (fun (m : Map (BitVec 16)) e => mset 0 m (e.1 - src / 32 + dst / 32) e.2) (s.memSyn.filter fun e => !lands e.1 32)
    memEcc := ((s.memEcc.filter fun (k : Nat) => takes k 32).map fun k => k - src / 32 + dst / 32) ++
      s.memEcc.filter fun (k : Nat) => !lands k 32 }

/-- Put a unit's workgroups at a place, among others: what placement sees of them. -/
def placeGhost (ws : List Workgroup) (vs : List Workgroup) (r : LaunchRec) (p : Nat × Nat × Nat) : List Workgroup :=
  vs.foldl (fun ws v =>
    let c := clusterAt (p.2.1 + v.ex) (p.2.2 + v.ey)
    let here := ws.filter fun w => w.cluster == c
    ws ++ [{ v with cluster := c, cols := (freeSlots here).take r.columns }]) ws

/-- The members of a unit of a launch, as placement sees them. -/
def Launch.ghosts (l : Launch) : List Workgroup :=
  (List.range l.cfg.eh).flatMap fun ey => (List.range l.cfg.ew).map fun ex =>
    { id := 0, unit := 0, launch := l.id, ctx := l.ctx, gx := 0, gy := 0, gz := 0, cluster := 0, cols := [], threads := []
      cfg := l.cfg, ex := ex, ey := ey }

/-- The dies that would receive the next `n` units of a launch, in turn, as far as they fit beside some workgroups now
(R360). -/
def State.planDies (s : State) (l : Launch) : Nat → List Workgroup → List Nat
  | 0, _ => []
  | n + 1, ws =>
    match s.findSpot ws (s.keptFor ⟨l, none, 0, 0⟩) l.cfg with
    | none => []
    | some p => p.1 :: State.planDies { s with lastDie := some p.1 } l n (placeGhost ws l.ghosts l.cfg p)

/-- The dies of a launch's units (R275): of those that are placed and those that would be now, since the actions come
before the first is dispatched (log entry 60). -/
def State.launchDies (s : State) (l : Launch) : List Nat :=
  ((s.wgs.filter fun w => w.launch == l.id).map fun w => clDie w.cluster) ++ s.planDies l (l.cfg.units - l.next) s.wgs

/-- The die that holds most of a launch's workgroups (R275). Of equal dies it is the lowest; where none would be placed, a
free value (log entry 60). -/
def State.mostDie (s : State) (l : Launch) : Nat :=
  let ds := s.launchDies l
  let count := fun (d : Nat) => (ds.filter (· == d)).length
  let top := (((List.range 8).map count).max?).getD 0
  if ds.isEmpty then Config.diePick s.free % 8 else ((List.range 8).find? fun d => count d = top).getD 0

/-- The leaves below a table of level n − 1, by address and size. Entries of a table that memory does not list are 0. -/
def State.leaves (s : State) : Nat → Nat → List (Nat × Nat)
  | 0, _ => []
  | n + 1, table =>
    let span := if n = 3 then 2097152 else 4096
    let ix := ((s.mem.filter fun e => table ≤ e.1 && e.1 < table + span).map fun e => (e.1 - table) / 8).eraseDups
    ix.flatMap fun i =>
      let e := w64 (leNat (s.homeBytes .dev (table + 8 * i) 8))
      if !nbit e.toNat 0 then []
      else if nbit e.toNat 1 then [(leafPa e, 4096 * 512 ^ n)]
      else State.leaves s n (leafPa e)

/-- Device memory in use, by address and size: what a context's tables map, the rings and queues of the device's
registers, and bytes and errors that memory lists. -/
def State.inUse (s : State) : List (Nat × Nat) :=
  (s.ctxs.flatMap fun c =>
    let root := c.2.ptroot.toNat
    if nbit root 0 then s.leaves 4 (nbits root 51 21 * 2 ^ 21) else []) ++
  [(s.fqbase.toNat, 32 * 2 ^ s.fqLog2n), (s.eqbase.toNat, 32 * 2 ^ s.eqLog2n)] ++
  (s.queues.flatMap fun q => [(q.2.base.toNat, 128 * 2 ^ q.2.k), (q.2.headWord.toNat, 8)]) ++
  (s.sqRun.flatMap fun r => [(leNat (r.2.entry.take 8), 64 * 65536), (leNat ((r.2.entry.drop 8).take 8), 16 * 65536)]) ++
  s.mem.map (fun e => (e.1, 1)) ++ s.memSyn.map (fun e => (32 * e.1, 32)) ++ s.memEcc.map fun k => (32 * k, 32)

/-- The first frame of a size in a stack, from a number on, that is not in use; at most `fuel` are tried. -/
def freeFrame (used : List (Nat × Nat)) (base n count : Nat) : Nat → Nat → Option Nat
  | 0, _ => none
  | fuel + 1, k =>
    let a := base + n * (k % count)
    if used.any fun u => rangesMeet u.1 u.2 a n then freeFrame used base n count fuel (k + 1) else some a

/-- MIGRATE of a page, to a stack: its bytes go to a place there that nothing uses, which the device picks, so that no
value changes, and the leaf entry names it; where there is none, the page stays. Translations that TLBs and waiting
instructions hold are no longer right and go. A page of a CONTIG group leaves the group, whose other pages then
translate one by one. -/
def State.migrate (s : State) (ctx : Nat) (va : Word) (level : Nat) (leaf : Word) (die : Nat) : State :=
  let n := 4096 * 512 ^ level
  let src := leafPa leaf
  let frame := freeFrame s.inUse (die * Config.stackBytes) n (Config.stackBytes / n) 65536 (Config.freeWord s.free).toNat
  if src / Config.stackBytes = die then s
  else match s.leafOf ctx va, frame with
    | some at', some dst =>
      let s := { s with free := s.free + 1 }.moveBytes src dst n
      let s := if !nbit leaf.toNat 7 || level ≠ 0 then s else s.contigOff at'
      let attr := if level = 0 then leafAttr leaf &&& ~~~0x80 else leafAttr leaf
      let s := s.homeWrite .dev at' (leBytes 8 (attr.toNat + dst))
      let gone := fun (e : TlbEnt) => e.meets ⟨ctx, level, vpnOf va level, leaf⟩
      let pin := fun (l : Loc) => match l with
        | .mem .dev a nc => if src ≤ a ∧ a < src + n then Loc.mem .dev (a - src + dst) nc else l
        | .mem (.peer _) _ _ | .mem .host _ _ | .mem .pcie _ _ | .sram _ _ => l
      { s.forget gone with wgs := (s.forget gone).wgs.map fun (w : Workgroup) => { w with
          kt := w.kt.map fun (k : KtTable) => { k with pins := k.pins.map fun p => (p.1, pin p.2) } } }
    | _, _ => s

/-- One page's action: PREFETCH changes no state; REPLICATE sets the page's mode, with copies in the
slices of the launch's dies, and restarts its counts; MIGRATE moves a page whose leaf permits it to the die that holds
most of the launch's workgroups (R275). -/
def State.pageAction (s : State) (l : Launch) (action : Nat) (va : Word) : State :=
  let s := s.walkSeen 8 l.ctx va
  match s.walk l.ctx va with
  | .fail _ => s
  | .leaf level e =>
    match (⟨l.ctx, level, vpnOf va level, e⟩ : TlbEnt).loc s.devNum va with
    | some (.mem .dev pa _) =>
      let k := pa / 4096
      if action = 1 then
        let p := mget {} s.pages k
        { s with pages := mput s.pages k { p with
            reads := 0, writes := 0, replicated := true, dies := (p.dies ++ s.launchDies l).eraseDups } }
      else if action = 2 ∧ nbit e.toNat 11 = true then s.migrate l.ctx va level e (s.mostDie l)
      else s
    | some (.mem (.peer _) _ _) | some (.mem .host _ _) | some (.mem .pcie _ _) | some (.sram _ _) | none => s

/-- The entries of a range list from `i` on; at most `n`. An entry with a page that is not mapped is skipped, its walks up
to that page having been made (R274, R275). -/
def State.rangeList (l : Launch) : Nat → Nat → State → State
  | 0, _, s => s
  | n + 1, i, s =>
    let b := s.rangeEntry l i
    let s := s.rangeSeen l i
    match b with
    | none => s.logError 1 l.ctx i (w64 (l.cfg.ranges + 16 * i))
    | some b =>
      let f := bfield b
      if f 8 4 = 0 then s
      else
        let pages := (List.range (f 8 4)).map fun j => w64 (f 0 8 + 4096 * j)
        let mapped := fun (va : Word) => canonical va && !isWindow va &&
          ((s.engineEnt none l.ctx va).bind fun e => e.loc s.devNum va).isSome
        let skip := fun (s : State) => s.logError 1 l.ctx i (w64 (l.cfg.ranges + 16 * i))
        let ok := pages.takeWhile mapped
        let s := if f 0 8 % 4096 ≠ 0 || f 13 3 ≠ 0 || 2 < f 12 1 then skip s
          else if ok.length < pages.length then
            skip ((pages.take (ok.length + 1)).foldl (fun s va =>
              if !canonical va || isWindow va then s else s.walkSeen 8 l.ctx va) s)
          else pages.foldl (fun s va => s.pageAction l (f 12 1) va) s
        State.rangeList l n (i + 1) s

/-- Whether a ready launch's actions are the next to begin: in readiness order (R356). -/
def State.stagesNext (s : State) (l : Launch) : Bool :=
  s.launches.all fun m => m.state ≠ .ready || l.since < m.since || (l.since = m.since && l.id ≤ m.id)

/-- RANGE_LIST_STAGING: a ready launch's actions begin, or all of them are done (R275, R356). -/
def execRangeListStaging (launch : Nat) (s : State) : Host.Outcome State Fault Refusal :=
  .next <| match s.launches.find? fun l => l.id == launch with
    | none => s
    | some l =>
      if l.state = .ready ∧ s.stagesNext l = true then s.modLaunch launch fun l => { l with state := .staging }
      else if l.state = .staging then
        let s := State.rangeList l 64 0 s
        s.modLaunch launch fun l => { l with state := .dispatching, since := s.clock }
      else s

-- The choice of workgroups to move (R361, R362).

/-- Critical threads of a workgroup (R56). -/
def Workgroup.critThreads (w : Workgroup) : Nat :=
  sumOf (w.groups.map fun g => if g.u.sh.crit.isSome then (g.lanesOf g.live).length else 0) +
    (w.threads.filter fun e => (w.groupOf e.1).isNone && !e.2.exited && e.2.u.sh.crit.isSome).length

/-- The keys of R361: the highest level, critical threads, workgroups. -/
abbrev MoveKey := Nat × Nat × Nat

def keyOf (ws : List Workgroup) : MoveKey :=
  (((ws.map (·.level)).max?).getD 0, sumOf (ws.map Workgroup.critThreads), ws.length)

/-- One key comes before another. -/
def keyBefore (a b : MoveKey) : Bool :=
  a.1 < b.1 || (a.1 = b.1 && (a.2.1 < b.2.1 || (a.2.1 = b.2.1 && a.2.2 < b.2.2)))

/-- The first of the least of some options by their keys. -/
def leastBy {α : Type} (key : α → MoveKey) (l : List α) : Option α :=
  l.foldl (fun b x => match b with
    | none => some x
    | some y => if keyBefore (key x) (key y) then some x else some y) none

def subsetsOf {α : Type} : List α → List (List α)
  | [] => [[]]
  | a :: l => subsetsOf l ++ (subsetsOf l).map (a :: ·)

/-- The workgroups of some units. -/
def State.ofUnits (s : State) (us : List Nat) : List Workgroup := s.wgs.filter fun w => us.contains w.unit

/-- The units on a cluster. -/
def State.unitsOn (s : State) (c : Nat) : List Nat := ((s.wgs.filter fun w => w.cluster == c).map (·.unit)).eraseDups

/-- Whether every workgroup of a unit may be pre-empted for a level (R362). -/
def State.mayPreempt (s : State) (level unit : Nat) : Bool :=
  (s.ofUnits [unit]).all fun w => w.level < level && s.launches.any fun l => l.id == w.launch && l.pre

/-- The units to pre-empt in a rectangle so that a unit fits there, by the keys of R361; none where it cannot be. -/
def State.victims (s : State) (u : DUnit) (p : Nat × Nat × Nat) : Option (List Nat) :=
  let without := fun (us : List Nat) => s.wgs.filter fun w => !us.contains w.unit
  let options := (rectOf p.2.1 p.2.2 u.l.cfg.ew u.l.cfg.eh).map fun m =>
    (subsetsOf ((s.unitsOn m.2.2).filter (s.mayPreempt u.level))).filter fun us => fits (without us) m.2.2 u.l.cfg
  let key := fun (us : List Nat) => keyOf (s.ofUnits us)
  let tops := options.map fun o => (leastBy key o).map fun us => (key us).1
  if tops.any Option.isNone then none
  else
    let top := ((tops.filterMap id).max?).getD 0
    let low := fun (us : List Nat) => (0, (key us).2)
    some ((options.flatMap fun o => (leastBy low (o.filter fun us => (key us).1 ≤ top)).getD []).eraseDups)

/-- The best choice of units to pre-empt for a unit that does not fit (R362). -/
def State.preemptChoice (s : State) (u : DUnit) : Option (List Nat) :=
  let kept := s.keptFor u
  let free := fun (p : Nat × Nat × Nat) =>
    (rectOf p.2.1 p.2.2 u.l.cfg.ew u.l.cfg.eh).all fun m => !kept.contains m.2.2
  leastBy (fun us => keyOf (s.ofUnits us)) (((s.spots u.l.cfg.ew u.l.cfg.eh).filter free).filterMap (s.victims u))

/-- Ask for the save of some units. -/
def State.askSave (s : State) (us : List Nat) (why : SaveWhy) : State :=
  { s with wgs := s.wgs.map fun w =>
      if us.contains w.unit then { w with saveReq := some (w.saveReq.getD why) } else w }

/-- A pre-emption of R362 is in progress. -/
def State.prioBusy (s : State) : Bool := s.wgs.any fun w => w.saveReq == some .prio

/-- When the top-ranked unit does not fit, running workgroups of a lower level are pre-empted for it, one pre-emption at
a time (R362). -/
def State.preemptTop (s : State) : State :=
  match s.ranked with
  | [] => s
  | u :: _ =>
    if s.prioBusy || (s.spotFor u).isSome then s
    else match s.preemptChoice u with
      | some us => s.askSave us .prio
      | none => s

/-- A passed-over ensemble unit counts its time from now (R361). -/
def State.notePassed (s : State) : State :=
  (s.ranked.filter fun u => u.l.cfg.ensW ≠ 0 && (s.spotFor u).isNone).foldl (fun s u =>
    match u.saved with
    | none => s.modLaunch u.l.id fun l => { l with passed := some (l.passed.getD s.clock) }
    | some v => { s with saved := s.saved.map fun k =>
        if k.id = v.id then { k with passed := some (k.passed.getD s.clock) } else k }) s

/-- DISPATCH_PLACE: the distributor considers the units in rank order (R359): the first that fits is placed when it is
new (a saved one is WORKGROUP_RESTORE's), ensembles passed over are noted, and the top-ranked unit makes room. -/
def execDispatchPlace (s : State) : Host.Outcome State Fault Refusal :=
  .next <|
    let s := s.notePassed.preemptTop
    match s.placeable with
    | some (u, p) => if u.saved.isNone then s.startUnit u p else s
    | none => s

/-- LEVEL_AGING: a launch's unit has the level that its waiting gives it (R358). -/
def execLevelAging (launch : Nat) (s : State) : Host.Outcome State Fault Refusal :=
  .next <|
    let s' := s.modLaunch launch fun l =>
      if l.state = .dispatching then { l with level := s.levelAt l.cfg.priority l.since } else l
    { s' with saved := s'.saved.map fun u =>
        match s.launches.find? fun l => l.id == u.launch && l.id == launch with
        | some l => if u.joinWait then u else { u with level := s.levelAt l.cfg.priority u.since }
        | none => u }

-- Gathering (R361).

/-- Whether there are destinations for some units, chosen together, off some clusters (R361). -/
def State.canMove (s : State) (avoid : List Nat) : List Nat → List Workgroup → Bool
  | [], _ => true
  | u :: us, ws =>
    let vs := s.ofUnits [u]
    match vs with
    | [] => State.canMove s avoid us ws
    | v :: _ => (s.spots v.cfg.ew v.cfg.eh).any fun p =>
        fitsAt ws avoid v.cfg p && State.canMove s avoid us (placeGhost ws vs v.cfg p)

/-- The units of a rectangle, when R361 can open it for a unit: only of lower levels (R363). -/
def State.opens (s : State) (u : DUnit) (p : Nat × Nat × Nat) : Option (List Nat) :=
  let cs := (rectOf p.2.1 p.2.2 u.l.cfg.ew u.l.cfg.eh).map (·.2.2)
  let us := (cs.flatMap s.unitsOn).eraseDups
  let kept := s.keptFor u
  let rest := s.wgs.filter fun w => !us.contains w.unit
  let low := (s.ofUnits us).all fun w => w.level < u.level
  if us.isEmpty || !low || cs.any kept.contains || !fitsAt rest kept u.l.cfg p || !s.canMove (cs ++ kept) us rest then none
  else some us

/-- The rectangle to open for a unit, and the units to move from it (R361). -/
def State.gatherChoice (s : State) (u : DUnit) : Option ((Nat × Nat × Nat) × List Nat) :=
  leastBy (fun c => keyOf (s.ofUnits c.2))
    ((s.spots u.l.cfg.ew u.l.cfg.eh).filterMap fun p => (s.opens u p).map fun us => (p, us))

/-- Since when a unit has been passed over. -/
def DUnit.passed (u : DUnit) : Option Nat :=
  match u.saved with
  | some v => v.passed
  | none => u.l.passed

/-- Set what R361 holds of a unit. -/
def State.setGather (s : State) (u : DUnit) (passed : Option Nat) (rect : Option (Nat × Nat × Nat)) : State :=
  match u.saved with
  | none => s.modLaunch u.l.id fun l => { l with passed := passed, rect := rect }
  | some v => { s with saved := s.saved.map fun k => if k.id = v.id then { k with passed := passed, rect := rect } else k }

/-- GATHER_EXPIRY: an ensemble unit of a launch that has been passed over for GATHER gets a rectangle opened by
migration, where pre-emption makes no room for it first (R361, R362); else the attempt repeats after another GATHER. -/
def execGatherExpiry (launch : Nat) (s : State) : Host.Outcome State Fault Refusal :=
  .next <|
    let due := fun (u : DUnit) => u.l.id == launch && u.l.cfg.ensW ≠ 0 && u.rect.isNone && match u.passed with
      | some c => s.usClocks s.gather.toNat ≤ s.clock - c
      | none => false
    match s.ranked.find? due with
    | none => s
    | some u =>
      let top := match s.ranked with
        | v :: _ => v = u && (s.prioBusy || (s.preemptChoice u).isSome)
        | [] => false
      if (s.spotFor u).isSome || top then s
      else match s.gatherChoice u with
        | none => s.setGather u (some s.clock) none
        | some (p, us) => (s.setGather u u.passed (some p)).askSave us .normal

-- Joining and watchdogs.

/-- JOINSPIN_EXPIRY: a unit whose every live thread has waited in JOINWAIT for JOINSPIN is to be saved (R365). -/
def execJoinspinExpiry (wg : Nat) (s : State) : Host.Outcome State Fault Refusal :=
  .next <| match s.wg? wg with
    | none => s
    | some w =>
      let due := fun (v : Workgroup) => match v.joinSince with
        | some c => s.usClocks s.joinspin.toNat ≤ s.clock - c
        | none => false
      if (s.ofUnits [w.unit]).all due then s.askSave [w.unit] .join else s

/-- TASK_WATCHDOG: a task that has run for the period raises trap 0x12, value 1, once (R30). An open transaction is
aborted first. -/
def execTaskWatchdog (wg t : Nat) (s : State) : Host.Outcome State Fault Refusal :=
  .next <|
    let th := s.thr wg t
    match th.task with
    | none => s
    | some (start, _) =>
      if th.wdDone || th.park.isSome || s.clock - start < s.usClocks s.wdtask.toNat then s
      else
        let s := s.txAbort wg t (abortStatus 3 0 0x12)
        let s := s.modThr wg t fun th => { th with wdDone := true }
        s.takeTrap wg t false 0x12 1 (s.thr wg t).u.pc

/-- WAIT_WATCHDOG: a watched wait in which the instruction was still found not ready when the period was over raises trap
0x12, value 2, at its instruction; an HBSYNC delivers the token of the arrival that stands (R347). -/
def execWaitWatchdog (wg t : Nat) (s : State) : Host.Outcome State Fault Refusal :=
  .next <| match s.wg? wg with
    | none => s
    | some w =>
      let x := w.issuer t
      match x.u.waiting, x.u.waitSince with
      | .watched, some c =>
        if x.u.waitSeen < c + s.usClocks s.wdwait.toNat then s
        else
          let s := x.active.foldl (fun s t =>
            match (w.thr t).hbsync with
            | some h => s.modThr wg t fun th => th.put (some (.s h.rd)) (BitVec.ofNat 256 (bnat h.token)) none
            | none => s) s
          s.trapLanes x false (x.active.map fun t => (t, 0x12, 2))
      | _, _ => s

end Sys2Proof.Machine
end

