-- ==== Sys2Proof/Machine/Keccak.lean ====
section
/-!
DEFINITION. SHA3-512 and SHAKE (FIPS 202), which R91, R92, R416 and R418 name or rest on, on bytes.
-/

namespace Sys2Proof.Machine

/-- Rotation offsets of the 25 lanes, lane (x, y) at x + 5·y. -/
def keccakRot : List Nat :=
  [0, 1, 62, 28, 27, 36, 44, 6, 55, 20, 3, 10, 43, 25, 39, 41, 45, 15, 21, 8, 18, 2, 61, 56, 14]

/-- Round constants. -/
def keccakRc : List Word :=
  [0x0000000000000001, 0x0000000000008082, 0x800000000000808A, 0x8000000080008000, 0x000000000000808B,
   0x0000000080000001, 0x8000000080008081, 0x8000000000008009, 0x000000000000008A, 0x0000000000000088,
   0x0000000080008009, 0x000000008000000A] ++
  [0x000000008000808B, 0x800000000000008B, 0x8000000000008089, 0x8000000000008003, 0x8000000000008002,
   0x8000000000000080, 0x000000000000800A, 0x800000008000000A, 0x8000000080008081, 0x8000000000008080,
   0x0000000080000001, 0x8000000080008008]

/-- A lane. -/
def lane (a : List Word) (i : Nat) : Word := a.getD i 0

/-- The column parities. -/
def keccakC (a : List Word) : List Word :=
  (List.range 5).map fun x => lane a x ^^^ lane a (x + 5) ^^^ lane a (x + 10) ^^^ lane a (x + 15) ^^^ lane a (x + 20)

/-- Theta. -/
def keccakTheta (a : List Word) : List Word :=
  let c := keccakC a
  let d := (List.range 5).map fun x => lane c ((x + 4) % 5) ^^^ (lane c ((x + 1) % 5)).rotateLeft 1
  (List.range 25).map fun i => lane a i ^^^ lane d (i % 5)

/-- Rho and pi. -/
def keccakRhoPi (a : List Word) : List Word :=
  (List.range 25).map fun i =>
    let y := i % 5
    let x := (i % 5 + 3 * (i / 5)) % 5
    (lane a (x + 5 * y)).rotateLeft (keccakRot.getD (x + 5 * y) 0)

/-- Chi. -/
def keccakChi (a : List Word) : List Word :=
  (List.range 25).map fun i =>
    let r := i / 5 * 5
    lane a i ^^^ (~~~(lane a (r + (i + 1) % 5)) &&& lane a (r + (i + 2) % 5))

/-- One round. -/
def keccakRound (a : List Word) (rc : Word) : List Word :=
  let b := keccakChi (keccakRhoPi (keccakTheta a))
  (lane b 0 ^^^ rc) :: b.tail

/-- The permutation. -/
def keccakF (a : List Word) : List Word := keccakRc.foldl keccakRound a

/-- Absorb blocks of `k` lanes, at most `n` of them. -/
def keccakAbsorb (k : Nat) : Nat → List Word → List Byte → List Word
  | 0, a, _ => a
  | n + 1, a, bs =>
    if bs.isEmpty then a
    else
      let a' := (List.range 25).map fun i =>
        if i < k then lane a i ^^^ w64 (leNat ((bs.drop (8 * i)).take 8)) else lane a i
      keccakAbsorb k n (keccakF a') (bs.drop (8 * k))

/-- The padding of a message of `n` bytes to whole blocks of `k` lanes, with the bits that tell the functions apart. -/
def keccakPad (k d n : Nat) : List Byte :=
  let m := 8 * k - n % (8 * k)
  if m = 1 then [BitVec.ofNat 8 (d + 0x80)] else (BitVec.ofNat 8 d :: List.replicate (m - 2) 0) ++ [0x80]

/-- The state that has absorbed a message. -/
def sponge (k d : Nat) (m : List Byte) : List Word :=
  let p := m ++ keccakPad k d m.length
  keccakAbsorb k (p.length / (8 * k)) (List.replicate 25 0) p

/-- The next `n` blocks of a state's output. -/
def squeeze (k : Nat) : Nat → List Word → List Byte
  | 0, _ => []
  | n + 1, a => ((a.take k).flatMap fun w => leBytes 8 w.toNat) ++ squeeze k n (keccakF a)

/-- SHA3-512. -/
def sha3_512 (m : List Byte) : List Byte := (squeeze 9 1 (sponge 9 0x06 m)).take 64

/-- SHAKE128 and SHAKE256: `n` bytes of output. -/
def shake128 (m : List Byte) (n : Nat) : List Byte := (squeeze 21 (n / 168 + 1) (sponge 21 0x1F m)).take n
def shake256 (m : List Byte) (n : Nat) : List Byte := (squeeze 17 (n / 136 + 1) (sponge 17 0x1F m)).take n

end Sys2Proof.Machine
end

