-- ==== Sys2Proof/Machine/MlDsa.lean ====
section
/-!
DEFINITION. ML-DSA-87 verification (FIPS 204, pure, empty context string), which R91, R92 and R416 name. A polynomial is the
list of its 256 coefficients modulo q, from the constant term on.
-/

namespace Sys2Proof.Machine

/-- The modulus. -/
def dsaQ : Nat := 8380417
/-- Twice the rounding range γ2, which divides q − 1 by 16. -/
def dsaAlpha : Nat := 523776
/-- γ1, the range of the response. -/
def dsaGamma : Nat := 524288

abbrev Poly := List Nat

/-- A polynomial by its coefficients. -/
def polyOf (f : Nat → Nat) : Poly := (List.range 256).map f

/-- Sum, difference and product, coefficient by coefficient. -/
def polyAdd (a b : Poly) : Poly := List.zipWith (fun x y => (x + y) % dsaQ) a b
def polySub (a b : Poly) : Poly := List.zipWith (fun x y => (x + dsaQ - y) % dsaQ) a b
def polyMul (a b : Poly) : Poly := List.zipWith (fun x y => x * y % dsaQ) a b

-- The number-theoretic transform.

/-- The eight bits of a number in reverse order. -/
def bitRev8 (m : Nat) : Nat := (List.range 8).foldl (fun r i => 2 * r + m / 2 ^ i % 2) 0

/-- The powers of the root of unity 1753, in the order in which the transform takes them. -/
def zeta (m : Nat) : Nat := 1753 ^ bitRev8 m % dsaQ

/-- The transform of a list of 2^n coefficients at node `m`. -/
def nttFrom : Nat → Nat → Poly → Poly
  | 0, _, w => w
  | n + 1, m, w =>
    let a := w.take (2 ^ n)
    let t := (w.drop (2 ^ n)).map fun x => zeta m * x % dsaQ
    nttFrom n (2 * m) (polyAdd a t) ++ nttFrom n (2 * m + 1) (polySub a t)

/-- The inverse transform at node `m`, without its last factor. -/
def nttBack : Nat → Nat → Poly → Poly
  | 0, _, w => w
  | n + 1, m, w =>
    let a := nttBack n (2 * m + 1) (w.take (2 ^ n))
    let b := nttBack n (2 * m) (w.drop (2 ^ n))
    polyAdd a b ++ (polySub a b).map fun x => (dsaQ - zeta m) * x % dsaQ

def ntt (w : Poly) : Poly := nttFrom 8 1 w
/-- The inverse; 8347681 is the inverse of 256. -/
def nttInv (w : Poly) : Poly := (nttBack 8 1 w).map fun x => 8347681 * x % dsaQ

-- Bytes and coefficients.

/-- A polynomial of 256 fields of `w` bits. -/
def unpackPoly (w : Nat) (bs : List Byte) : Poly :=
  let x := leNat bs
  polyOf fun i => x / 2 ^ (w * i) % 2 ^ w

/-- The coefficients below q among the 23-bit numbers of some bytes. -/
def rejected : List Byte → Poly
  | a :: b :: c :: bs =>
    let z := c.toNat % 128 * 65536 + b.toNat * 256 + a.toNat
    if z < dsaQ then z :: rejected bs else rejected bs
  | _ => []

/-- An entry of the matrix that the seed of a public key expands to, transformed. Eight blocks hold 448 candidates for its
256 coefficients. -/
def expandEntry (seed : List Byte) (r s : Nat) : Poly :=
  (rejected (shake128 (seed ++ [BitVec.ofNat 8 s, BitVec.ofNat 8 r]) 1344)).take 256

/-- The polynomial with 60 coefficients 1 or −1 that a challenge names, from the bytes that place them: `i` is the place
to exchange, and `signs` the signs that are left. -/
def ballFrom : List Byte → Nat → Nat → Poly → Poly
  | [], _, _, c => c
  | j :: js, i, signs, c =>
    if 256 ≤ i then c
    else if i < j.toNat then ballFrom js i signs c
    else
      ballFrom js (i + 1) (signs / 2)
        ((c.set i (c.getD j.toNat 0)).set j.toNat (if signs % 2 = 1 then dsaQ - 1 else 1))

/-- The challenge polynomial. -/
def challenge (seed : List Byte) : Poly :=
  let h := shake256 seed 408
  ballFrom (h.drop 8) 196 (leNat (h.take 8)) (List.replicate 256 0)

/-- The places of the hints of each of 8 polynomials, from their 83 bytes: ascending in each, and no byte is left over. -/
def hintPlaces (y : List Byte) : Option (List (List Nat)) :=
  let at' := fun (i : Nat) => (y.getD i 0).toNat
  let ends := (List.range 8).map fun i => (if i = 0 then 0 else at' (74 + i), at' (75 + i))
  let rising := fun (a b : Nat) => (List.range (b - a - 1)).all fun k => at' (a + k) < at' (a + k + 1)
  if (ends.all fun e => e.1 ≤ e.2 && e.2 ≤ 75 && rising e.1 e.2) && (List.range 75).all fun i => i < at' 82 || at' i = 0 then
    some (ends.map fun e => (List.range (e.2 - e.1)).map fun k => at' (e.1 + k))
  else none

/-- The high part of a coefficient, as a hint corrects it. -/
def useHint (h : Bool) (r : Nat) : Nat :=
  let low := r % dsaAlpha
  let up := dsaAlpha / 2 < low
  let high := (r / dsaAlpha + if up then 1 else 0) % 16
  let pos := !up && low ≠ 0
  if !h then high else if pos then (high + 1) % 16 else (high + 15) % 16

/-- Whether a signature of a message verifies against a public key. -/
def mlDsaVerify (key msg sig : List Byte) : Bool :=
  let seed := key.take 32
  let part := fun (bs : List Byte) (off n i : Nat) => (bs.drop (off + n * i)).take n
  let t1 := (List.range 8).map fun i => unpackPoly 10 (part key 32 320 i)
  let c := sig.take 64
  let z := (List.range 7).map fun i => unpackPoly 20 (part sig 64 640 i)
  let small := z.all fun p => p.all fun x => 121 ≤ x && x + 121 ≤ 2 * dsaGamma
  match hintPlaces (sig.drop 4544) with
  | none => false
  | some hs =>
    let zs := z.map fun p => ntt (p.map fun x => (dsaGamma + dsaQ - x) % dsaQ)
    let cs := ntt (challenge c)
    let row := fun (r : Nat) =>
      let az := ((List.range 7).zip zs).foldl (fun a p => polyAdd a (polyMul (expandEntry seed r p.1) p.2))
        (List.replicate 256 0)
      let ct := polyMul cs (ntt ((t1.getD r []).map fun x => x * 8192 % dsaQ))
      let w := nttInv (polySub az ct)
      let h := hs.getD r []
      ((List.range 256).zip w).map fun p => useHint (h.contains p.1) p.2
    let high := (List.range 8).flatMap fun r => leBytes 128 ((row r).foldr (fun x n => x + 16 * n) 0)
    let mu := shake256 (shake256 key 64 ++ [0, 0] ++ msg) 64
    key.length = 2592 && sig.length = 4627 && small && c == shake256 (mu ++ high) 64

end Sys2Proof.Machine
end

