-- ==== Sys2Proof/Machine/Object.lean ====
section
/-!
DEFINITION. Code objects (R84 to R92): the checks of the root-of-trust core, relocation, and what a verified object gives.
-/

namespace Sys2Proof.Machine

/-- A section of an object (R85). -/
structure Sect where
  ty : Nat
  reserved : Nat
  off : Nat
  size : Nat
  role : Nat
  align : Nat
  deriving DecidableEq, Repr

/-- An object under verification: its bytes, its sections, and the address at which each is to be mapped. -/
structure Obj where
  b : List Byte
  sects : List Sect
  vas : List Nat
  deriving DecidableEq, Repr

def noIndex : Nat := 0xFFFF
def noRole : Nat := 0xFFFFFFFF

/-- Section `i` of a section table. -/
def sectAt (b : List Byte) (at' : Nat) : Sect :=
  let f := bfield b
  ⟨f at' 4, f (at' + 4) 4, f (at' + 8) 8, f (at' + 16) 8, f (at' + 24) 4, f (at' + 28) 4⟩

def Obj.n (o : Obj) : Nat := bfield o.b 8 4
def Obj.roleCount (o : Obj) : Nat := bfield o.b 12 4
/-- The bytes of a section. -/
def Obj.bytes (o : Obj) (s : Sect) : List Byte := (o.b.drop s.off).take s.size
/-- The address of a section. -/
def Obj.va (o : Obj) (i : Nat) : Nat := o.vas.getD i 0
/-- The entries of a section, `k` bytes each. -/
def Obj.entries (o : Obj) (s : Sect) (k : Nat) : List (List Byte) :=
  (List.range (s.size / k)).map fun i => ((o.bytes s).drop (k * i)).take k
def Obj.ofType (o : Obj) (ty : Nat) : List Sect := o.sects.filter fun s => s.ty == ty

/-- An object from a copy's bytes; its section table is read where the header says. -/
def objOfBytes (b : List Byte) (vas : List Nat) : Obj :=
  { b := b, vas := vas
    sects := (List.range (min (bfield b 8 4) 256)).map fun i => sectAt b (bfield b 16 8 + 32 * i) }

-- The checks (R84 to R92).

/-- R84: magic, version, sizes, offsets, counts and zero fields. -/
def Obj.headerOk (o : Obj) : Bool :=
  let f := bfield o.b
  f 0 4 = 0x34394C56 && f 4 2 = 1 && f 6 2 = 64 && 1 ≤ o.n && o.n ≤ 256 && 1 ≤ o.roleCount && o.roleCount ≤ 64 &&
    f 16 8 % 8 = 0 && f 16 8 + 32 * o.n ≤ o.b.length && f 24 8 = o.b.length && f 32 8 % 8 = 0 && f 40 24 = 0

/-- Section types that belong to a role (R86). -/
def perRole (ty : Nat) : Bool := ty = 1 || ty = 2 || ty = 3 || ty = 4 || ty = 8

/-- R85: a section's own fields, and its place in the object. -/
def Obj.sectOk (o : Obj) (s : Sect) : Bool :=
  ([1, 2, 3, 4, 5, 6, 7, 8, 9, 10, 15].contains s.ty) && s.reserved = 0 && s.align ≤ 16 && s.off + s.size ≤ o.b.length &&
    (s.role < o.roleCount || (s.role = noRole && !perRole s.ty))

/-- Whether two sections share a byte. -/
def Sect.overlaps (s t : Sect) : Bool := s.size ≠ 0 && t.size ≠ 0 && s.off < t.off + t.size && t.off < s.off + s.size

/-- No two of some sections overlap. -/
def disjointSects : List Sect → Bool
  | [] => true
  | s :: l => !(l.any s.overlaps) && disjointSects l

/-- R86: the counts per role and per object; the signature is the last section, where the header says. -/
def Obj.countsOk (o : Obj) : Bool :=
  let count := fun (ty : Nat) => (o.ofType ty).length
  let roleCount := fun (ty r : Nat) => ((o.ofType ty).filter fun s => s.role == r).length
  ((List.range o.roleCount).all fun r => roleCount 1 r = 1 && roleCount 2 r ≤ 1 && roleCount 3 r ≤ 1 && roleCount 4 r ≤ 1 &&
    roleCount 8 r ≤ 1) &&
  count 5 = 1 && count 6 ≤ 1 && count 10 = 1 && count 15 = 1 && match o.sects.getLast? with
    | some s => s.ty = 15 && s.off = bfield o.b 32 8 && s.size = 4640 && bfield (o.bytes s) 4635 5 = 0
    | none => false

/-- Whether an index names a section of a type, or none where that is allowed. That an index in range which names a
section of another type is refused is a choice of the model, since R92 asks only that it be in range; so is that the
section's own role index is not compared with the role whose entry names it (log entry 108). -/
def Obj.indexOk (o : Obj) (i ty : Nat) (opt : Bool) : Bool :=
  (opt && i = noIndex) || match o.sects[i]? with
    | some s => s.ty = ty
    | none => false

/-- R87 to R90: the entries' indices in range and their zero fields. A section of entries whose size is no multiple of its
entry's is refused, a choice of the model: R92 has no such check (log entry 108). -/
def Obj.tablesOk (o : Obj) : Bool :=
  let every := fun (ty k : Nat) (p : List Byte → Bool) =>
    (o.ofType ty).all fun s => s.size % k = 0 && (o.entries s k).all p
  every 10 32 (fun e => o.indexOk (bfield e 4 2) 1 false && o.indexOk (bfield e 6 2) 2 true &&
    o.indexOk (bfield e 8 2) 3 true && o.indexOk (bfield e 10 2) 4 true && bfield e 12 4 = 0 && bfield e 24 8 = 0) &&
  ((o.ofType 10).all fun s => s.size = 32 * o.roleCount) &&
  every 4 16 (fun e => bfield e 12 4 = 0) &&
  every 5 8 (fun e => bfield e 5 1 < o.roleCount && bfield e 6 2 = 0) &&
  every 6 8 (fun e => bfield e 0 1 < o.roleCount && bfield e 4 4 = 0) &&
  every 7 24 (fun e => bfield e 4 2 = noIndex || bfield e 4 2 < o.n) &&
  every 8 24 (fun e => bfield e 8 2 < o.n)

/-- The digest that is signed (R91): the signature section counts as zero. -/
def Obj.digest (o : Obj) : List Byte :=
  let at' := bfield o.b 32 8
  sha3_512 (o.b.take at' ++ zeroBytes 4640 ++ o.b.drop (at' + 4640))

/-- The key identifier of a public key (R91). -/
def keyId (k : List Byte) : List Byte := (sha3_512 k).take 8

/-- Whether the signature verifies against a registered key (R91, R92). -/
def Obj.signedBy (o : Obj) (keys : List (List Byte)) : Bool :=
  let g := o.b.drop (bfield o.b 32 8)
  match keys.find? fun k => keyId k == g.take 8 with
  | some k => mlDsaVerify k o.digest ((g.drop 8).take 4627)
  | none => false

-- Relocation (R80, R90).

/-- The final address or value of a symbol. Its kind counts for nothing: a scratchpad region's symbol that names a
section has that section's address and its value like any other, a choice of the model, since R87 gives such a symbol
its value and no rule its section index (log entry 108). -/
def Obj.symbol (o : Obj) (i : Nat) : Option Nat :=
  match o.ofType 7 with
  | [] => none
  | s :: _ => ((o.entries s 24)[i]?).map fun e =>
    let x := bfield e 4 2
    (if x = noIndex then 0 else o.va x) + bfield e 8 8

/-- lo (R80). -/
def loOf (e : Int) : Int := sint 16 (wrap 16 e)
/-- hi (R80) before it is narrowed. -/
def hiOf (e : Int) : Int := (e - loOf e) / 65536

/-- The bytes of a patched word: the field [hi:0] takes a value. -/
def patchWord (old : List Byte) (hi : Nat) (v : Int) : List Byte :=
  leBytes 4 (leNat old / 2 ^ (hi + 1) * 2 ^ (hi + 1) + wrap (hi + 1) v)

/-- A relocation: the offset in the object of the bytes that it patches, and the new bytes. An entry that names a
section of another role than its own section's is applied too, a choice of the model: R86 names the role, and R92 lists
no such check (log entry 108). -/
def Obj.patch (o : Obj) (e : List Byte) : Option (Nat × List Byte) :=
  let i := bfield e 8 2
  let off := bfield e 0 8
  let ty := bfield e 10 2
  match o.sects[i]?, o.symbol (bfield e 12 4) with
  | some s, some v =>
    if s.size < off + (if ty = 1 then 8 else 4) then none
    else
      let old := ((o.bytes s).drop off).take 4
      let sum : Int := v + sint 64 (bfield e 16 8)
      let abs := sint 64 (wrap 64 sum)
      let rel := sint 64 (wrap 64 (sum - (o.va i + off : Nat)))
      let at' := s.off + off
      let hi := fun (x : Int) =>
        if -32768 ≤ hiOf x ∧ hiOf x ≤ 32767 then some (at', patchWord old 15 (hiOf x)) else none
      let branch := fun (n : Nat) =>
        if rel % 4 = 0 ∧ -(2 ^ (n - 1) : Int) ≤ rel / 4 ∧ rel / 4 < 2 ^ (n - 1) then
          some (at', patchWord old (n - 1) (rel / 4))
        else none
      match ty with
      | 1 => some (at', leBytes 8 (wrap 64 sum))
      | 2 => hi abs
      | 3 => some (at', patchWord old 15 (loOf abs))
      | 4 => hi rel
      | 5 => some (at', patchWord old 15 (loOf (rel + 4)))
      | 6 => branch 13
      | 7 => branch 21
      | 8 => branch 26
      | _ => none
  | _, _ => none

/-- The object with some bytes patched. -/
def Obj.patched (o : Obj) (p : Nat × List Byte) : Obj :=
  { o with b := o.b.take p.1 ++ p.2 ++ o.b.drop (p.1 + p.2.length) }

/-- All relocations in order: the patches, by their offsets in the object, and the object with them; none where one is
rejected. -/
def Obj.relocate (o : Obj) : Option (List (Nat × List Byte) × Obj) :=
  ((o.ofType 8).flatMap fun s => o.entries s 24).foldl (fun acc e =>
    acc.bind fun x => (x.2.patch e).map fun p => (x.1 ++ [p], x.2.patched p)) (some ([], o))

/-- The relocated object. -/
def Obj.relocated (o : Obj) : Option Obj := o.relocate.map (·.2)

-- What a verified object gives (R87 to R89, R92).

/-- A role from its entry of the role table. -/
def Obj.role (o : Obj) (e : List Byte) : Role :=
  let text := bfield e 4 2
  let regions := match o.sects[bfield e 10 2]? with
    | some s => if bfield e 10 2 = noIndex then [] else (o.entries s 16).map fun r => (bfield r 4 4, bfield r 8 4)
    | none => []
  let ro := bfield e 6 2
  { textVa := o.va text, textSize := ((o.sects[text]?).map (·.size)).getD 0, entry := bfield e 16 8, regions := regions
    roVa := if ro = noIndex then 0 else o.va ro
    roSize := if ro = noIndex then 0 else ((o.sects[ro]?).map (·.size)).getD 0 }

/-- The code object as the device holds it. Of a boot entry's order byte bit 0 alone counts, and no value is refused, a
choice of the model: R89 gives a meaning to 0 and 1 only, and R92 lists no check of it (log entry 108). -/
def Obj.code (o : Obj) (handle ctx : Nat) (digest : List Byte) : CodeObj :=
  let all := fun (ty k : Nat) => (o.ofType ty).flatMap fun s => o.entries s k
  { handle := handle, ctx := ctx, digest := digest
    roles := (all 10 32).map o.role
    places := (all 5 8).map fun e =>
      { ex0 := bfield e 0 1, ey0 := bfield e 1 1, ex1 := bfield e 2 1, ey1 := bfield e 3 1, cols := bfield e 4 1
        role := bfield e 5 1 }
    boot := (all 6 8).map fun e => (bfield e 0 1, bfield e 1 1, bfield e 2 1, nbit (bfield e 3 1) 0) }

/-- Whether an object passes every check of R92. -/
def Obj.ok (o : Obj) (keys : List (List Byte)) : Bool :=
  o.headerOk && o.sects.all o.sectOk && disjointSects o.sects && o.countsOk && o.tablesOk && o.signedBy keys

/-- A page of an object: its number in the context, the frame of the copy that holds it, and what it permits, as the
bits of its leaf. -/
structure ObjPage where
  page : Nat
  pa : Nat
  perm : Nat
  deriving DecidableEq, Repr

/-- The permissions of a section's pages (R86, R92): text R and X, read-only data R, data R and W. -/
def sectPerm (ty : Nat) : Option Nat :=
  if ty = 1 then some 0x14 else if ty = 2 then some 0x4 else if ty = 3 then some 0xC else none

/-- The pages of section `i` of an object whose copy lies at `at'`. A section whose address and whose place in the copy
lie differently in their pages has none (log entry 66). -/
def Obj.sectPages (o : Obj) (at' i : Nat) (x : Sect) : List ObjPage :=
  match sectPerm x.ty with
  | some perm =>
    if o.va i % 4096 ≠ (at' + x.off) % 4096 then []
    else (touchedPages (o.va i) x.size).map fun k => ⟨k, at' + x.off + 4096 * k - o.va i, perm⟩
  | none => []

/-- The pages of an object in the order in which they are mapped: the data pages, then the text pages (R92). -/
def Obj.pages (o : Obj) (at' : Nat) : List ObjPage :=
  let of := fun (text : Bool) => ((List.range o.sects.length).zip o.sects).flatMap fun y =>
    if (y.2.ty == 1) == text then o.sectPages at' y.1 y.2 else []
  of false ++ of true

/-- The leaf of an object's page. A valid leaf that stands there keeps its MIG, NC, G and U; a new one has U in every
context but 0 (R375, R385; log entry 66). -/
def objLeaf (ctx : Nat) (old : Word) (pa perm : Nat) : Word :=
  (if nbit old.toNat 0 && nbit old.toNat 1 then old &&& 0xC60 else if ctx = 0 then 0 else 0x20) ||| w64 (pa + perm + 3)

/-- Map a page of an object in its context's tables (R92, R385), where the tables reach it; the entries read count
(R274, log entry 105). A larger leaf stands for all
its pages and changes only where each of them is a page of the object with these permissions, at its frame. -/
def State.mapPage (ctx : Nat) (ps : List ObjPage) (s : State) (p : ObjPage) : State :=
  let root := (s.ctx ctx).ptroot.toNat
  let va := w64 (4096 * p.page)
  if !nbit root 0 || !canonical va || isWindow va then s
  else match s.slotFor va 4 (nbits root 51 21 * 2 ^ 21) with
    | none => s
    | some (level, at') =>
      let s := s.walkSeen 8 ctx va
      let old := w64 (leNat (s.homeBytes .dev at' 8))
      let span := 512 ^ level
      let whole := nbits old.toNat 9 8 = 0 && (List.range span).all fun j =>
        ps.contains ⟨p.page / span * span + j, leafPa old + 4096 * j, p.perm⟩
      if level ≠ 0 && !whole then s
      else
        let s := if level = 0 && nbit old.toNat 0 && nbit old.toNat 7 then s.contigOff at' else s
        let leaf := objLeaf ctx old (if level = 0 then p.pa else leafPa old) p.perm
        (s.homeWrite .dev at' (leBytes 8 leaf.toNat)).forget fun t => t.meets ⟨ctx, level, vpnOf va level, leaf⟩

/-- Patch a copy in device memory: only the patched bytes are written, so that the errors of the others stay (R304). -/
def State.patchCopy (s : State) (at' : Nat) (ps : List (Nat × List Byte)) : State :=
  ps.foldl (fun s p => s.homeWrite .dev (at' + p.1) p.2) s

/-- OBJECT_VERIFY: an object that passes is relocated in its copy, its data pages and then its text pages are mapped, text
executable and read-only, and it may be launched under its handle; any other is rejected as a whole and reported (R92). It
is one step: nothing can change the copy between the check and the mapping. Its reads of the copy count for the epoch
(R274, log entry 105). -/
def execObjectVerify (p : ObjPresent) (s : State) : Host.Outcome State Fault Refusal :=
  .next <|
    let o := objOfBytes (s.homeBytes .dev p.pa p.size) p.vas
    let s := s.homeSeenAll 8 p.pa p.size
    let refuse : State := { s with reports := s.reports ++ [.objectRefused p.ctx p.pa] }
    if !o.ok s.keys then refuse
    else match o.relocate with
      | none => refuse
      | some (patches, r) =>
        let pages := r.pages p.pa
        let s := pages.foldl (State.mapPage p.ctx pages) (s.patchCopy p.pa patches)
        { s with nextId := s.nextId + 1, objects := s.objects ++ [r.code s.nextId p.ctx o.digest] }

end Sys2Proof.Machine
end

