-- ==== Sys2Proof/Machine/System.lean ====
section
/-!
DEFINITION. The SYS family (R189 to R197), CLAUSE (R71), illegal instructions (R65) and the events by which a supervisor
register acts (R123, R338, R381, R390, R393).
-/

namespace Sys2Proof.Machine

/-- The word of an instruction, as TRAPVAL gives it (R65, R376). -/
def wordOf (i : Instr) : Word := ((encode i).getD 0).setWidth 64

/-- Whether a word is a branch, a jump or JPT, whose trap split leaves no record where no JOIN gives one (R48). -/
def isJump (w : Insn) : Bool :=
  match decode w with
  | .ok (.beq _ _ _) | .ok (.bne _ _ _) | .ok (.blt _ _ _) | .ok (.bge _ _ _) | .ok (.bltu _ _ _) | .ok (.bgeu _ _ _)
  | .ok (.jal _ _) | .ok (.jalr _ _ _) | .ok (.jpt _) | .ok (.kbr _ _ _) => true
  | _ => false

/-- ILLEGAL_INSTRUCTION: a word that is no encoding, or that may not stand at its place of a clause, raises trap 0x01
with the word (R65, R73, R376). -/
def execIllegalInstruction (w : Insn) (s : State) : Host.Outcome State Fault Refusal :=
  s.onUnit fun x => s.trapLanes x (isJump w) (x.active.map fun t => (t, 1, w.setWidth 64))

-- Control registers.

/-- The trap of a CSRR or CSRW, by the rules of R99 in their order and R380. -/
def csrTrap (x : Issuer) (n : Nat) (write : Bool) : Option Nat :=
  if !csrAssigned n then some 1
  else if 0xF00 ≤ n then some 3
  else if 0x100 ≤ n && x.u.sh.priv = .u then some 3
  else if write && csrDevice n && x.w.ctx ≠ 0 then some 3
  else none

/-- What a thread of the issuer reads from a register (R190). -/
def State.csrValue (s : State) (x : Issuer) (n t : Nat) : Word :=
  if n < 0x100 then s.csrUser x t n else s.csrSup x t n

/-- A read of SEMVAL is an acquire at DEVICE (R338). -/
def State.semvalAcquire (s : State) (x : Issuer) : State := if s.stalled then s else s.acquire x.cl x.active .device

/-- CSRR (R99, R190). -/
def execCsrr (n : BitVec 12) (rd : R5) (s : State) : Host.Outcome State Fault Refusal :=
  s.onUnit fun x =>
    match csrTrap x n.toNat false with
    | some c => s.trapAll x c (wordOf (.csrr n rd))
    | none =>
      let s' := s.lanewise x { dst := some (.s rd) } (perLane fun t _ => .ok (.ofS (s.csrValue x n.toNat t)))
      if n = 0x125 then s'.semvalAcquire x else s'

/-- CSRW's write: per lane, or once with the value of the lowest active lane (R99, R191). The lanes of context 0 may name
different contexts: each context's register takes the value of the lowest active lane that names it (R380). -/
def State.csrWrite (s : State) (x : Issuer) (n : Nat) (v : Nat → Word) : State :=
  if csrPerLane n then s.modThrs x.id.wg x.active fun t th => th.csrLane x.w.ctx n (v t)
  else if csrPerCtx n then
    (x.active.filter fun t => !(x.active.any fun u => u < t && x.ctxOf u == x.ctxOf t)).foldl
      (fun s t => s.csrCtx (x.ctxOf t) n (v t)) s
  else s.csrOnce x n (v x.lead)

/-- CSRW (R99, R191). A write of SEMVAL is a release at DEVICE (R338). -/
def execCsrw (n : BitVec 12) (ra : R5) (s : State) : Host.Outcome State Fault Refusal :=
  s.onUnit fun x =>
    if !csrAssigned n.toNat then s.trapAll x 1 (wordOf (.csrw n ra))
    else if x.u.tx.isSome then s.abortExplicit x
    else match csrTrap x n.toNat true with
      | some c => s.trapAll x c (wordOf (.csrw n ra))
      | none =>
        let f : Fields := { a := some (.s ra) }
        match s.gate x f with
        | .stop s' => s'
        | .go pt =>
          if !pt.isEmpty then s.trapLanes x false pt
          else if n = 0x125 && s.releaseWaits x x.active .device then s.stall
          else
            let s := if n = 0x125 then s.release x.cl x.active .device else s
            ((s.popAll x f).csrWrite x n.toNat fun t => ((x.w.thr t).vals f).sa).retire x

-- Traps (R192, R193).

/-- TRAP (R192). -/
def execTrap (code : BitVec 12) (s : State) : Host.Outcome State Fault Refusal :=
  s.onUnit fun x => if x.u.tx.isSome then s.abortExplicit x else s.trapAll x 0x0C (code.setWidth 64)

/-- BREAK (R192). -/
def execBrk (code : BitVec 12) (s : State) : Host.Outcome State Fault Refusal :=
  s.onUnit fun x => if x.u.tx.isSome then s.abortExplicit x else s.trapAll x 0x0B (code.setWidth 64)

/-- TRET (R193, R379). -/
def execTret (s : State) : Host.Outcome State Fault Refusal :=
  s.onUnit fun x => if x.u.tx.isSome then s.abortExplicit x else s.trapReturn x

-- FEATQ (R194).

/-- The instance identifier: the first 8 bytes of the SHA3-512 digest of the identity public key (R418). -/
def instanceId : Word := w64 (leNat ((sha3_512 ((List.range 2592).map Config.identityKey)).take 8))

/-- FEATQ's answers (R194); an unassigned class and index answer 0. -/
def State.featq (s : State) (x : Issuer) (cls index : Nat) : Word :=
  match cls, index with
  | 0x0, 0 => 1
  | 0x0, 1 => x.w.pinned.setWidth 64
  | 0x1, 0 => 8
  | 0x1, 1 => w64 Config.clusters
  | 0x1, 2 => w64 (Config.meshCols + 256 * Config.meshRows)
  | 0x1, 3 => 32
  | 0x1, 4 => 4
  | 0x2, 0 => w64 Config.devBytes
  | 0x2, 1 => 524288
  | 0x2, 2 => 393216
  | 0x2, 3 => w64 (32 + 256 * 128)
  | 0x3, 0 => 2048
  | 0x3, 1 => 8
  | 0x4, 0 => 256
  | 0x4, 1 => 16
  | 0xF, 0 => instanceId
  | 0xF, 1 => w64 s.rateKHz
  | 0xF, 2 => w64 s.devNum
  | _, _ => 0

/-- FEATQ (R194). -/
def execFeatq (cls : BitVec 4) (index : BitVec 8) (rd : R5) (s : State) : Host.Outcome State Fault Refusal :=
  s.scalar0 rd fun x _ => s.featq x cls.toNat index.toNat

-- TLB maintenance (R195, R196).

/-- The frame of TLBW, TLBINV, CTXSV and CTXLD: not in a transaction (R299), not at U (R189), operands at hand. -/
def State.privileged (s : State) (x : Issuer) (i : Instr) (f : Fields) (act : List LaneTrap → State) : State :=
  if x.u.tx.isSome then s.abortExplicit x
  else if x.u.sh.priv = .u then s.trapAll x 3 (wordOf i)
  else match s.gate x f with
    | .stop s' => s'
    | .go pt => act pt

/-- The level of the page that a leaf given to TLBW maps. The leaf carries no size: what its address allows, the
device chooses. -/
def tlbwLevel (leaf : Word) : Nat :=
  let top := if nbits leaf.toNat 29 12 = 0 then 2 else if nbits leaf.toNat 20 12 = 0 then 1 else 0
  min (Config.leafLevel leaf) top

/-- TLBW in one lane: the old entries of the page go, of every size, with the copies in the micro-TLBs and the
translations that waiting instructions hold; a valid, well-formed leaf takes their place (R195). Anything else puts
nothing there and raises no trap, a choice of the model (log entry 19). -/
def State.tlbw (s : State) (c : Nat) (a leaf : Word) : State :=
  let ctx := a.toNat % 4096
  let level := tlbwLevel leaf
  let k : TlbEnt := ⟨ctx, level, vpnOf a level, leaf⟩
  let gone := fun (e : TlbEnt) => e.meets k
  let s := (s.modCl c fun cl => cl.tlbDrop gone).dropWalked c gone
  if nbit leaf.toNat 0 && nbit leaf.toNat 1 && !malformed s.domSize level leaf then
    s.modCl c fun cl => cl.tlbPut k
  else s

/-- TLBW (R195). -/
def execTlbw (ra rb : R5) (s : State) : Host.Outcome State Fault Refusal :=
  s.onUnit fun x =>
    let f : Fields := { a := some (.s ra), b := some (.s rb) }
    s.privileged x (.tlbw ra rb) f fun pt =>
      if !pt.isEmpty then s.trapLanes x false pt
      else (x.active.foldl (fun s t => let v := (x.w.thr t).vals f; s.tlbw x.cl v.sa v.sb) (s.popAll x f)).retire x

/-- The entries that TLBINV selects (R196). An entry counts as one of the number for which it was installed: a global
entry of another number stays, a choice of the model (log entry 109). -/
def tlbinvGone (a sel : Word) (e : TlbEnt) : Bool :=
  let ctx := a.toNat % 4096
  if nbit sel.toNat 1 then true
  else if nbit sel.toNat 0 then e.ctx == ctx
  else e.ctx == ctx && e.vpn == vpnOf a e.level

/-- TLBINV in one lane (R196). -/
def State.tlbinv (s : State) (c : Nat) (a sel : Word) : State :=
  let gone := tlbinvGone a sel
  if nbit sel.toNat 2 then
    let s : State := { s with
      clusters := s.clusters.map fun (k : Nat × Cluster) => (k.1, k.2.tlbDrop gone)
      ioTlb := s.ioTlb.map fun e => (e.1, e.2.filter fun d => !gone d) }
    ((s.wgs.map (·.cluster)).eraseDups).foldl (fun s c => s.dropWalked c gone) s
  else (s.modCl c fun cl => cl.tlbDrop gone).dropWalked c gone

/-- Whether TLBINV's selection takes in a translation of an address of a context, whatever the page's size. -/
def tlbinvMeets (a sel : Word) (ctx : Nat) (va : Word) : Bool :=
  (List.range 3).any fun level => tlbinvGone a sel ⟨ctx, level, vpnOf va level, 0⟩

/-- The stores of the clusters whose entries TLBINV removes go to their homes, which then accept them (R72, R196). -/
def State.tlbinvOut (s : State) (c : Nat) (sel : Word) : State :=
  (if nbit sel.toNat 2 then s.clusters.map (·.1) else [c]).foldl (fun s k => s.l1flush k fun _ => true) s

/-- Whether a workgroup's open transaction holds stores to memory back (R295). -/
def Workgroup.buffersMem (w : Workgroup) : Bool :=
  w.threads.any fun e => match (w.ust e.1).tx with
    | some y => y.doomed.isNone && !y.redoMem.isEmpty
    | none => false

/-- Whether an access that used a translation that TLBINV removes has not completed (R196): a store or a write-back that
waits for a link (R415), a store that an open transaction holds back (R295), or a storage command whose buffer the
controller may still move (R329). -/
def State.tlbinvWaits (s : State) (c : Nat) (a sel : Word) : Bool :=
  (s.linkReqs.any fun q => q.store && (nbit sel.toNat 2 || q.cl == c) && (q.wb || match s.wg? q.wg with
    | some w => tlbinvMeets a sel w.ctx q.va
    | none => false)) ||
  (s.wgs.any fun w => (nbit sel.toNat 2 || w.cluster == c) && w.buffersMem) ||
  (nbit sel.toNat 2 && s.cmds.any fun e =>
    e.submitted && e.result.isNone && e.prps.any fun p => tlbinvMeets a sel e.ctx (w64 p.1))

/-- TLBINV (R196). -/
def execTlbinv (ra rb : R5) (s : State) : Host.Outcome State Fault Refusal :=
  s.onUnit fun x =>
    let f : Fields := { a := some (.s ra), b := some (.s rb) }
    s.privileged x (.tlbinv ra rb) f fun pt =>
      let v := fun t => (x.w.thr t).vals f
      if !pt.isEmpty then s.trapLanes x false pt
      else
        let s := x.active.foldl (fun s t => s.tlbinvOut x.cl (v t).sb) s
        if x.active.any fun t => s.tlbinvWaits x.cl (v t).sa (v t).sb then s.stall
        else (x.active.foldl (fun s t => s.tlbinv x.cl (v t).sa (v t).sb) (s.popAll x f)).retire x

-- Thread images (R197).

/-- The accesses of a lane to an image: 4,096 bytes, sector by sector. -/
def imageAccs (t : Nat) (va : Word) : List LaneAcc := (List.range 128).map fun i => ⟨t, va + w64 (32 * i), 32⟩

/-- Lanes whose image address is not a multiple of 256 (R197). -/
def imageMisaligned (x : Issuer) (f : Fields) (va : Nat → Word) : List LaneTrap :=
  (x.readable f).filterMap fun t => if (va t).toNat % 256 = 0 then none else some (t, 4, va t)

/-- The image that CTXSV writes for a thread: split, as TRET would resume it (R197, R397). -/
def State.savedImage (s : State) (x : Issuer) (t : Nat) : List Byte :=
  let th := { x.w.thr t with u := x.u }.resumed s.free s.clock
  s.imageBytes { th := th, u := some th.u, grp := none, task := 128 ≤ t }

/-- The bytes of piece `i` of an image. -/
def piece (b : List Byte) (i : Nat) : List Byte := (b.drop (32 * i)).take 32

/-- CTXSV (R197). It reads every register, and waits for each that is pending (R76). -/
def execCtxsv (ra : R5) (s : State) : Host.Outcome State Fault Refusal :=
  s.onUnit fun x =>
    let f : Fields := { a := some (.s ra) }
    s.privileged x (.ctxsv ra) f fun pt =>
      let va := fun t => ((x.w.thr t).vals f).sa
      let mis := imageMisaligned x f va
      let ts := ((x.readable f).filter fun t => !(mis.any fun l => l.1 == t))
      if x.pending then s.stall
      else match s.access x .store false (ts.flatMap fun t => imageAccs t (va t)) none true with
      | .stop s' => s'
      | .traps bad => s.trapLanes x false (mergeTraps x.active pt (mergeTraps x.active mis bad))
      | .go rs =>
        if !(pt.isEmpty && mis.isEmpty) then s.trapLanes x false (mergeTraps x.active pt mis)
        else if x.remoteFull rs then s.stall
        else
          let bs := ts.flatMap fun t => let b := s.savedImage x t; (List.range 128).map (piece b)
          let s' := (rs.zip bs).foldl (fun s r => s.storeOne x true s.nextId r.1.1 r.1.2 r.2) s
          ((s'.popAll x f).retire x)

/-- A loaded image in a lane; in a group the lowest active lane's image gives what exists once (R36, R197). -/
def State.loadImage (s : State) (x : Issuer) (t : Nat) (b : List Byte) : State :=
  let n := s.loadedThread b { x.w.thr t with u := x.u }
  match x.grp with
  | none => s.modThr x.id.wg t fun _ => n
  | some _ =>
    let s := s.modThr x.id.wg t fun th => { n with u := th.u }
    if t = x.lead then s.modU x fun _ => n.u else s

/-- CTXLD (R197, R397). It writes every register, and waits for each that is pending (R76). -/
def execCtxld (ra : R5) (s : State) : Host.Outcome State Fault Refusal :=
  s.onUnit fun x =>
    let f : Fields := { a := some (.s ra) }
    s.privileged x (.ctxld ra) f fun pt =>
      let va := fun t => ((x.w.thr t).vals f).sa
      let mis := imageMisaligned x f va
      let ts := ((x.readable f).filter fun t => !(mis.any fun l => l.1 == t))
      if x.pending then s.stall
      else match s.access x .load true (ts.flatMap fun t => imageAccs t (va t)) none true with
      | .stop s' => s'
      | .traps bad => s.trapLanes x false (mergeTraps x.active pt (mergeTraps x.active mis bad))
      | .go rs =>
        let (s', bs) := (s.dropReqs x).loads x true rs
        let image := fun t => (laneBytes bs t).flatten
        let bad := ts.filterMap fun t => if imageOk (image t) then none else some (t, 8, va t)
        let own := mergeTraps x.active mis bad
        if !(pt.isEmpty && own.isEmpty) then s.trapLanes x false (mergeTraps x.active pt own)
        else (x.active.foldl (fun s t => s.loadImage x t (image t)) (s'.popAll x f)).retire x

-- CLAUSE (R71).

/-- A flag field of CLAUSE: 0 for none, else a flag and one. -/
def flagField (f : BitVec 4) : Option Nat := if f = 0 then none else some (f.toNat - 1)

/-- CLAUSE (R71, R75). -/
def execClause (wait : BitVec 12) (f1 f2 : BitVec 4) (len : BitVec 3) (s : State) :
    Host.Outcome State Fault Refusal :=
  s.onUnit fun x =>
    if x.flagSet wait then s.stall
    else (s.modU x fun u => { u with clause := some ⟨len.toNat + 1, [flagField f1, flagField f2]⟩ }).retire x

-- Writes of supervisor registers as events.

/-- SRSEED_WRITE: the writing lanes are reseeded (R123, R191). -/
def execSrseedWrite (seed : Word) (s : State) : Host.Outcome State Fault Refusal :=
  s.onUnit fun x => s.seedSet x seed

/-- FEATSET_WRITE (R381). -/
def execFeatsetWrite (ctx : Nat) (value : Word) (s : State) : Host.Outcome State Fault Refusal :=
  .next (s.featSet (ctx % 4096) value)

/-- FRESP_RETRY (R390). -/
def execFrespRetry (ticket : BitVec 32) (s : State) : Host.Outcome State Fault Refusal := .next (s.fresp .retry ticket)
/-- FRESP_KILL (R390, R392). -/
def execFrespKill (ticket : BitVec 32) (s : State) : Host.Outcome State Fault Refusal := .next (s.fresp .kill ticket)
/-- FRESP_DELIVER (R390). -/
def execFrespDeliver (ticket : BitVec 32) (s : State) : Host.Outcome State Fault Refusal :=
  .next (s.fresp .deliver ticket)

/-- PREEMPT (R381, R393). -/
def execPreempt (ctx : Nat) (imm hold : Bool) (s : State) : Host.Outcome State Fault Refusal :=
  .next (s.preempt (ctx % 4096) imm hold)
/-- RESUME (R358, R381). -/
def execResume (ctx : Nat) (s : State) : Host.Outcome State Fault Refusal := .next (s.resume (ctx % 4096))

/-- SEMVAL_WRITE: the selected semaphore takes a value (R338, R356). -/
def execSemvalWrite (value : Word) (s : State) : Host.Outcome State Fault Refusal := .next (s.semSet value)

/-- SEMVAL_READ: the reading lanes receive the selected semaphore, as an acquire at DEVICE (R338). -/
def execSemvalRead (rd : R5) (s : State) : Host.Outcome State Fault Refusal :=
  s.onUnit fun x =>
    let v := mget 0 s.sems s.semidx
    (x.active.foldl (fun s t => s.setS x.id.wg t rd v) s).acquire x.cl x.active .device

/-- DEPVAL_WRITE: the selected dependence slot is set or freed (R338, R356, R381). -/
def execDepvalWrite (value : Word) (s : State) : Host.Outcome State Fault Refusal := .next (s.depSet value)

end Sys2Proof.Machine
end

