-- ==== Sys2Proof/Machine/Mailbox.lean ====
section
/-!
DEFINITION. The host's side (R285, R403 to R407, R417 to R419): the mailbox commands, the storage-queue table, and reads,
writes and AtomicOps of the base address registers.
-/

namespace Sys2Proof.Machine

-- Mailbox commands (R405).

def stOk : Nat := 0
def stBadCmd : Nat := 1
def stBadArg : Nat := 2
def stRefused : Nat := 3

/-- A command's code and payload, as the request region holds them. -/
def HostBox.code (h : HostBox) : Nat := leNat (mgets 0 h.req 0 4)
def HostBox.len (h : HostBox) : Nat := leNat (mgets 0 h.req 4 4)
def HostBox.payload (h : HostBox) : List Byte := mgets 0 h.req 8 (min h.len 8184)
/-- The payload as a number. -/
def HostBox.arg (h : HostBox) : Nat := leNat h.payload

/-- The command completes: status and response are written and BUSY clears. A command that fails writes no response. -/
def State.mailDone (s : State) (st : Nat) (resp : List Byte) : State :=
  { s with host := { s.host with
    busy := false, status := st
    resp := if st = stOk then msets 0 s.host.resp 0 resp else s.host.resp } }

/-- Run the pending mailbox command when it has a code. A device whose boot stopped serves none (R416). -/
def State.mail (s : State) (code : Nat) (run : State) : Host.Outcome State Fault Refusal :=
  .next (if s.host.busy && s.host.fstage = 0 && s.host.code = code then run else s)

/-- REGKEY: a key that is registered already, or a seventeenth, is refused (R417). -/
def execRegkey (s : State) : Host.Outcome State Fault Refusal :=
  s.mail 1 <|
    let k := s.host.payload
    if s.host.len ≠ 2592 then s.mailDone stBadArg []
    else if (s.keys.any fun x => keyId x == keyId k) || 16 ≤ s.keys.length then s.mailDone stRefused []
    else { s with keys := s.keys ++ [k] }.mailDone stOk (keyId k)

/-- DELKEY: objects already verified stay mapped (R417). -/
def execDelkey (s : State) : Host.Outcome State Fault Refusal :=
  s.mail 2 <|
    if s.host.len ≠ 8 || !(s.keys.any fun x => keyId x == s.host.payload) then s.mailDone stBadArg []
    else { s with keys := s.keys.filter fun x => keyId x ≠ s.host.payload }.mailDone stOk []

/-- The first 536 bytes of an ATTEST report (R419). -/
def State.reportBody (s : State) (nonce : List Byte) : List Byte :=
  let fw := fun (i : Nat) => match s.fw[i]? with
    | some d => padTo 64 d
    | none => (List.range 64).map (Config.fwDigest i)
  let sup := match (s.objects.filter fun o => o.ctx == 0).getLast? with
    | some o => padTo 64 o.digest
    | none => zeroBytes 64
  leBytes 8 (1 + 2 ^ 16 * 0xA7E5) ++ padTo 64 nonce ++ leBytes 8 instanceId.toNat ++ (List.range 4).flatMap fw ++ sup ++
    padTo 128 (s.keys.flatMap keyId) ++ leBytes 8 (s.keys.length + 256 * s.devNum)

/-- ATTEST: the report, signed by the identity key over its digest (R418, R419). -/
def execAttest (s : State) : Host.Outcome State Fault Refusal :=
  s.mail 3 <|
    if s.host.len ≠ 64 then s.mailDone stBadArg []
    else
      let b := s.reportBody s.host.payload
      s.mailDone stOk (b ++ (List.range 4627).map (Config.identitySign (sha3_512 b)) ++ zeroBytes 5)

/-- SETDEV: the device's number in a domain of a size. -/
def execSetdev (s : State) : Host.Outcome State Fault Refusal :=
  s.mail 4 <|
    let n := nbits s.host.arg 7 0
    let size := nbits s.host.arg 15 8 + 1
    if size ≤ n then s.mailDone stBadArg [] else { s with devNum := n, domSize := size }.mailDone stOk []

/-- BINDVF: binds a context to a function. -/
def execBindvf (s : State) : Host.Outcome State Fault Refusal :=
  s.mail 5 <|
    let fn := nbits s.host.arg 23 16
    if 64 < fn then s.mailDone stBadArg []
    else { s with bindings := mset 0 s.bindings (nbits s.host.arg 11 0) fn }.mailDone stOk []

/-- PWRCAP. -/
def execPwrcap (s : State) : Host.Outcome State Fault Refusal :=
  s.mail 6 <|
    let w := s.host.arg
    if w < 1000 ∨ 2800 < w then s.mailDone stBadArg [] else { s with pwrcap := w }.mailDone stOk []

/-- TELEM: 256 bytes of counters, whose layout the spec does not give, and after them the certificate chain of the
identity key, as much as the response region holds (R304, R418). -/
def execTelem (s : State) : Host.Outcome State Fault Refusal :=
  s.mail 7 ({ s with free := s.free + 256 }.mailDone stOk
    ((List.range 256).map (fun i => Config.telemByte s.eccCount (s.free + i)) ++
      (List.range (min Config.chainLen 7936)).map Config.chainByte))

/-- APERTURE: a multiple of 2^30 up to 320 GiB; any other base leaves the aperture unchanged. -/
def execAperture (s : State) : Host.Outcome State Fault Refusal :=
  s.mail 8 <|
    let a := s.host.arg
    if a % 2 ^ 30 ≠ 0 ∨ 343597383680 < a then s.mailDone stBadArg [] else { s with aperture := a }.mailDone stOk []

/-- An unknown command code. -/
def execMailboxBadcmd (s : State) : Host.Outcome State Fault Refusal :=
  .next (if s.host.busy && s.host.fstage = 0 && (s.host.code = 0 || 8 < s.host.code) then s.mailDone stBadCmd [] else s)

-- The storage-queue table (R404, R406, R407).

/-- Whether entry `n` of the table has EN. -/
def sqEnabled (t : Map Byte) (n : Nat) : Bool := nbit (leNat (mgets 0 t (64 * n + 44) 2)) 15

/-- An entry with its zero and unassigned bits cleared: they ignore what is written (R11, R406). -/
def sqMask (e : List Byte) : List Byte :=
  ((List.range e.length).zip e).map fun b =>
    if b.1 = 40 then b.2 &&& 1 else if b.1 = 45 then b.2 &&& 0xCF else if 46 ≤ b.1 then 0 else b.2

/-- The run that begins when EN of an entry is set: empty queues, under the entry as it now stands. The run before it
goes on while accepted commands need it (R407). -/
def State.sqStart (s : State) (n : Nat) (e : List Byte) : State :=
  let g := mget 0 s.sqGen n
  let old := n + 256 * g
  let used := s.cmds.any fun c => c.cmd.isStorage && c.run == old && c.result.isNone
  let g' := if used then g + 1 else g
  { s with sqGen := mput s.sqGen n g', sqRun := mput s.sqRun (n + 256 * g') { entry := e } }

/-- A write of the table through a function: an entry whose EN is 1 takes only a write that clears EN (R407). -/
def State.sqTableWrite (s : State) (fn off : Nat) (bytes : List Byte) : State :=
  if fn ≠ 0 || 0x4000 < off + bytes.length then s
  else
    let t := msets 0 s.sqTable off bytes
    let ns := (List.range 256).filter fun n => 64 * n < off + bytes.length && off < 64 * n + 64
    ns.foldl (fun s n =>
      if sqEnabled s.sqTable n && sqEnabled t n then s
      else
        let fresh := !sqEnabled s.sqTable n && sqEnabled t n
        let e := sqMask (mgets 0 t (64 * n) 64)
        let s := { s with sqTable := msets 0 s.sqTable (64 * n) e }
        if fresh then s.sqStart n e else s) s

/-- STORAGE_QUEUE_TABLE_WRITE. -/
def execStorageQueueTableWrite (fn off : Nat) (bytes : List Byte) (s : State) : Host.Outcome State Fault Refusal :=
  .next (s.sqTableWrite fn off bytes)

-- Host accesses (R285, R403, R404).

/-- Doorbells that a write covers: queue and value. -/
def doorbells (off : Nat) (bytes : List Byte) : List (Nat × BitVec 32) :=
  (List.range 1024).filterMap fun q =>
    if off ≤ 8 * q ∧ 8 * q + 4 ≤ off + bytes.length then some (q, BitVec.ofNat 32 (bfield bytes (8 * q - off) 4)) else none

/-- HOST_WRITE: a write of a base address register by a function, 0 for the physical one. A virtual function reaches
only its doorbells. A write of device memory is performed at its home (R285, R302). -/
def execHostWrite (fn : Nat) (target : HostTarget) (bytes : List Byte) (s : State) : Host.Outcome State Fault Refusal :=
  .next <|
    match target with
    | .bar0 off =>
      if off < 0x2000 then (doorbells off bytes).foldl (fun s d => s.doorbell fn d.1 d.2) s
      else if fn ≠ 0 then s
      else if off = 0x3000 then
        if nbit (leNat (bytes.take 1)) 0 && !s.host.busy then { s with host := { s.host with busy := true } } else s
      else if 0x4000 ≤ off ∧ off + bytes.length ≤ 0x6000 then
        { s with host := { s.host with req := msets 0 s.host.req (off - 0x4000) bytes } }
      else if 0x8000 ≤ off ∧ off < 0xC000 then s.sqTableWrite fn (off - 0x8000) bytes
      else s
    | .bar2 off => if fn ≠ 0 || 2 ^ 36 < off + bytes.length then s else s.homeWrite .dev (s.aperture + off) bytes

/-- Mailbox control as the host reads it (R404). -/
def HostBox.control (h : HostBox) : Nat :=
  2 * bnat h.busy + 2 ^ 8 * h.status + 2 ^ 16 * h.fstage + 2 ^ 19 * bnat h.fver

/-- A byte of BAR0 as a function reads it: a doorbell is its queue's tail. -/
def State.bar0Byte (s : State) (fn a : Nat) : Byte :=
  if a < 0x2000 then
    let q := s.queue (a / 8)
    if (fn ≠ 0 && mget 0 s.bindings q.ctx ≠ fn) || 4 ≤ a % 8 then 0 else BitVec.ofNat 8 (q.tail.toNat / 256 ^ (a % 8))
  else if fn ≠ 0 then 0
  else if 0x3000 ≤ a ∧ a < 0x3008 then BitVec.ofNat 8 (s.host.control / 256 ^ (a - 0x3000))
  else if 0x4000 ≤ a ∧ a < 0x6000 then mget 0 s.host.req (a - 0x4000)
  else if 0x6000 ≤ a ∧ a < 0x8000 then mget 0 s.host.resp (a - 0x6000)
  else if 0x8000 ≤ a ∧ a < 0xC000 then mget 0 s.sqTable (a - 0x8000)
  else 0

/-- A host access ends with Completer Abort. -/
def State.hostAbort (s : State) : State := { s with hostReply := some (false, []) }

/-- A host access ends with Completer Abort since a sector failed, which is reported to system software (R303). -/
def State.hostBad (s : State) (a : Nat) : State :=
  { s.hostAbort with reports := s.reports ++ [.completerAbort a] }

/-- HOST_READ: the bytes that the host receives; a read of device memory whose sector fails ends with Completer Abort
(R303). -/
def execHostRead (fn : Nat) (target : HostTarget) (len : Nat) (s : State) : Host.Outcome State Fault Refusal :=
  .next <|
    match target with
    | .bar0 off => { s with hostReply := some (true, (List.range len).map fun i => s.bar0Byte fn (off + i)) }
    | .bar2 off =>
      let a := s.aperture + off
      if fn ≠ 0 || 2 ^ 36 < off + len then s.hostAbort
      else if (s.homeFail a len).isSome then s.hostBad a
      else { s.homeSeenAll 8 a len with hostReply := some (true, s.homeBytes .dev a len) }

/-- HOST_ATOMICOP: a PCIe AtomicOp on device memory, one step at its home (R288, R403). -/
def execHostAtomicop (fn : Nat) (target : HostTarget) (op : HostAtom) (wide : Bool) (operand compare : Word) (s : State) :
    Host.Outcome State Fault Refusal :=
  .next <|
    match target with
    | .bar0 _ => s.hostAbort
    | .bar2 off =>
      let n := if wide then 8 else 4
      let a := s.aperture + off
      if fn ≠ 0 || 2 ^ 36 < off + n || off % n ≠ 0 then s.hostAbort
      else if (s.homeFail a n).isSome then s.hostBad a
      else
        let old := leNat (s.homeBytes .dev a n)
        let cut := fun (w : Word) => w.toNat % 256 ^ n
        let new := match op with
          | .fetchAdd => old + operand.toNat
          | .swap => operand.toNat
          | .cas => if old = cut compare then operand.toNat else old
        { s.homeWrite .dev a (leBytes n new) with hostReply := some (true, leBytes n old) }

end Sys2Proof.Machine
end

