-- ==== Sys2Proof/Machine/Link.lean ====
section
/-!
DEFINITION. The Eweaz link (R410 to R415): what a port does with each flit that it receives, audits, training, and the end
of requests that wait for a link.
-/

namespace Sys2Proof.Machine

/-- A NAK: not sequenced, no credits. -/
def LinkPort.nak (p : LinkPort) : LinkPort := p.send [mkFlit 0 p.accepted 2 0 0 0 []]

/-- A flit's ACK frees the held flits up to it; a new acknowledgement ends the count of replays (R412, R415). -/
def LinkPort.acked (p : LinkPort) (ack : Nat) : LinkPort :=
  if p.replay.any fun f => flitSeq f = ack then
    { p with replay := (p.replay.dropWhile fun f => flitSeq f ≠ ack).drop 1, replays := 0 }
  else p

/-- Credits returned by an accepted flit (R413, R414). -/
def LinkPort.credited (p : LinkPort) (v n : Nat) : LinkPort :=
  { p with
    credits := p.credits.set v (p.credits.getD v 0 + n)
    ret := p.ret.set v ((p.ret.getD v 0 + n) % 65536) }

/-- What a port does with a sequenced flit whose CRC is good (R412): the next in order is accepted, a duplicate discarded
silently, and a gap answered with a NAK. `take` is what acceptance does beside SEQ, ACK and credits; `room` says whether
the next flit finds a buffer: one that finds none is answered with a NAK, a choice of the model (log entry 93). -/
def LinkPort.sequenced (p : LinkPort) (f : Flit) (room : Bool) (take : LinkPort → LinkPort) : LinkPort :=
  if flitSeq f = (p.accepted + 1) % 4096 then
    if !room then p.nak
    else (take ({ p with accepted := flitSeq f }.acked (flitAck f))).credited (flitCvc f) (flitCcnt f)
  else if (p.accepted + 4096 - flitSeq f) % 4096 < 2048 then p
  else p.nak

/-- A flit received on a port that is up: a bad CRC is answered with a NAK whatever the type seems to be (R412); a good
flit of the type has its effect, and what waits may go out. Types 4 to 7 are discarded (R411). -/
def State.flit (s : State) (port : Nat) (f : Flit) (type : Nat) (act : LinkPort → LinkPort) :
    Host.Outcome State Fault Refusal :=
  .next (if !(s.port port).up then s
    else if !flitGood f then s.modPort port LinkPort.nak
    else if flitType f = type then (s.modPort port act).pumpPort port
    else s)

/-- DATA_FLIT: an accepted flit takes a buffer of its channel, of which there are 64 (R413): a flit that finds none, which
its sender had no credit for, is not accepted. The link does not interpret the payload (R410); what the packet does to
this device's memory is a move of its own (`Agent.peerWrite`, `Agent.peerRead`). -/
def execDataFlit (port : Nat) (f : Flit) (s : State) : Host.Outcome State Fault Refusal :=
  s.flit port f 0 fun p =>
    p.sequenced f (p.rxOcc.getD (flitVc f) 0 < 64) fun p => { p with
      rxAcc := p.rxAcc.set (flitVc f) ((p.rxAcc.getD (flitVc f) 0 + 1) % 65536)
      rxOcc := p.rxOcc.set (flitVc f) (p.rxOcc.getD (flitVc f) 0 + 1) }

/-- IDLE_FLIT: carries an acknowledgement only (R411, R412). -/
def execIdleFlit (port : Nat) (f : Flit) (s : State) : Host.Outcome State Fault Refusal :=
  s.flit port f 1 fun p => p.acked (flitAck f)

/-- NAK: every held flit after its ACK is sent again, unchanged; the eighth replay without a new acknowledgement
retrains the port (R412, R415). -/
def execNak (port : Nat) (f : Flit) (s : State) : Host.Outcome State Fault Refusal :=
  s.flit port f 2 fun p =>
    let p := p.acked (flitAck f)
    let p := { p with replays := p.replays + (if p.replay.isEmpty then 0 else 1) }.send p.replay
    if 8 ≤ p.replays then { p with retrain := true } else p

/-- One channel's part of an accepted audit (R414). -/
def LinkPort.audit1 (p : LinkPort) (payload : List Byte) (v : Nat) : LinkPort :=
  let freed := leNat ((payload.drop (2 * v)).take 2)
  let out := (p.sent.getD v 0 + 65536 - freed) % 65536
  if out ≤ 64 then { p with credits := p.credits.set v (64 - out), ret := p.ret.set v freed }
  else { p with retrain := true }

/-- AUDIT: each channel's credits are set from the receiver's count of freed buffers, or the port end retrains (R414). -/
def execAudit (port : Nat) (f : Flit) (s : State) : Host.Outcome State Fault Refusal :=
  s.flit port f 3 fun p => p.sequenced f true fun p => (List.range 4).foldl (fun p v => p.audit1 f.payload v) p

/-- AUDIT_DUE: after 4,096 flits or 40 µs, an audit flit goes out with FREED of each channel, while the replay buffer has
room (R412 to R414). -/
def execAuditDue (port : Nat) (s : State) : Host.Outcome State Fault Refusal :=
  .next <|
    let p := s.port port
    if !p.up || 1024 ≤ p.replay.length || (p.sinceAudit < 4096 && s.clock - p.lastAudit < s.usClocks 40) then s
    else
      let freed := (List.range 4).flatMap fun v => leBytes 2 ((p.rxAcc.getD v 0 + 65536 - p.rxOcc.getD v 0) % 65536)
      s.modPort port fun p => { p.sequence 3 0 freed with sinceAudit := 0, lastAudit := s.clock }

-- Training (R410, R415).

/-- A request that waited for a link is over: a store's flag falls as the last of its instruction's stores ends (R72). -/
def State.linkEnd (s : State) (q : LinkReq) : State :=
  let s := { s with linkReqs := s.linkReqs.filter fun k => k.id ≠ q.id }
  if s.batchLeft q.wg q.t q.batch then s else s.flagDone q.flag

/-- The stores that wait for a link are performed, and the other requests are over, once a port is up. -/
def State.linkServe (s : State) : State :=
  s.linkReqs.foldl (fun s q => (if q.store then (s.homeMask q.sp q.addr q.mask q.bytes).keepBad q.sp q.addr q.bad else s).linkEnd q) s

/-- PORT_RETRAIN: a training keeps the replay buffer, SEQ and credits, and resumes the replay; after three that fail the
port is down. -/
def execPortRetrain (port : Nat) (ok : Bool) (s : State) : Host.Outcome State Fault Refusal :=
  .next <|
    let p := s.port port
    if !p.up || !p.retrain then s
    else if ok then
      (s.modPort port fun p => { p with retrain := false, replays := 0, fails := 0 }.send p.replay).pumpPort port
    else if p.fails + 1 < 3 then s.modPort port fun p => { p with fails := p.fails + 1 }
    else
      let s := s.modPort port fun p => { p with fails := 0, retrain := false, up := false }
      if s.linkUp then s else { s with linkDownAt := s.clock }

/-- LINK_UP: a port trains with its partner, at 8 lanes or at 4, with 64 credits per channel and fresh counts. -/
def execLinkUp (port : Nat) (fullWidth : Bool) (s : State) : Host.Outcome State Fault Refusal :=
  .next <|
    if 16 ≤ port || (s.port port).up then s
    else
      let t := { s with links := mput s.links port { up := true, full := fullWidth, lastAudit := s.clock } }.linkServe
      if s.linkUp then t else t.collRejoin

/-- LINK_REQUEST_TIMEOUT: a request that no link can carry ends after 1 ms: a store posts LINK, a load or atomic traps
0x0A when it issues again, a collective participant completes with PEER, its collective with it (R415). -/
def execLinkRequestTimeout (n : Nat) (s : State) : Host.Outcome State Fault Refusal :=
  .next <|
    match s.linkReqs.find? fun q => q.id == n with
    | some q =>
      if !s.linkDue q.since || q.dead then s
      else if q.store then
        (s.linkEnd q).postErrorTo q.wg q.t q.taskAt 5 q.va
      else { s with linkReqs := s.linkReqs.map fun k => if k.id = n then { k with dead := true } else k }
    | none => match s.eng? n with
      | some e =>
        if !s.linkDue e.since then s
        else match e.coll with
          | some c => if e.waitsFar s.devNum then s.collPeer c else if c.tabled then s else s.collQueue
          | none => if e.unjoined then s.collQueue else s
      | none => s

end Sys2Proof.Machine
end

