-- ==== Sys2Proof/Machine/Boot.lean ====
section
/-!
DEFINITION. Boot, reset, power and errors (R304, R408, R414, R416, R420, R421).
-/

namespace Sys2Proof.Machine

/-- The device after module reset, amid what stays outside it: its agenda, the free values taken, the memory of others
with its errors, and the firmware that it boots (R421). -/
def State.afterReset (s : State) : State :=
  { State.reset with agenda := s.agenda, free := s.free, outside := s.outside, peerBad := s.peerBad, fw := s.fw }

/-- MODULE_RESET: the device after bring-up. Bring-up follows a boot, so it stays as it is where none stands behind it
(R416, R421). -/
def execModuleReset (s : State) : Host.Outcome State Fault Refusal := .next (if s.unbooted then s else s.afterReset)

/-- The Sahnal key (R416). -/
def sahnalKey : List Byte := (List.range 2592).map Config.sahnalKey

/-- Whether stage `i` passes: its signature over its digest, and its version (R416). -/
def stageSigned (x : FwStage) : Bool := mlDsaVerify sahnalKey (sha3_512 x.image) x.signature
def stageOk (i : Nat) (x : FwStage) : Bool := stageSigned x && Config.fusedMin i ≤ x.version

/-- POWER_ON: the boot ROM verifies the four stages in order. A stage that fails stops the boot: the mailbox shows it,
and nothing else is served (R416). -/
def execPowerOn (stages : List FwStage) (s : State) : Host.Outcome State Fault Refusal :=
  .next <|
    let fs := (List.range 4).map fun i => stages.getD i ⟨[], [], 0⟩
    match ((List.range 4).zip fs).find? fun p => !stageOk p.1 p.2 with
    | none => { s.afterReset with fw := fs.map fun x => sha3_512 x.image }
    | some (i, x) =>
      { s.afterReset with
        fw := [], stopped := true, unbooted := true
        host := { busy := true, status := stRefused, fstage := i + 1, fver := stageSigned x } }

/-- POWER_LOSS: all activity of the device ends, until it is powered on and boots. -/
def execPowerLoss (s : State) : Host.Outcome State Fault Refusal :=
  .next { s.afterReset with fw := [], stopped := true, unbooted := true }

/-- JOINT_FAILURE: the module stops until a module reset, and the failure is reported (R408). -/
def execJointFailure (s : State) : Host.Outcome State Fault Refusal :=
  .next { s with stopped := true, reports := s.reports ++ [.jointFailure] }

/-- ARITHMETIC_CLOCK_CHANGE: the arithmetic clock is lowered or restored (R420). -/
def execArithmeticClockChange (khz : Nat) (s : State) : Host.Outcome State Fault Refusal :=
  .next (if 0 < khz ∧ khz ≤ Config.ratedKHz then { s with rateKHz := khz } else s)

-- Soft errors (R301, R302, R304, R414).

/-- One step of the sector check's CRC-16, for a bit that enters. -/
def crc16Bit (c : BitVec 16) (b : Bool) : BitVec 16 :=
  if c.getLsbD 15 ≠ b then (c <<< 1) ^^^ 0x8BB7 else c <<< 1

/-- The sector check of some bytes, most significant bit first (R301). -/
def sectorCheck (bs : List Byte) : BitVec 16 :=
  bs.foldl (fun c b => (List.range 8).foldl (fun c i => crc16Bit c (b.getLsbD (7 - i))) c) 0

/-- The difference that flips of one byte of a sector make to its check, which is linear. -/
def flipSyn (i : Nat) (flip : Byte) : BitVec 16 :=
  sectorCheck ((List.range 32).map fun j => if j = i then flip else 0)

/-- SOFT_ERROR. -/
def execSoftError (e : SoftErr) (s : State) : Host.Outcome State Fault Refusal :=
  .next <|
    match e with
    | .credit port vc up => s.modPort port fun p => { p with
        credits := p.credits.set vc (if up then p.credits.getD vc 0 + 1 else p.credits.getD vc 0 - 1) }
    | .sent port vc value => s.modPort port fun p => { p with sent := p.sent.set vc (value % 65536) }
    | .corrected => { s with eccCount := s.eccCount + 1 }
    | .uncorrectable k =>
      if Config.devBytes ≤ 32 * k || s.memEcc.contains k then s else { s with memEcc := k :: s.memEcc }
    | .silent a flip =>
      if Config.devBytes ≤ a then s
      else { s with
        mem := mset 0 s.mem a (mget 0 s.mem a ^^^ flip)
        memSyn := mset 0 s.memSyn (a / 32) (mget 0 s.memSyn (a / 32) ^^^ flipSyn (a % 32) flip) }
    | .sramUncorrectable c k => s.modCl c fun cl =>
        { cl with sramEcc := if cl.sramEcc.contains k then cl.sramEcc else k :: cl.sramEcc }
    | .sramSilent c a flip => s.modCl c fun cl => { cl with
        sram := mset 0 cl.sram a (mget 0 cl.sram a ^^^ flip)
        sramSyn := mset 0 cl.sramSyn (a / 32) (mget 0 cl.sramSyn (a / 32) ^^^ flipSyn (a % 32) flip) }

end Sys2Proof.Machine
end

