-- ==== Sys2Proof/Machine/Control.lean ====
section
/-!
DEFINITION. Control transfer (R139 to R144) and the reconvergence rule (R42 to R44), uniform registers (R54, R182 to
R185) and the mode instructions FUSE, SPLIT and REJOIN (R38 to R41, R48 to R52, R188), with the events that complete
them: GROUP_FORM, REFUSION, LOW_OCCUPANCY_SPLIT.
-/

namespace Sys2Proof.Machine

-- Divergence (R42 to R46).

/-- PC-relative targets count words (R58, R60). -/
def relTarget {n : Nat} (pc : Word) (off : BitVec n) : Word := pc + (off.signExtend 64 <<< 2)

/-- An automatic split in place of an instruction (R46); inside a transaction it aborts with CAPACITY (R297). -/
def State.autoSplit (s : State) (x : Issuer) (pcs : Nat → Word) : State :=
  match x.grp with
  | none => s
  | some g =>
    if x.u.tx.isSome then s.txAbort x.id.wg x.id.t (abortStatus 2 0 0)
    else s.splitGroup x.id.wg g pcs (bottomJoin g.stack)

/-- Change the issuing group. -/
def State.modG (s : State) (x : Issuer) (f : Group → Group) : State :=
  s.modWg x.id.wg fun w => w.modGroup x.id.t f

/-- The lanes of a mask, from the threads of a group. -/
def Group.maskOfThreads (g : Group) (ts : List Nat) : Mask :=
  BitVec.ofNat 32 (maskOf 32 fun l => ts.contains (g.t0 + l))

/-- A branch whose outcome is known in each active lane (R43, R139). -/
def State.branch (s : State) (x : Issuer) (target : Word) (taken : List Nat) : State :=
  if taken.length = x.active.length then s.setPc x target
  else if taken.isEmpty then s.retire x
  else
    match x.grp with
    | none => s.retire x
    | some g =>
      if g.stack.any (fun e => e.join) && g.stack.length < 8 then
        let m := g.maskOfThreads taken
        (s.modG x fun g => { g with
          stack := ⟨false, target, m⟩ :: g.stack, active := g.active &&& ~~~m }).retire x
      else s.autoSplit x fun t => if taken.contains t then target else x.pc + 4

/-- A conditional branch (R139). -/
def State.condBranch (s : State) (ra rb : R5) (off : BitVec 13) (c : Word → Word → Bool) :
    Host.Outcome State Fault Refusal :=
  s.onUnit fun x =>
    let f : Fields := { a := some (.s ra), b := some (.s rb) }
    match s.gate x f with
    | .stop s' => s'
    | .go pt =>
      if pt.isEmpty then
        let taken := x.active.filter fun t => let v := (x.w.thr t).vals f; c v.sa v.sb
        (s.popAll x f).branch x (relTarget x.pc off) taken
      else s.trapLanes x true pt

/-- BEQ (R67, R139). -/
def execBeq (ra rb : R5) (off : BitVec 13) (s : State) : Host.Outcome State Fault Refusal :=
  s.condBranch ra rb off fun a b => a = b
/-- BNE (R67, R139). -/
def execBne (ra rb : R5) (off : BitVec 13) (s : State) : Host.Outcome State Fault Refusal :=
  s.condBranch ra rb off fun a b => a ≠ b
/-- BLT (R67, R139). -/
def execBlt (ra rb : R5) (off : BitVec 13) (s : State) : Host.Outcome State Fault Refusal :=
  s.condBranch ra rb off fun a b => a.toInt < b.toInt
/-- BGE (R67, R139). -/
def execBge (ra rb : R5) (off : BitVec 13) (s : State) : Host.Outcome State Fault Refusal :=
  s.condBranch ra rb off fun a b => b.toInt ≤ a.toInt
/-- BLTU (R67, R139). -/
def execBltu (ra rb : R5) (off : BitVec 13) (s : State) : Host.Outcome State Fault Refusal :=
  s.condBranch ra rb off fun a b => a < b
/-- BGEU (R67, R139). -/
def execBgeu (ra rb : R5) (off : BitVec 13) (s : State) : Host.Outcome State Fault Refusal :=
  s.condBranch ra rb off fun a b => b ≤ a

/-- JAL (R140). -/
def execJal (rd : R5) (off : BitVec 21) (s : State) : Host.Outcome State Fault Refusal :=
  s.onUnit fun x =>
    let f : Fields := { dst := some (.s rd) }
    match s.gate x f with
    | .stop s' => s'
    | .go pt =>
      if pt.isEmpty then (s.commit x f fun _ => .ofS (x.pc + 4)).setPc x (relTarget x.pc off)
      else s.trapLanes x true pt

/-- JALR (R58, R141). -/
def execJalr (rd ra : R5) (imm : BitVec 16) (s : State) : Host.Outcome State Fault Refusal :=
  s.onUnit fun x =>
    let f := fSS rd ra
    match s.gate x f with
    | .stop s' => s'
    | .go pt =>
      let target := fun t => ((x.w.thr t).vals f).sa + imm.signExtend 64
      let own := (x.readable f).filterMap fun t =>
        if (target t).toNat % 4 = 0 then none else some (t, 4, target t)
      let ts := mergeTraps x.active pt own
      if ts.isEmpty then
        let s' := s.commit x f fun _ => .ofS (x.pc + 4)
        if x.active.all fun t => target t = target x.lead then s'.setPc x (target x.lead)
        else if x.u.tx.isSome then s.autoSplit x target
        else s'.autoSplit x target
      else s.trapLanes x true ts

/-- JPT (R43, R142). -/
def execJpt (off : BitVec 26) (s : State) : Host.Outcome State Fault Refusal :=
  s.onUnit fun x =>
    match x.grp with
    | none => s.retire x
    | some g =>
      if g.stack.length < 8 then
        (s.modG x fun g => { g with stack := ⟨true, relTarget x.pc off, g.active⟩ :: g.stack }).retire x
      else s.autoSplit x fun _ => x.pc + 4

/-- The rule applied before each instruction issues (R44), for at most `n` pops. -/
def Group.reconverge : Nat → Group → Group
  | 0, g => g
  | n + 1, g =>
    match g.stack.find? fun e => e.join with
    | none => g
    | some j =>
      if g.u.pc ≠ j.pc then g
      else match g.stack with
        | [] => g
        | e :: st =>
          if e.join then Group.reconverge n { g with stack := st, active := j.mask &&& g.live }
          else Group.reconverge n { g with stack := st, active := e.mask, u := { g.u with pc := e.pc } }

-- Uniform registers (R54, R182 to R185).

/-- STATUS.KDIV is set by a uniform write under a partial mask (R54). -/
def State.setKdiv (s : State) (x : Issuer) : State := s.modSh x fun h => { h with kdiv := true }

/-- A write of a uniform register by the whole unit (R54). -/
def State.kwrite (s : State) (x : Issuer) (k : Nat) (v : Word) (f : Fields) : State :=
  if k ≠ 0 && x.partialMask then
    if x.u.sh.kdivtrap then
      (s.setKdiv x).trapAll x 2 5
    else ((((s.setKdiv x).popAll x f).modSh x fun h => h.kset k v).retire x)
  else ((s.popAll x f).modSh x fun h => h.kset k v).retire x

/-- KALU's operation (R183). -/
def kalu (op : KOp) (a b : Word) : Word :=
  match op with
  | .add => opr aluAdd false a b
  | .sub => opr aluSub false a b
  | .and => opr aluAnd false a b
  | .or => opr aluOr false a b
  | .xor => opr aluXor false a b
  | .sll => opr aluSll false a b
  | .srl => opr aluSrl false a b
  | .sra => opr aluSra false a b
  | .mul => opr aluMul false a b
  | .slt => opr aluSlt false a b
  | .sltu => opr aluSltu false a b
  | .min => opr aluMin false a b
  | .max => opr aluMax false a b

/-- KALU (R183). -/
def execKalu (op : KOp) (kd ka kb : BitVec 4) (s : State) : Host.Outcome State Fault Refusal :=
  s.onUnit fun x => s.kwrite x kd.toNat (kalu op (x.u.sh.kget ka.toNat) (x.u.sh.kget kb.toNat)) {}
/-- KLI (R184). -/
def execKli (kd : BitVec 4) (imm : BitVec 18) (s : State) : Host.Outcome State Fault Refusal :=
  s.onUnit fun x => s.kwrite x kd.toNat (imm.signExtend 64) {}
/-- KGET (R184). -/
def execKget (rd : R5) (ka : BitVec 4) (s : State) : Host.Outcome State Fault Refusal :=
  s.scalar0 rd fun x _ => x.u.sh.kget ka.toNat
/-- KPUT (R184): the value of the lowest active lane; every active lane reads its ra. -/
def execKput (kd : BitVec 4) (ra : R5) (s : State) : Host.Outcome State Fault Refusal :=
  s.onUnit fun x =>
    let f : Fields := { a := some (.s ra) }
    match s.gate x f with
    | .stop s' => s'
    | .go pt =>
      if x.partialMask && x.u.sh.kdivtrap && kd ≠ 0 then s.kwrite x kd.toNat 0 f
      else if pt.isEmpty then s.kwrite x kd.toNat ((x.w.thr x.lead).vals f).sa f
      else s.trapLanes x false pt

/-- KBR's comparison with zero (R185). -/
def kcond (c : KCond) (v : Word) : Bool :=
  match c with
  | .eqz => v = 0
  | .nez => v ≠ 0
  | .ltz => v.toInt < 0
  | .gez => 0 ≤ v.toInt
  | .gtz => 0 < v.toInt
  | .lez => v.toInt ≤ 0

/-- KBR (R185): never diverges. -/
def execKbr (cond : KCond) (ka : BitVec 4) (off : BitVec 15) (s : State) : Host.Outcome State Fault Refusal :=
  s.onUnit fun x =>
    if kcond cond (x.u.sh.kget ka.toNat) then s.setPc x (relTarget x.pc off) else s.retire x

-- Mode changes.

/-- Discard a rejoin record for every member of its set; a member that waits at the rejoin PC goes on as a split
thread (R52). -/
def Workgroup.dropRecord (w : Workgroup) (r : Rejoin) : Workgroup :=
  (bitsOf 32 r.live.toNat).foldl (fun w l =>
    w.modThr (32 * r.col + r.base + l) fun th => if th.rejoin = some r then { th with rejoin := none } else th) w

/-- Drop the record that a split thread holds. -/
def State.dropRecord (s : State) (x : Issuer) : State :=
  match (x.w.thr x.id.t).rejoin with
  | none => s
  | some r => s.modWg x.id.wg fun w => w.dropRecord r

/-- The span of size F that holds a pipe: its base (R25). -/
def spanBase (f : FSize) (p : Nat) : Nat := p / laneCount f * laneCount f

/-- The size that a thread's pending arrival is for: of a FUSE, or of the record at whose rejoin PC it waits (R305). -/
def Workgroup.pendingSize (w : Workgroup) (t : Nat) : Option FSize :=
  let th := w.thr t
  if th.exited then none
  else match th.arrival, th.rejoin with
    | some f, _ => some f
    | none, some r => if (w.groupOf t).isNone && th.u.pc = r.pc then some r.f else none
    | none, none => none

/-- Whether a pending arrival of another size in the same column conflicts with a span (R40, R305). -/
def Workgroup.fuseConflict (w : Workgroup) (col base : Nat) (f : FSize) : Bool :=
  (List.range 32).any fun p =>
    match w.pendingSize (32 * col + p) with
    | none => false
    | some g =>
      let b := spanBase g p
      g ≠ f &&
        ((base ≤ b && b + laneCount g ≤ base + laneCount f) || (b ≤ base && base + laneCount f ≤ b + laneCount g))

/-- FUSE (R37 to R41, R188, R305): an arrival executes nothing further. A group arrives as one unit, on its lowest
pipe. -/
def execFuse (f : FSize) (s : State) : Host.Outcome State Fault Refusal :=
  s.onUnit fun x =>
    if x.u.tx.isSome then s.abortExplicit x
    else if x.isTask then s.trapAll x 2 4
    else
      let col := x.id.t / 32
      let base := spanBase f (pipeOf x.id.t)
      match x.grp with
      | some g =>
        if g.f = f then s.retire x
        else if laneCount f < laneCount g.f then s.trapAll x 2 2
        else if g.active ≠ g.live || !g.stack.isEmpty then s.trapAll x 2 0x0B
        else if x.w.fuseConflict col base f then s.trapAll x 2 3
        else
          let s := s.retire x
          s.modThrs x.id.wg x.live fun _ th => { th with arrival := some f }
      | none =>
        let w := match (x.w.thr x.id.t).rejoin with
          | some r => x.w.dropRecord r
          | none => x.w
        if w.fuseConflict col base f then s.trapAll x 2 3
        else
          let s := (s.dropRecord x).retire x
          s.modThr x.id.wg x.id.t fun th => { th with arrival := some f }

/-- SPLIT (R52, R188). -/
def execSplit (s : State) : Host.Outcome State Fault Refusal :=
  s.onUnit fun x =>
    if x.u.tx.isSome then s.abortExplicit x
    else if x.isTask then s.trapAll x 2 4
    else match x.grp with
      | some g => s.splitGroup x.id.wg g (fun _ => x.pc + 4) none
      | none => (s.dropRecord x).retire x

/-- REJOIN (R50, R188): a thread that holds a record moves to its rejoin PC, where it waits. -/
def execRejoin (s : State) : Host.Outcome State Fault Refusal :=
  s.onUnit fun x =>
    if x.u.tx.isSome then s.abortExplicit x
    else if x.isTask then s.trapAll x 2 4
    else match x.grp, (x.w.thr x.id.t).rejoin with
      | none, some r => (s.endClause x).setPc x r.pc
      | none, none => s.retire x
      | some _, _ => s.retire x

/-- The shared registers that a forming group takes: the lowest live member's, with the sticky flags of all and the
critical mark of any, ending at the earliest limit (R36, R56). -/
def joinShared (w : Workgroup) (ts : List Nat) (lowest : Nat) : Shared :=
  let us := ts.map fun t => (w.ust t).sh
  let h := (w.ust lowest).sh
  { h with
    kdiff := us.any (·.kdiff)
    kdiv := us.any (·.kdiv)
    fcsr := us.foldl (fun a u => a ||| (u.fcsr &&& 0x1F)) h.fcsr
    crit := (us.filterMap (·.crit)).min? }

/-- Form a group of a span from its threads (R38, R39, R50): every live lane active, an empty stack. `reseed` says
that a FUSE forms it (R36); `diff` that the members' uniform registers differed (R50). A transaction that a member has
open goes without an abort, which R50 leaves open (log entry 84). The group stands in no claused run, at a covered word
after FUSE either: R74 names the re-fusion alone (log entry 104). -/
def State.formGroup (s : State) (wg col base : Nat) (f : FSize) (pc : Word) (reseed diff : Bool) : State :=
  match s.wg? wg with
  | none => s
  | some w =>
    let t0 := 32 * col + base
    let ts := (List.range (laneCount f)).map (t0 + ·)
    let live := ts.filter fun t => !(w.thr t).exited
    match live with
    | [] => s
    | lo :: _ =>
      let h := joinShared w live lo
      let m : Mask := BitVec.ofNat 32 (maskOf 32 fun l => live.contains (t0 + l))
      let g : Group := { col := col, base := base, f := f, live := m, active := m
                         u := { pc := pc, sh := { h with kdiff := h.kdiff || diff }, txLast := (w.ust lo).txLast } }
      let w := { w with groups := (w.groups.filter fun k => !ts.contains k.t0) ++ [g] }
      let w := live.foldl (fun w t => w.modThr t fun th => { th with
        arrival := none, rejoin := none
        gen := if reseed then genSeed h.srseed (t - t0) else th.gen }) w
      let s' := s.modWg wg fun _ => w
      s.rebank s' w.cluster

/-- GROUP_FORM: when every pipe of a span has arrived and every arrival counts, the group forms (R38, R305). -/
def execGroupForm (wg col base : Nat) (f : FSize) (s : State) : Host.Outcome State Fault Refusal :=
  .next <|
    match s.wg? wg with
    | none => s
    | some w =>
      let t0 := 32 * col + base
      let ts := (List.range (laneCount f)).map (t0 + ·)
      let there := ts.all fun t => (w.thr t).exited || (w.thr t).arrival = some f
      let counts := ts.all fun t => t == t0 || (w.thr t).fifo.isEmpty
      match ts.find? fun t => !(w.thr t).exited with
      | none => s
      | some lo =>
        if base % laneCount f = 0 && base + laneCount f ≤ 32 && 32 * col < w.cfg.threads && there && counts then
          s.formGroup wg col base f (w.ust lo).pc true false
        else s

/-- REFUSION: when every thread of a record's set that has not exited waits at the rejoin PC, the group forms again
(R50, R305). -/
def execRefusion (wg t : Nat) (s : State) : Host.Outcome State Fault Refusal :=
  .next <|
    match s.wg? wg with
    | none => s
    | some w =>
      match (w.thr t).rejoin with
      | none => s
      | some r =>
        let t0 := 32 * r.col + r.base
        let ts := (bitsOf 32 r.live.toNat).map (t0 + ·)
        let live := ts.filter fun t => !(w.thr t).exited
        let there := live.all fun t => (w.thr t).rejoin = some r && (w.thr t).park.isNone && !(w.thr t).dying &&
          (w.ust t).pc = r.pc
        let counts := live.all fun t => t == t0 || (w.thr t).fifo.isEmpty
        match live with
        | [] => s
        | lo :: _ =>
          if there && counts then
            s.formGroup wg r.col r.base r.f r.pc false (live.any fun t => (w.ust t).sh.k ≠ (w.ust lo).sh.k)
          else s

/-- Whether a group's low-occupancy count calls for a split (R49). -/
def Group.lowSplit (g : Group) : Bool := g.u.sh.splitthr ≠ 0 && g.u.sh.splitthr.toNat < g.low

/-- LOW_OCCUPANCY_SPLIT: a group whose count exceeds SPLITTHR splits before its next instruction (R46, R49). -/
def execLowOccupancySplit (wg t : Nat) (s : State) : Host.Outcome State Fault Refusal :=
  .next <|
    match s.wg? wg with
    | none => s
    | some w =>
      match w.groupOf t with
      | none => s
      | some g => if g.lowSplit then s.autoSplit (w.issuer t) (fun _ => g.u.pc) else s

end Sys2Proof.Machine
end

