-- ==== Sys2Proof/Machine/FloatOps.lean ====
section
/-!
DEFINITION. Scalar floating point: FPS (R148 to R153) and FMA (R154). Operands are the low bits of scalar registers, and
results are written zero-extended (R94).
-/

namespace Sys2Proof.Machine

/-- A float instruction: each lane's result from its fields, under the rounding mode and FTZ in force (R121, R133). -/
def State.floatOp (s : State) (f : Fields) (rm : Rm) (g : RMode → Bool → Vals → LaneOut) :
    Host.Outcome State Fault Refusal :=
  s.onUnit fun x =>
    let fcsr := x.u.sh.fcsr
    s.lanewise x f (perLane fun _ v => .ok (g (rmodeOf rm fcsr) (fcsrFtz fcsr) v))

/-- An FPS operation of two operands (R148). -/
def State.fps2 (s : State) (rm : Rm) (rd ra rb : R5) (g : RMode → Bool → Nat → Nat → Nat × Fl) :
    Host.Outcome State Fault Refusal :=
  s.floatOp (fSSS rd ra rb) rm fun m z v => .ofF (g m z v.sa.toNat v.sb.toNat)

/-- An FPS operation of one operand (R148). -/
def State.fps1 (s : State) (rm : Rm) (rd ra : R5) (g : RMode → Bool → Nat → Nat × Fl) :
    Host.Outcome State Fault Refusal :=
  s.floatOp (fSS rd ra) rm fun m z v => .ofF (g m z v.sa.toNat)

/-- FADD (R149). -/
def execFadd (f : Fmt) (rm : Rm) (rd ra rb : R5) (s : State) : Host.Outcome State Fault Refusal :=
  s.fps2 rm rd ra rb (fAdd f)
/-- FSUB (R149). -/
def execFsub (f : Fmt) (rm : Rm) (rd ra rb : R5) (s : State) : Host.Outcome State Fault Refusal :=
  s.fps2 rm rd ra rb (fSub f)
/-- FMUL (R149). -/
def execFmul (f : Fmt) (rm : Rm) (rd ra rb : R5) (s : State) : Host.Outcome State Fault Refusal :=
  s.fps2 rm rd ra rb (fMul f)
/-- FDIV (R149). -/
def execFdiv (f : Fmt) (rm : Rm) (rd ra rb : R5) (s : State) : Host.Outcome State Fault Refusal :=
  s.fps2 rm rd ra rb (fDiv f)
/-- FSQRT (R149). -/
def execFsqrt (f : Fmt) (rm : Rm) (rd ra : R5) (s : State) : Host.Outcome State Fault Refusal :=
  s.fps1 rm rd ra (fSqrt f)
/-- FMIN (R150). -/
def execFmin (f : Fmt) (rd ra rb : R5) (s : State) : Host.Outcome State Fault Refusal :=
  s.fps2 .rne rd ra rb fun _ z => fMinMax f z false
/-- FMAX (R150). -/
def execFmax (f : Fmt) (rd ra rb : R5) (s : State) : Host.Outcome State Fault Refusal :=
  s.fps2 .rne rd ra rb fun _ z => fMinMax f z true
/-- FSGN (R151). -/
def execFsgn (f : Fmt) (op : SgnOp) (rd ra rb : R5) (s : State) : Host.Outcome State Fault Refusal :=
  s.fps2 .rne rd ra rb fun _ _ => fSgn f op
/-- FCMP (R152). -/
def execFcmp (f : Fmt) (op : CmpOp) (rd ra rb : R5) (s : State) : Host.Outcome State Fault Refusal :=
  s.fps2 .rne rd ra rb fun _ z a b => let r := fCmp f z op a b; (if r.1 then 1 else 0, r.2)
/-- FCLASS (R153). -/
def execFclass (f : Fmt) (rd ra : R5) (s : State) : Host.Outcome State Fault Refusal :=
  s.fps1 .rne rd ra fun _ _ => fClass f
/-- FMA (R154). -/
def execFma (dbl : Bool) (negp negc : Bool) (rm : Rm) (rd ra rb rc : R5) (s : State) :
    Host.Outcome State Fault Refusal :=
  s.floatOp { a := some (.s ra), b := some (.s rb), c := some (.s rc), dst := some (.s rd) } rm fun m z v =>
    .ofF (fFma (if dbl then .f64 else .f32) m z negp negc v.sa.toNat v.sb.toNat v.sc.toNat)

end Sys2Proof.Machine
end

