-- ==== Sys2Proof/Machine/Vector.lean ====
section
/-!
DEFINITION. Vector integer (R156 to R158), vector float (R159 to R161) and vector miscellaneous instructions (R162 to
R167), predicates (R186, R187). A predicate governs the destination's elements (R96).
-/

namespace Sys2Proof.Machine

/-- The fields of a vector instruction of two vector sources. -/
def fVVV (qp : BitVec 3) (rd ra rb : R5) : Fields :=
  { a := some (.v ra), b := some (.v rb), qp := qp.toNat, dst := some (.v rd) }

/-- An integer vector instruction: each lane's vector from its fields. -/
def State.vecOp (s : State) (f : Fields) (g : Vals → Vec) : Host.Outcome State Fault Refusal :=
  s.onUnit fun x => s.lanewise x f (perLane fun _ v => .ok { val := g v })

/-- An element-by-element integer instruction (R156). -/
def State.vint (s : State) (w : Nat) (qp : BitVec 3) (rd ra rb : R5) (g : Nat → Nat → Nat) :
    Host.Outcome State Fault Refusal :=
  s.vecOp (fVVV qp rd ra rb) fun v => mapElems w v.q v.old fun i => g (elem w v.a i) (elem w v.b i)

/-- Whether a lies below b, signed for I types and unsigned for N types (R156). -/
def elemLess (et : ElemTy) (a b : Nat) : Bool := intOf et a < intOf et b

/-- VADD (R156). -/
def execVadd (et : ElemTy) (qp : BitVec 3) (rd ra rb : R5) (s : State) : Host.Outcome State Fault Refusal :=
  s.vint et.bits qp rd ra rb fun a b => a + b
/-- VSUB (R156). -/
def execVsub (et : ElemTy) (qp : BitVec 3) (rd ra rb : R5) (s : State) : Host.Outcome State Fault Refusal :=
  s.vint et.bits qp rd ra rb fun a b => a + 2 ^ et.bits - b
/-- VMUL (R156). -/
def execVmul (et : ElemTy) (qp : BitVec 3) (rd ra rb : R5) (s : State) : Host.Outcome State Fault Refusal :=
  s.vint et.bits qp rd ra rb fun a b => a * b
/-- VMIN (R156). -/
def execVmin (et : ElemTy) (qp : BitVec 3) (rd ra rb : R5) (s : State) : Host.Outcome State Fault Refusal :=
  s.vint et.bits qp rd ra rb fun a b => if elemLess et b a then b else a
/-- VMAX (R156). -/
def execVmax (et : ElemTy) (qp : BitVec 3) (rd ra rb : R5) (s : State) : Host.Outcome State Fault Refusal :=
  s.vint et.bits qp rd ra rb fun a b => if elemLess et a b then b else a

/-- VLOG's operation on bytes (R157). -/
def logOp (op : LogOp) (a b : Nat) : Nat :=
  match op with
  | .and => a &&& b
  | .or => a ||| b
  | .xor => a ^^^ b
  | .andn => a &&& (255 - b)

/-- VLOG (R157). -/
def execVlog (op : LogOp) (qp : BitVec 3) (rd ra rb : R5) (s : State) : Host.Outcome State Fault Refusal :=
  s.vint 8 qp rd ra rb (logOp op)

/-- VSH's element (R158). -/
def vshElem (et : ElemTy) (a b : Nat) : Nat :=
  let w := et.bits
  let c := sint w b
  if 0 ≤ c then (if (w : Int) ≤ c then 0 else a * 2 ^ c.toNat)
  else if et.isSigned then wrap w (sint w a / (2 ^ min (-c).toNat w : Nat))
  else a / 2 ^ min (-c).toNat w

/-- VSH (R158). -/
def execVsh (et : ElemTy) (qp : BitVec 3) (rd ra rb : R5) (s : State) : Host.Outcome State Fault Refusal :=
  s.vint et.bits qp rd ra rb (vshElem et)

-- Vector float.

/-- An element-by-element float instruction; rounding is DYN (R159). -/
def State.vfp (s : State) (et : ElemTy) (qp : BitVec 3) (rd ra rb : R5)
    (g : RMode → Bool → Nat → Nat → Nat × Fl) : Host.Outcome State Fault Refusal :=
  s.floatOp (fVVV qp rd ra rb) .dyn fun m z v =>
    mapFloat et.bits v.q v.old fun i => g m z (elem et.bits v.a i) (elem et.bits v.b i)

/-- VFADD (R159). -/
def execVfadd (et : ElemTy) (qp : BitVec 3) (rd ra rb : R5) (s : State) : Host.Outcome State Fault Refusal :=
  s.vfp et qp rd ra rb (fAdd (elemFmt et))
/-- VFSUB (R159). -/
def execVfsub (et : ElemTy) (qp : BitVec 3) (rd ra rb : R5) (s : State) : Host.Outcome State Fault Refusal :=
  s.vfp et qp rd ra rb (fSub (elemFmt et))
/-- VFMUL (R159). -/
def execVfmul (et : ElemTy) (qp : BitVec 3) (rd ra rb : R5) (s : State) : Host.Outcome State Fault Refusal :=
  s.vfp et qp rd ra rb (fMul (elemFmt et))
/-- VFMIN (R150, R159). -/
def execVfmin (et : ElemTy) (qp : BitVec 3) (rd ra rb : R5) (s : State) : Host.Outcome State Fault Refusal :=
  s.vfp et qp rd ra rb fun _ z => fMinMax (elemFmt et) z false
/-- VFMAX (R150, R159). -/
def execVfmax (et : ElemTy) (qp : BitVec 3) (rd ra rb : R5) (s : State) : Host.Outcome State Fault Refusal :=
  s.vfp et qp rd ra rb fun _ z => fMinMax (elemFmt et) z true

/-- The value that a comparison writes (R161). -/
def cmpCode (o : Option Ordering) : Int :=
  match o with
  | some .lt => -1
  | some .eq => 0
  | some .gt => 1
  | none => 2

/-- VFCMP (R161). -/
def execVfcmp (et : ElemTy) (qp : BitVec 3) (rd ra rb : R5) (s : State) : Host.Outcome State Fault Refusal :=
  s.vfp et qp rd ra rb fun _ z a b =>
    let x := (elemFmt et).read z a
    let y := (elemFmt et).read z b
    (wrap et.bits (cmpCode (cmpX x y)), sigFl [x, y])

/-- VCMP (R161). -/
def execVcmp (et : ElemTy) (qp : BitVec 3) (rd ra rb : R5) (s : State) : Host.Outcome State Fault Refusal :=
  s.vint et.bits qp rd ra rb fun a b => wrap et.bits (cmpCode (some (compare (intOf et a) (intOf et b))))

/-- VFMA (R160): no predicate. -/
def execVfma (half : Bool) (negp negc : Bool) (rm : Rm) (rd ra rb rc : R5) (s : State) :
    Host.Outcome State Fault Refusal :=
  let f : Fmt := if half then .f16 else .f32
  s.floatOp { a := some (.v ra), b := some (.v rb), c := some (.v rc), dst := some (.v rd) } rm fun m z v =>
    mapFloat f.bits (BitVec.allOnes 32) v.old fun i =>
      fFma f m z negp negc (elem f.bits v.a i) (elem f.bits v.b i) (elem f.bits v.c i)

-- Vector miscellaneous.

/-- VSEL (R162): the predicate selects. -/
def execVsel (et : ElemTy) (qp : BitVec 3) (rd ra rb : R5) (s : State) : Host.Outcome State Fault Refusal :=
  s.vecOp (fVVV qp rd ra rb) fun v =>
    ofElems et.bits fun i => if elemOn et.bits v.q i then elem et.bits v.a i else elem et.bits v.b i

/-- VSPLAT (R163). -/
def execVsplat (et : ElemTy) (qp : BitVec 3) (rd ra : R5) (s : State) : Host.Outcome State Fault Refusal :=
  s.vecOp { a := some (.s ra), qp := qp.toNat, dst := some (.v rd) } fun v =>
    mapElems et.bits v.q v.old fun _ => v.sa.toNat

/-- An element as a scalar: sign-extended for I types, zero-extended for others (R164). -/
def elemWord (et : ElemTy) (x : Nat) : Word :=
  if et.isInt then BitVec.ofInt 64 (intOf et x) else w64 (x % 2 ^ et.bits)

/-- VEXT (R164). -/
def execVext (et : ElemTy) (rd ra rb : R5) (s : State) : Host.Outcome State Fault Refusal :=
  s.vecOp { a := some (.v ra), b := some (.s rb), dst := some (.s rd) } fun v =>
    (elemWord et (elem et.bits v.a (v.sb.toNat % elems et.bits))).setWidth 256

/-- VINS (R164). -/
def execVins (et : ElemTy) (rd ra rb : R5) (s : State) : Host.Outcome State Fault Refusal :=
  s.vecOp { a := some (.s ra), b := some (.s rb), dst := some (.v rd) } fun v =>
    ofElems et.bits fun i => if i = v.sb.toNat % elems et.bits then v.sa.toNat else elem et.bits v.old i

/-- VPERM (R165). -/
def execVperm (et : ElemTy) (qp : BitVec 3) (rd ra rb : R5) (s : State) : Host.Outcome State Fault Refusal :=
  s.vecOp (fVVV qp rd ra rb) fun v =>
    mapElems et.bits v.q v.old fun i => elem et.bits v.a (elem et.bits v.b i % elems et.bits)

/-- The identity of a reduction (R173). -/
def redIdentity (et : ElemTy) (op : RedOp) : Nat :=
  if et.isInt then
    match op with
    | .add => 0
    | .min => if et.isSigned then 2 ^ (et.bits - 1) - 1 else 2 ^ et.bits - 1
    | .max => if et.isSigned then 2 ^ (et.bits - 1) else 0
  else
    match op with
    | .add => 0
    | .min => (elemFmt et).infEnc
    | .max => (elemFmt et).signOf true + (elemFmt et).infEnc

/-- Two elements combined (R166, R173). -/
def redTwo (et : ElemTy) (op : RedOp) (m : RMode) (z : Bool) (a b : Nat) : Nat × Fl :=
  if et.isInt then
    match op with
    | .add => ((a + b) % 2 ^ et.bits, 0)
    | .min => (if elemLess et b a then b else a, 0)
    | .max => (if elemLess et a b then b else a, 0)
  else
    match op with
    | .add => fAdd (elemFmt et) m z a b
    | .min => fMinMax (elemFmt et) z false a b
    | .max => fMinMax (elemFmt et) z true a b

/-- A single value (R166, R173): a NaN becomes canonical, and a signalling one sets NV. It is the element as FCSR.FTZ
has it read (R119, R150), log entry 94. -/
def redOne (et : ElemTy) (z : Bool) (a : Nat) : Nat × Fl :=
  if et.isInt then (a, 0)
  else
    let a := (elemFmt et).flush z a
    let v := (elemFmt et).dec a
    (if v.isNan then (elemFmt et).nanEnc else a, sigFl [v])

/-- The combination of values in order, with its flags (R166, R173). -/
def combine (et : ElemTy) (op : RedOp) (m : RMode) (z : Bool) : List Nat → Nat × Fl
  | [] => (redIdentity et op, 0)
  | [a] => redOne et z a
  | a :: b :: l => (b :: l).foldl (fun (c : Nat × Fl) y =>
      let r := redTwo et op m z c.1 y
      (r.1, c.2 ||| r.2)) (a, 0)

/-- VRED's scalar (R166): an integer sum is taken mod 2^64, any other result is that of the combination. -/
def vredOut (et : ElemTy) (op : RedOp) (m : RMode) (z : Bool) (xs : List Nat) : LaneOut :=
  if et.isInt && op = .add then .ofS (BitVec.ofInt 64 (xs.foldl (fun a x => a + intOf et x) 0))
  else
    let r := combine et op m z xs
    { val := (elemWord et r.1).setWidth 256, fl := r.2 }

/-- VRED (R166). -/
def execVred (et : ElemTy) (op : RedOp) (qp : BitVec 3) (rd ra : R5) (s : State) :
    Host.Outcome State Fault Refusal :=
  s.floatOp { a := some (.v ra), qp := qp.toNat, dst := some (.s rd) } .dyn fun m z v =>
    vredOut et op m z ((activeElems et.bits v.q).map (elem et.bits v.a))

/-- VDOT's integer element (R167). -/
def vdotInt (et : ElemTy) (v : Vals) (i : Nat) : Nat :=
  wrap 32 ((List.range 4).foldl (fun (a : Int) j =>
    a + intOf et (elem 8 v.a (4 * i + j)) * intOf et (elem 8 v.b (4 * i + j))) (elem 32 v.old i : Nat))

/-- VDOT's float element (R167): one rounding of the exact sum. The sum is formed from the accumulated value on, then the
products from the left: the invalid flag of infinities beside a NaN follows that order, and an exact zero takes FADD's
sign. Both are choices of the model (log entry 99). -/
def vdotFloat (f : Fmt) (m : RMode) (z : Bool) (v : Vals) (i : Nat) : Nat × Fl :=
  let prod := fun j => mulX (f.read z (elem 16 v.a (2 * i + j))) (f.read z (elem 16 v.b (2 * i + j)))
  let p0 := prod 0
  let p1 := prod 1
  let d := Fmt.read .f32 z (elem 32 v.old i)
  let s0 := addX m d p0.1
  let s1 := addX m s0.1 p1.1
  let r := roundVal .f32 m z s1.1
  (r.1, p0.2 ||| p1.2 ||| s0.2 ||| s1.2 ||| r.2)

/-- VDOT (R167): accumulates into vd, whose 32-bit elements the predicate governs. -/
def execVdot (et : ElemTy) (qp : BitVec 3) (rd ra rb : R5) (s : State) : Host.Outcome State Fault Refusal :=
  s.floatOp (fVVV qp rd ra rb) .dyn fun m z v =>
    mapFloat 32 v.q v.old fun i =>
      if et.isInt then (vdotInt et v i, 0) else vdotFloat (elemFmt et) m z v i

-- Predicates.

/-- QLOG's operation (R187). -/
def qlogOp (op : QOp) (a b : Mask) : Mask :=
  match op with
  | .and => a &&& b
  | .or => a ||| b
  | .xor => a ^^^ b
  | .andn => a &&& ~~~b
  | .not => ~~~a

/-- QLOG (R187). -/
def execQlog (op : QOp) (qd qa qb : BitVec 3) (s : State) : Host.Outcome State Fault Refusal :=
  s.vecOp { a := some (.q (qa.setWidth 5)), b := some (.q (qb.setWidth 5)), dst := some (.q (qd.setWidth 5)) } fun v =>
    (qlogOp op (v.a.setWidth 32) (v.b.setWidth 32)).setWidth 256

/-- Whether QFROM's set accepts a value (R186). -/
def inSet (set : BitVec 5) (v : Int) : Bool :=
  if v = -1 then set.getLsbD 0 else if v = 0 then set.getLsbD 1 else if v = 1 then set.getLsbD 2
  else if v = 2 then set.getLsbD 3 else set.getLsbD 4

/-- QFROM of a vector (R186): every predicate bit of an element. -/
def execQfrom (et : ElemTy) (set : BitVec 5) (qd : BitVec 3) (ra : R5) (s : State) :
    Host.Outcome State Fault Refusal :=
  s.vecOp { a := some (.v ra), dst := some (.q (qd.setWidth 5)) } fun v =>
    BitVec.ofNat 256 (maskOf 32 fun b => inSet set (intOf et (elem et.bits v.a (8 * b / et.bits))))

/-- QFROM of a scalar (R186). -/
def execQfromS (qd : BitVec 3) (ra : R5) (s : State) : Host.Outcome State Fault Refusal :=
  s.vecOp { a := some (.s ra), dst := some (.q (qd.setWidth 5)) } fun v => (v.sa.setWidth 32).setWidth 256

/-- QTO (R187). -/
def execQto (rd : R5) (qa : BitVec 3) (s : State) : Host.Outcome State Fault Refusal :=
  s.vecOp { a := some (.q (qa.setWidth 5)), dst := some (.s rd) } fun v => v.sa.setWidth 256

end Sys2Proof.Machine
end

