-- ==== Sys2Proof/Machine/Convert.lean ====
section
/-!
DEFINITION. Conversions (R175 to R180), with stochastic rounding (R122 to R124), and special functions (R181).
-/

namespace Sys2Proof.Machine

/-- CVT (R176). -/
def execCvt (dst src : ElemTy) (rm : Rm) (rd ra : R5) (s : State) : Host.Outcome State Fault Refusal :=
  s.floatOp (fSS rd ra) rm fun m z v =>
    let r := cvtAny dst src m z v.sa.toNat
    { val := (elemWord dst r.1).setWidth 256, fl := r.2 }

/-- Where element `i` of a conversion stands: in the source register and in the destination register, for widths of the
source and of the destination (R177). -/
def cvtSrcIx (sw dw part i : Nat) : Nat := if sw < dw then part * elems dw + i else i
def cvtDstIx (sw dw part i : Nat) : Nat := if dw < sw then part * elems sw + i else i

/-- The conversion of the active elements in ascending order (R177, R178, R124): the results by index, the flags, and
the generator, which steps once for each active element when rounding is stochastic. -/
def cvtRun (sr : Bool) (rm : RMode) (conv : RMode → Nat → Nat × Fl) (src : Nat → Nat) :
    List Nat → BitVec 16 → List (Nat × Nat) × Fl × BitVec 16
  | [], g => ([], 0, g)
  | i :: is, g =>
    let g' := if sr then genStep g else g
    let r := conv (if sr then .sr g'.toNat else rm) (src i)
    let (out, fl, h) := cvtRun sr rm conv src is g'
    ((i, r.1) :: out, r.2 ||| fl, h)

/-- A vector conversion in one lane (R177): widths, part, predicate, rounding, generator. -/
def cvtVec (sw dw part : Nat) (q : Mask) (sr : Bool) (rm : RMode) (conv : RMode → Nat → Nat × Fl) (v : Vals)
    (g : BitVec 16) : LaneOut :=
  let w := max sw dw
  let (out, fl, h) := cvtRun sr rm conv (fun i => elem sw v.a (cvtSrcIx sw dw part i)) (activeElems w q) g
  { val := ofElems dw fun k =>
      match out.find? fun r => cvtDstIx sw dw part r.1 == k with
      | some r => r.2
      | none => elem dw v.old k
    fl := fl
    gen := if sr then some h else none }

/-- VCVT (R177, R178). -/
def execVcvt (dst src : Fmt) (rm : Rm) (part : BitVec 3) (qp : BitVec 2) (rd ra : R5) (s : State) :
    Host.Outcome State Fault Refusal :=
  s.onUnit fun x =>
    let fcsr := x.u.sh.fcsr
    s.lanewise x { a := some (.v ra), qp := qp.toNat, dst := some (.v rd) } (perLane fun t v =>
      .ok (cvtVec src.bits dst.bits part.toNat v.q (rmIsSr rm fcsr) (rmodeOf rm fcsr)
        (fun m a => cvtFF dst src m (fcsrFtz fcsr) a) v (x.w.thr t).gen))

/-- VCVTSC (R179): bits [7:0] of the scalar are the scale's exponent and bits [10:8] the part. -/
def execVcvtsc (dst src : Fmt) (rm : Rm) (qp : BitVec 2) (rd ra rb : R5) (s : State) :
    Host.Outcome State Fault Refusal :=
  s.onUnit fun x =>
    let fcsr := x.u.sh.fcsr
    s.lanewise x { a := some (.v ra), b := some (.s rb), qp := qp.toNat, dst := some (.v rd) } (perLane fun t v =>
      let e := nbits v.sb.toNat 7 0
      let part := nbits v.sb.toNat 10 8 % widthRatio src.bits dst.bits
      .ok (cvtVec src.bits dst.bits part v.q (rmIsSr rm fcsr) (rmodeOf rm fcsr)
        (fun m a => cvtScaled dst src m e a) v (x.w.thr t).gen))

/-- VCVTUS (R180): no predicate. -/
def execVcvtus (dst src : ElemTy) (rm : Rm) (part : BitVec 2) (rd ra : R5) (s : State) :
    Host.Outcome State Fault Refusal :=
  s.floatOp { a := some (.v ra), dst := some (.v rd) } rm fun m z v =>
    cvtVec src.bits dst.bits part.toNat (BitVec.allOnes 32) false m (fun m a => cvtAny dst src m z a) v 0

-- Special functions.

/-- A scalar special function (R181). -/
def State.sfuScalar (s : State) (op : SfuOp) (rd ra : R5) : Host.Outcome State Fault Refusal :=
  s.floatOp (fSS rd ra) .rne fun _ z v => .ofF (sfu op z (v.sa.toNat % 2 ^ 32))

/-- A vector special function (R181). -/
def State.sfuVector (s : State) (op : SfuOp) (et : ElemTy) (qp : BitVec 3) (rd ra : R5) :
    Host.Outcome State Fault Refusal :=
  s.floatOp { a := some (.v ra), qp := qp.toNat, dst := some (.v rd) } .rne fun _ z v =>
    mapFloat et.bits v.q v.old fun i => sfuElem op (elemFmt et) z (elem et.bits v.a i)

/-- EXP2 (R129, R181). -/
def execExp2 (rd ra : R5) (s : State) : Host.Outcome State Fault Refusal := s.sfuScalar .exp2 rd ra
/-- EXP2 of a vector (R129, R181). -/
def execExp2V (et : ElemTy) (qp : BitVec 3) (rd ra : R5) (s : State) : Host.Outcome State Fault Refusal :=
  s.sfuVector .exp2 et qp rd ra
/-- LOG2 (R129, R181). -/
def execLog2 (rd ra : R5) (s : State) : Host.Outcome State Fault Refusal := s.sfuScalar .log2 rd ra
/-- LOG2 of a vector (R129, R181). -/
def execLog2V (et : ElemTy) (qp : BitVec 3) (rd ra : R5) (s : State) : Host.Outcome State Fault Refusal :=
  s.sfuVector .log2 et qp rd ra
/-- RCP (R129, R181). -/
def execRcp (rd ra : R5) (s : State) : Host.Outcome State Fault Refusal := s.sfuScalar .rcp rd ra
/-- RCP of a vector (R129, R181). -/
def execRcpV (et : ElemTy) (qp : BitVec 3) (rd ra : R5) (s : State) : Host.Outcome State Fault Refusal :=
  s.sfuVector .rcp et qp rd ra
/-- RSQ (R129, R181). -/
def execRsq (rd ra : R5) (s : State) : Host.Outcome State Fault Refusal := s.sfuScalar .rsq rd ra
/-- RSQ of a vector (R129, R181). -/
def execRsqV (et : ElemTy) (qp : BitVec 3) (rd ra : R5) (s : State) : Host.Outcome State Fault Refusal :=
  s.sfuVector .rsq et qp rd ra
/-- SIN (R129, R181). -/
def execSin (rd ra : R5) (s : State) : Host.Outcome State Fault Refusal := s.sfuScalar .sin rd ra
/-- SIN of a vector (R129, R181). -/
def execSinV (et : ElemTy) (qp : BitVec 3) (rd ra : R5) (s : State) : Host.Outcome State Fault Refusal :=
  s.sfuVector .sin et qp rd ra
/-- COS (R129, R181). -/
def execCos (rd ra : R5) (s : State) : Host.Outcome State Fault Refusal := s.sfuScalar .cos rd ra
/-- COS of a vector (R129, R181). -/
def execCosV (et : ElemTy) (qp : BitVec 3) (rd ra : R5) (s : State) : Host.Outcome State Fault Refusal :=
  s.sfuVector .cos et qp rd ra

end Sys2Proof.Machine
end

