-- ==== Sys2Proof/Machine/Lane.lean ====
section
/-!
DEFINITION. Instructions that act across the lanes of a group (R171 to R174). In split mode the thread is lane 0 of 1.
-/

namespace Sys2Proof.Machine

/-- The thread of a lane number, mod F (R172). -/
def Issuer.atLane (x : Issuer) (n : Nat) : Nat := x.span.headD x.id.t + n % x.lanes

/-- An instruction that moves elements between lanes (R171, R172): `src` gives each lane's source lane. -/
def State.laneMove (s : State) (et : ElemTy) (qp : BitVec 3) (rd ra rb : R5)
    (src : Issuer → (Nat → Vals) → Nat → Nat) : Host.Outcome State Fault Refusal :=
  s.onUnit fun x =>
    s.lanewise x { a := some (.v ra), b := some (.s rb), qp := qp.toNat, dst := some (.v rd) } fun rd t =>
      .ok { val := mapElems et.bits (rd t).q (rd t).old fun e => elem et.bits (rd (x.atLane (src x rd t))).a e }

/-- LSHFL (R172). -/
def execLshfl (et : ElemTy) (qp : BitVec 3) (rd ra rb : R5) (s : State) : Host.Outcome State Fault Refusal :=
  s.laneMove et qp rd ra rb fun _ v t => (v t).sb.toNat
/-- LBCAST (R172). -/
def execLbcast (et : ElemTy) (qp : BitVec 3) (rd ra rb : R5) (s : State) : Host.Outcome State Fault Refusal :=
  s.laneMove et qp rd ra rb fun x v _ => (v x.lead).sb.toNat
/-- LROT (R172). -/
def execLrot (et : ElemTy) (qp : BitVec 3) (rd ra rb : R5) (s : State) : Host.Outcome State Fault Refusal :=
  s.laneMove et qp rd ra rb fun x v t => x.laneOf t + (v x.lead).sb.toNat

/-- An instruction that combines an element of the participating lanes, in ascending lane order (R171, R173): `take`
says which lanes enter the combination that a lane receives. -/
def State.laneCombine (s : State) (et : ElemTy) (op : RedOp) (qp : BitVec 3) (rd ra : R5)
    (take : Nat → Nat → Bool) : Host.Outcome State Fault Refusal :=
  s.onUnit fun x =>
    let m := rmodeOf .dyn x.u.sh.fcsr
    let z := fcsrFtz x.u.sh.fcsr
    s.lanewise x { a := some (.v ra), qp := qp.toNat, dst := some (.v rd) } fun rd t =>
      .ok (mapFloat et.bits (rd t).q (rd t).old fun e =>
        combine et op m z ((x.active.filter fun u => elemOn et.bits (rd u).q e && take t u).map fun u =>
          elem et.bits (rd u).a e))

/-- LRED (R173). -/
def execLred (et : ElemTy) (op : RedOp) (qp : BitVec 3) (rd ra : R5) (s : State) : Host.Outcome State Fault Refusal :=
  s.laneCombine et op qp rd ra fun _ _ => true
/-- LSCAN (R173). -/
def execLscan (et : ElemTy) (excl : Bool) (op : RedOp) (qp : BitVec 3) (rd ra : R5) (s : State) :
    Host.Outcome State Fault Refusal :=
  s.laneCombine et op qp rd ra fun t u => if excl then u < t else u ≤ t

/-- VOTE's result from the lanes of the active threads in which the predicate holds (R174). -/
def voteWord (kind : VoteKind) (lanes : List Nat) (all : Nat) : Word :=
  match kind with
  | .any => if lanes.isEmpty then 0 else 1
  | .all => if lanes.length = all then 1 else 0
  | .ballot => w64 (lanes.foldl (fun a l => a + 2 ^ l) 0)
  | .count => w64 lanes.length

/-- VOTE (R174). -/
def execVote (kind : VoteKind) (rd ra : R5) (s : State) : Host.Outcome State Fault Refusal :=
  s.onUnit fun x => s.lanewise x (fSS rd ra) fun rd _ =>
    .ok (.ofS (voteWord kind ((x.active.filter fun u => (rd u).sa ≠ 0).map x.laneOf) x.active.length))

end Sys2Proof.Machine
end

