-- ==== Sys2Proof/Machine/Dispatch.lean ====
section
/-!
DEFINITION. The dispatch: one meaning for each instruction and event.
-/

namespace Sys2Proof.Machine

def exec (i : Instr) (s : State) : Host.Outcome State Fault Refusal :=
  match i with
  | .add w rd ra rb => Sys2Proof.Machine.execAdd w rd ra rb s
  | .sub w rd ra rb => Sys2Proof.Machine.execSub w rd ra rb s
  | .and w rd ra rb => Sys2Proof.Machine.execAnd w rd ra rb s
  | .or w rd ra rb => Sys2Proof.Machine.execOr w rd ra rb s
  | .xor w rd ra rb => Sys2Proof.Machine.execXor w rd ra rb s
  | .sll w rd ra rb => Sys2Proof.Machine.execSll w rd ra rb s
  | .srl w rd ra rb => Sys2Proof.Machine.execSrl w rd ra rb s
  | .sra w rd ra rb => Sys2Proof.Machine.execSra w rd ra rb s
  | .rotl w rd ra rb => Sys2Proof.Machine.execRotl w rd ra rb s
  | .slt w rd ra rb => Sys2Proof.Machine.execSlt w rd ra rb s
  | .sltu w rd ra rb => Sys2Proof.Machine.execSltu w rd ra rb s
  | .min w rd ra rb => Sys2Proof.Machine.execMin w rd ra rb s
  | .max w rd ra rb => Sys2Proof.Machine.execMax w rd ra rb s
  | .minu w rd ra rb => Sys2Proof.Machine.execMinu w rd ra rb s
  | .maxu w rd ra rb => Sys2Proof.Machine.execMaxu w rd ra rb s
  | .mul w rd ra rb => Sys2Proof.Machine.execMul w rd ra rb s
  | .mulh w rd ra rb => Sys2Proof.Machine.execMulh w rd ra rb s
  | .mulhu w rd ra rb => Sys2Proof.Machine.execMulhu w rd ra rb s
  | .div w rd ra rb => Sys2Proof.Machine.execDiv w rd ra rb s
  | .divu w rd ra rb => Sys2Proof.Machine.execDivu w rd ra rb s
  | .rem w rd ra rb => Sys2Proof.Machine.execRem w rd ra rb s
  | .remu w rd ra rb => Sys2Proof.Machine.execRemu w rd ra rb s
  | .clz w rd ra => Sys2Proof.Machine.execClz w rd ra s
  | .ctz w rd ra => Sys2Proof.Machine.execCtz w rd ra s
  | .popc w rd ra => Sys2Proof.Machine.execPopc w rd ra s
  | .addi rd ra imm => Sys2Proof.Machine.execAddi rd ra imm s
  | .andi rd ra imm => Sys2Proof.Machine.execAndi rd ra imm s
  | .ori rd ra imm => Sys2Proof.Machine.execOri rd ra imm s
  | .xori rd ra imm => Sys2Proof.Machine.execXori rd ra imm s
  | .slti rd ra imm => Sys2Proof.Machine.execSlti rd ra imm s
  | .sltiu rd ra imm => Sys2Proof.Machine.execSltiu rd ra imm s
  | .slli w rd ra count => Sys2Proof.Machine.execSlli w rd ra count s
  | .srli w rd ra count => Sys2Proof.Machine.execSrli w rd ra count s
  | .srai w rd ra count => Sys2Proof.Machine.execSrai w rd ra count s
  | .lui rd imm => Sys2Proof.Machine.execLui rd imm s
  | .auipc rd imm => Sys2Proof.Machine.execAuipc rd imm s
  | .beq ra rb off => Sys2Proof.Machine.execBeq ra rb off s
  | .bne ra rb off => Sys2Proof.Machine.execBne ra rb off s
  | .blt ra rb off => Sys2Proof.Machine.execBlt ra rb off s
  | .bge ra rb off => Sys2Proof.Machine.execBge ra rb off s
  | .bltu ra rb off => Sys2Proof.Machine.execBltu ra rb off s
  | .bgeu ra rb off => Sys2Proof.Machine.execBgeu ra rb off s
  | .jal rd off => Sys2Proof.Machine.execJal rd off s
  | .jalr rd ra imm => Sys2Proof.Machine.execJalr rd ra imm s
  | .jpt off => Sys2Proof.Machine.execJpt off s
  | .lb h rd ra imm => Sys2Proof.Machine.execLb h rd ra imm s
  | .lh h rd ra imm => Sys2Proof.Machine.execLh h rd ra imm s
  | .lw h rd ra imm => Sys2Proof.Machine.execLw h rd ra imm s
  | .ld h rd ra imm => Sys2Proof.Machine.execLd h rd ra imm s
  | .lbu h rd ra imm => Sys2Proof.Machine.execLbu h rd ra imm s
  | .lhu h rd ra imm => Sys2Proof.Machine.execLhu h rd ra imm s
  | .lwu h rd ra imm => Sys2Proof.Machine.execLwu h rd ra imm s
  | .sb h rs ra imm => Sys2Proof.Machine.execSb h rs ra imm s
  | .sh h rs ra imm => Sys2Proof.Machine.execSh h rs ra imm s
  | .sw h rs ra imm => Sys2Proof.Machine.execSw h rs ra imm s
  | .sd h rs ra imm => Sys2Proof.Machine.execSd h rs ra imm s
  | .amoadd sz sc o rd ra rb => Sys2Proof.Machine.execAmoadd sz sc o rd ra rb s
  | .amoand sz sc o rd ra rb => Sys2Proof.Machine.execAmoand sz sc o rd ra rb s
  | .amoor sz sc o rd ra rb => Sys2Proof.Machine.execAmoor sz sc o rd ra rb s
  | .amoxor sz sc o rd ra rb => Sys2Proof.Machine.execAmoxor sz sc o rd ra rb s
  | .amomin sz sc o rd ra rb => Sys2Proof.Machine.execAmomin sz sc o rd ra rb s
  | .amomax sz sc o rd ra rb => Sys2Proof.Machine.execAmomax sz sc o rd ra rb s
  | .amominu sz sc o rd ra rb => Sys2Proof.Machine.execAmominu sz sc o rd ra rb s
  | .amomaxu sz sc o rd ra rb => Sys2Proof.Machine.execAmomaxu sz sc o rd ra rb s
  | .amoswap sz sc o rd ra rb => Sys2Proof.Machine.execAmoswap sz sc o rd ra rb s
  | .amofadd sz sc o rd ra rb => Sys2Proof.Machine.execAmofadd sz sc o rd ra rb s
  | .amocas sz sc o rd ra rb => Sys2Proof.Machine.execAmocas sz sc o rd ra rb s
  | .ldaq sz sc rd ra => Sys2Proof.Machine.execLdaq sz sc rd ra s
  | .strl sz sc ra rb => Sys2Proof.Machine.execStrl sz sc ra rb s
  | .fence sc kinds io ra => Sys2Proof.Machine.execFence sc kinds io ra s
  | .ifence => Sys2Proof.Machine.execIfence s
  | .waitf mask => Sys2Proof.Machine.execWaitf mask s
  | .txbegin rd => Sys2Proof.Machine.execTxbegin rd s
  | .txend => Sys2Proof.Machine.execTxend s
  | .txabort code => Sys2Proof.Machine.execTxabort code s
  | .txstat rd => Sys2Proof.Machine.execTxstat rd s
  | .acqh => Sys2Proof.Machine.execAcqh s
  | .relh => Sys2Proof.Machine.execRelh s
  | .fadd f rm rd ra rb => Sys2Proof.Machine.execFadd f rm rd ra rb s
  | .fsub f rm rd ra rb => Sys2Proof.Machine.execFsub f rm rd ra rb s
  | .fmul f rm rd ra rb => Sys2Proof.Machine.execFmul f rm rd ra rb s
  | .fdiv f rm rd ra rb => Sys2Proof.Machine.execFdiv f rm rd ra rb s
  | .fsqrt f rm rd ra => Sys2Proof.Machine.execFsqrt f rm rd ra s
  | .fmin f rd ra rb => Sys2Proof.Machine.execFmin f rd ra rb s
  | .fmax f rd ra rb => Sys2Proof.Machine.execFmax f rd ra rb s
  | .fsgn f op rd ra rb => Sys2Proof.Machine.execFsgn f op rd ra rb s
  | .fcmp f op rd ra rb => Sys2Proof.Machine.execFcmp f op rd ra rb s
  | .fclass f rd ra => Sys2Proof.Machine.execFclass f rd ra s
  | .fma dbl negp negc rm rd ra rb rc => Sys2Proof.Machine.execFma dbl negp negc rm rd ra rb rc s
  | .vadd et qp rd ra rb => Sys2Proof.Machine.execVadd et qp rd ra rb s
  | .vsub et qp rd ra rb => Sys2Proof.Machine.execVsub et qp rd ra rb s
  | .vmul et qp rd ra rb => Sys2Proof.Machine.execVmul et qp rd ra rb s
  | .vmin et qp rd ra rb => Sys2Proof.Machine.execVmin et qp rd ra rb s
  | .vmax et qp rd ra rb => Sys2Proof.Machine.execVmax et qp rd ra rb s
  | .vlog op qp rd ra rb => Sys2Proof.Machine.execVlog op qp rd ra rb s
  | .vsh et qp rd ra rb => Sys2Proof.Machine.execVsh et qp rd ra rb s
  | .vfadd et qp rd ra rb => Sys2Proof.Machine.execVfadd et qp rd ra rb s
  | .vfsub et qp rd ra rb => Sys2Proof.Machine.execVfsub et qp rd ra rb s
  | .vfmul et qp rd ra rb => Sys2Proof.Machine.execVfmul et qp rd ra rb s
  | .vfmin et qp rd ra rb => Sys2Proof.Machine.execVfmin et qp rd ra rb s
  | .vfmax et qp rd ra rb => Sys2Proof.Machine.execVfmax et qp rd ra rb s
  | .vfcmp et qp rd ra rb => Sys2Proof.Machine.execVfcmp et qp rd ra rb s
  | .vcmp et qp rd ra rb => Sys2Proof.Machine.execVcmp et qp rd ra rb s
  | .vfma half negp negc rm rd ra rb rc => Sys2Proof.Machine.execVfma half negp negc rm rd ra rb rc s
  | .vsel et qp rd ra rb => Sys2Proof.Machine.execVsel et qp rd ra rb s
  | .vsplat et qp rd ra => Sys2Proof.Machine.execVsplat et qp rd ra s
  | .vext et rd ra rb => Sys2Proof.Machine.execVext et rd ra rb s
  | .vins et rd ra rb => Sys2Proof.Machine.execVins et rd ra rb s
  | .vperm et qp rd ra rb => Sys2Proof.Machine.execVperm et qp rd ra rb s
  | .vred et op qp rd ra => Sys2Proof.Machine.execVred et op qp rd ra s
  | .vdot et qp rd ra rb => Sys2Proof.Machine.execVdot et qp rd ra rb s
  | .vld et qp rd ra rb => Sys2Proof.Machine.execVld et qp rd ra rb s
  | .vst et qp rs ra rb => Sys2Proof.Machine.execVst et qp rs ra rb s
  | .vlds et qp rd ra rb => Sys2Proof.Machine.execVlds et qp rd ra rb s
  | .vgath et qp rd ra rb => Sys2Proof.Machine.execVgath et qp rd ra rb s
  | .vscat et qp rs ra rb => Sys2Proof.Machine.execVscat et qp rs ra rb s
  | .lshfl et qp rd ra rb => Sys2Proof.Machine.execLshfl et qp rd ra rb s
  | .lbcast et qp rd ra rb => Sys2Proof.Machine.execLbcast et qp rd ra rb s
  | .lrot et qp rd ra rb => Sys2Proof.Machine.execLrot et qp rd ra rb s
  | .lred et op qp rd ra => Sys2Proof.Machine.execLred et op qp rd ra s
  | .lscan et excl op qp rd ra => Sys2Proof.Machine.execLscan et excl op qp rd ra s
  | .vote kind rd ra => Sys2Proof.Machine.execVote kind rd ra s
  | .cvt dst src rm rd ra => Sys2Proof.Machine.execCvt dst src rm rd ra s
  | .vcvt dst src rm part qp rd ra => Sys2Proof.Machine.execVcvt dst src rm part qp rd ra s
  | .vcvtsc dst src rm qp rd ra rb => Sys2Proof.Machine.execVcvtsc dst src rm qp rd ra rb s
  | .vcvtus dst src rm part rd ra => Sys2Proof.Machine.execVcvtus dst src rm part rd ra s
  | .exp2 rd ra => Sys2Proof.Machine.execExp2 rd ra s
  | .exp2V et qp rd ra => Sys2Proof.Machine.execExp2V et qp rd ra s
  | .log2 rd ra => Sys2Proof.Machine.execLog2 rd ra s
  | .log2V et qp rd ra => Sys2Proof.Machine.execLog2V et qp rd ra s
  | .rcp rd ra => Sys2Proof.Machine.execRcp rd ra s
  | .rcpV et qp rd ra => Sys2Proof.Machine.execRcpV et qp rd ra s
  | .rsq rd ra => Sys2Proof.Machine.execRsq rd ra s
  | .rsqV et qp rd ra => Sys2Proof.Machine.execRsqV et qp rd ra s
  | .sin rd ra => Sys2Proof.Machine.execSin rd ra s
  | .sinV et qp rd ra => Sys2Proof.Machine.execSinV et qp rd ra s
  | .cos rd ra => Sys2Proof.Machine.execCos rd ra s
  | .cosV et qp rd ra => Sys2Proof.Machine.execCosV et qp rd ra s
  | .kalu op kd ka kb => Sys2Proof.Machine.execKalu op kd ka kb s
  | .kli kd imm => Sys2Proof.Machine.execKli kd imm s
  | .kget rd ka => Sys2Proof.Machine.execKget rd ka s
  | .kput kd ra => Sys2Proof.Machine.execKput kd ra s
  | .kbr cond ka off => Sys2Proof.Machine.execKbr cond ka off s
  | .qlog op qd qa qb => Sys2Proof.Machine.execQlog op qd qa qb s
  | .qfrom et set qd ra => Sys2Proof.Machine.execQfrom et set qd ra s
  | .qfromS qd ra => Sys2Proof.Machine.execQfromS qd ra s
  | .qto rd qa => Sys2Proof.Machine.execQto rd qa s
  | .fuse f => Sys2Proof.Machine.execFuse f s
  | .split => Sys2Proof.Machine.execSplit s
  | .rejoin => Sys2Proof.Machine.execRejoin s
  | .pcfg d wrap t => Sys2Proof.Machine.execPcfg d wrap t s
  | .pqry rd d => Sys2Proof.Machine.execPqry rd d s
  | .pwaite mask => Sys2Proof.Machine.execPwaite mask s
  | .mma ty sc z mrow acc a b => Sys2Proof.Machine.execMma ty sc z mrow acc a b s
  | .mmas sc z mrow acc slot term2 b => Sys2Proof.Machine.execMmas sc z mrow acc slot term2 b s
  | .mres sc mrow acc slot b => Sys2Proof.Machine.execMres sc mrow acc slot b s
  | .mplan ty loss slot k rb => Sys2Proof.Machine.execMplan ty loss slot k rb s
  | .mplanS ty loss slot ra rb => Sys2Proof.Machine.execMplanS ty loss slot ra rb s
  | .mzacc mrow acc => Sys2Proof.Machine.execMzacc mrow acc s
  | .mldacc mrow acc ra rb => Sys2Proof.Machine.execMldacc mrow acc ra rb s
  | .mstacc ty rm mrow acc ra rb => Sys2Proof.Machine.execMstacc ty rm mrow acc ra rb s
  | .mldob isB n part all ra => Sys2Proof.Machine.execMldob isB n part all ra s
  | .mstat kind slot rd => Sys2Proof.Machine.execMstat kind slot rd s
  | .mscl isB ra => Sys2Proof.Machine.execMscl isB ra s
  | .ktclaim kt ra rb => Sys2Proof.Machine.execKtclaim kt ra rb s
  | .ktfree kt => Sys2Proof.Machine.execKtfree kt s
  | .ktins kt rd ra rb => Sys2Proof.Machine.execKtins kt rd ra rb s
  | .ktprb kt rd ra => Sys2Proof.Machine.execKtprb kt rd ra s
  | .ktdel kt rd ra => Sys2Proof.Machine.execKtdel kt rd ra s
  | .ktacc kt rd ra rb => Sys2Proof.Machine.execKtacc kt rd ra rb s
  | .ktdrn kt clr rd ra => Sys2Proof.Machine.execKtdrn kt clr rd ra s
  | .ktstat kt sel rd => Sys2Proof.Machine.execKtstat kt sel rd s
  | .enq nb rd ra => Sys2Proof.Machine.execEnq nb rd ra s
  | .deq rd ra => Sys2Proof.Machine.execDeq rd ra s
  | .eqry sel rd ra => Sys2Proof.Machine.execEqry sel rd ra s
  | .stginit ra rb => Sys2Proof.Machine.execStginit ra rb s
  | .stgexp ra rb => Sys2Proof.Machine.execStgexp ra rb s
  | .stgarv rd ra rb => Sys2Proof.Machine.execStgarv rd ra rb s
  | .stgwait rd ra rb => Sys2Proof.Machine.execStgwait rd ra rb s
  | .stgtry rd ra rb => Sys2Proof.Machine.execStgtry rd ra rb s
  | .semsig ra rb => Sys2Proof.Machine.execSemsig ra rb s
  | .semwait rd ra rb => Sys2Proof.Machine.execSemwait rd ra rb s
  | .semtry rd ra rb => Sys2Proof.Machine.execSemtry rd ra rb s
  | .send ra rb => Sys2Proof.Machine.execSend ra rb s
  | .recv rd => Sys2Proof.Machine.execRecv rd s
  | .waitmsg => Sys2Proof.Machine.execWaitmsg s
  | .mbqry rd => Sys2Proof.Machine.execMbqry rd s
  | .hbinit ens hb ra rb => Sys2Proof.Machine.execHbinit ens hb ra rb s
  | .hbarv hb rd => Sys2Proof.Machine.execHbarv hb rd s
  | .hbwait hb rd rb => Sys2Proof.Machine.execHbwait hb rd rb s
  | .hbsync hb rd => Sys2Proof.Machine.execHbsync hb rd s
  | .hbinv hb => Sys2Proof.Machine.execHbinv hb s
  | .hbqry hb rd => Sys2Proof.Machine.execHbqry hb rd s
  | .launch rd ra => Sys2Proof.Machine.execLaunch rd ra s
  | .joinwait rd => Sys2Proof.Machine.execJoinwait rd s
  | .depalloc rd ra => Sys2Proof.Machine.execDepalloc rd ra s
  | .depsig ra => Sys2Proof.Machine.execDepsig ra s
  | .depfree rd ra => Sys2Proof.Machine.execDepfree rd ra s
  | .yield => Sys2Proof.Machine.execYield s
  | .exit => Sys2Proof.Machine.execExit s
  | .csrr n rd => Sys2Proof.Machine.execCsrr n rd s
  | .csrw n ra => Sys2Proof.Machine.execCsrw n ra s
  | .trap code => Sys2Proof.Machine.execTrap code s
  | .tret => Sys2Proof.Machine.execTret s
  | .featq cls index rd => Sys2Proof.Machine.execFeatq cls index rd s
  | .brk code => Sys2Proof.Machine.execBrk code s
  | .tlbw ra rb => Sys2Proof.Machine.execTlbw ra rb s
  | .tlbinv ra rb => Sys2Proof.Machine.execTlbinv ra rb s
  | .ctxsv ra => Sys2Proof.Machine.execCtxsv ra s
  | .ctxld ra => Sys2Proof.Machine.execCtxld ra s
  | .clause wait f1 f2 len => Sys2Proof.Machine.execClause wait f1 f2 len s
  | .illegalInstruction w => Sys2Proof.Machine.execIllegalInstruction w s
  | .groupForm wg col base f => Sys2Proof.Machine.execGroupForm wg col base f s
  | .refusion wg t => Sys2Proof.Machine.execRefusion wg t s
  | .lowOccupancySplit wg t => Sys2Proof.Machine.execLowOccupancySplit wg t s
  | .translationWalk cluster entry => Sys2Proof.Machine.execTranslationWalk cluster entry s
  | .faultRecordPost => Sys2Proof.Machine.execFaultRecordPost s
  | .pendingResult wg t r => Sys2Proof.Machine.execPendingResult wg t r s
  | .completionEvent c => Sys2Proof.Machine.execCompletionEvent c s
  | .remoteStoreArrive n => Sys2Proof.Machine.execRemoteStoreArrive n s
  | .remoteStoreAck n => Sys2Proof.Machine.execRemoteStoreAck n s
  | .l1Eviction cluster n => Sys2Proof.Machine.execL1Eviction cluster n s
  | .epochEnd => Sys2Proof.Machine.execEpochEnd s
  | .txAbort wg t => Sys2Proof.Machine.execTxAbort wg t s
  | .matrixQueueStart cluster n => Sys2Proof.Machine.execMatrixQueueStart cluster n s
  | .matrixRetire cluster n => Sys2Proof.Machine.execMatrixRetire cluster n s
  | .portValueArrive wg t d vector => Sys2Proof.Machine.execPortValueArrive wg t d vector s
  | .portCreditArrive wg t d vector => Sys2Proof.Machine.execPortCreditArrive wg t d vector s
  | .messageArrive n => Sys2Proof.Machine.execMessageArrive n s
  | .sendRefusal n => Sys2Proof.Machine.execSendRefusal n s
  | .taskActivate cluster pipe => Sys2Proof.Machine.execTaskActivate cluster pipe s
  | .taskWatchdog wg t => Sys2Proof.Machine.execTaskWatchdog wg t s
  | .waitWatchdog wg t => Sys2Proof.Machine.execWaitWatchdog wg t s
  | .critExpiry wg t => Sys2Proof.Machine.execCritExpiry wg t s
  | .copy cluster n => Sys2Proof.Machine.execCopy cluster n s
  | .copyz cluster n => Sys2Proof.Machine.execCopyz cluster n s
  | .tensor cluster n => Sys2Proof.Machine.execTensor cluster n s
  | .gather cluster n => Sys2Proof.Machine.execGather cluster n s
  | .scatter cluster n => Sys2Proof.Machine.execScatter cluster n s
  | .fillob cluster n => Sys2Proof.Machine.execFillob cluster n s
  | .mcast cluster n => Sys2Proof.Machine.execMcast cluster n s
  | .wopen cluster n => Sys2Proof.Machine.execWopen cluster n s
  | .wclose cluster n => Sys2Proof.Machine.execWclose cluster n s
  | .mcastPacketArrive n => Sys2Proof.Machine.execMcastPacketArrive n s
  | .allred n => Sys2Proof.Machine.execAllred n s
  | .redscat n => Sys2Proof.Machine.execRedscat n s
  | .allgath n => Sys2Proof.Machine.execAllgath n s
  | .bcast n => Sys2Proof.Machine.execBcast n s
  | .collectiveStart gid remote => Sys2Proof.Machine.execCollectiveStart gid remote s
  | .sread n => Sys2Proof.Machine.execSread n s
  | .swrite n => Sys2Proof.Machine.execSwrite n s
  | .sflush n => Sys2Proof.Machine.execSflush n s
  | .storageSubmit q => Sys2Proof.Machine.execStorageSubmit q s
  | .storageCompletion q => Sys2Proof.Machine.execStorageCompletion q s
  | .commandComplete n => Sys2Proof.Machine.execCommandComplete n s
  | .doorbell fn q value => Sys2Proof.Machine.execDoorbell fn q value s
  | .launchQueueTake q => Sys2Proof.Machine.execLaunchQueueTake q s
  | .rangeListStaging launch => Sys2Proof.Machine.execRangeListStaging launch s
  | .dispatchPlace => Sys2Proof.Machine.execDispatchPlace s
  | .levelAging launch => Sys2Proof.Machine.execLevelAging launch s
  | .gatherExpiry launch => Sys2Proof.Machine.execGatherExpiry launch s
  | .joinspinExpiry wg => Sys2Proof.Machine.execJoinspinExpiry wg s
  | .workgroupSave wg => Sys2Proof.Machine.execWorkgroupSave wg s
  | .workgroupRestore unit => Sys2Proof.Machine.execWorkgroupRestore unit s
  | .srseedWrite seed => Sys2Proof.Machine.execSrseedWrite seed s
  | .featsetWrite ctx value => Sys2Proof.Machine.execFeatsetWrite ctx value s
  | .frespRetry ticket => Sys2Proof.Machine.execFrespRetry ticket s
  | .frespKill ticket => Sys2Proof.Machine.execFrespKill ticket s
  | .frespDeliver ticket => Sys2Proof.Machine.execFrespDeliver ticket s
  | .preempt ctx imm hold => Sys2Proof.Machine.execPreempt ctx imm hold s
  | .resume ctx => Sys2Proof.Machine.execResume ctx s
  | .semvalWrite value => Sys2Proof.Machine.execSemvalWrite value s
  | .semvalRead rd => Sys2Proof.Machine.execSemvalRead rd s
  | .depvalWrite value => Sys2Proof.Machine.execDepvalWrite value s
  | .objectVerify o => Sys2Proof.Machine.execObjectVerify o s
  | .regkey => Sys2Proof.Machine.execRegkey s
  | .delkey => Sys2Proof.Machine.execDelkey s
  | .attest => Sys2Proof.Machine.execAttest s
  | .setdev => Sys2Proof.Machine.execSetdev s
  | .bindvf => Sys2Proof.Machine.execBindvf s
  | .pwrcap => Sys2Proof.Machine.execPwrcap s
  | .telem => Sys2Proof.Machine.execTelem s
  | .aperture => Sys2Proof.Machine.execAperture s
  | .mailboxBadcmd => Sys2Proof.Machine.execMailboxBadcmd s
  | .storageQueueTableWrite fn off bytes => Sys2Proof.Machine.execStorageQueueTableWrite fn off bytes s
  | .hostWrite fn target bytes => Sys2Proof.Machine.execHostWrite fn target bytes s
  | .hostRead fn target len => Sys2Proof.Machine.execHostRead fn target len s
  | .hostAtomicop fn target op wide operand compare => Sys2Proof.Machine.execHostAtomicop fn target op wide operand compare s
  | .dataFlit port f => Sys2Proof.Machine.execDataFlit port f s
  | .idleFlit port f => Sys2Proof.Machine.execIdleFlit port f s
  | .nak port f => Sys2Proof.Machine.execNak port f s
  | .audit port f => Sys2Proof.Machine.execAudit port f s
  | .auditDue port => Sys2Proof.Machine.execAuditDue port s
  | .portRetrain port ok => Sys2Proof.Machine.execPortRetrain port ok s
  | .linkRequestTimeout n => Sys2Proof.Machine.execLinkRequestTimeout n s
  | .jointFailure => Sys2Proof.Machine.execJointFailure s
  | .powerOn stages => Sys2Proof.Machine.execPowerOn stages s
  | .moduleReset => Sys2Proof.Machine.execModuleReset s
  | .linkUp port fullWidth => Sys2Proof.Machine.execLinkUp port fullWidth s
  | .softError e => Sys2Proof.Machine.execSoftError e s
  | .arithmeticClockChange khz => Sys2Proof.Machine.execArithmeticClockChange khz s
  | .powerLoss => Sys2Proof.Machine.execPowerLoss s

end Sys2Proof.Machine
end

