-- ==== Sys2Proof/Machine/Issue.lean ====
section
/-!
DEFINITION. The issue of an instruction by a pipe (R19, R20, R22, R44, R49, R50, R71 to R76): which unit a pipe selects, what
happens before its instruction executes, and what an instruction that is not ready leaves.
-/

namespace Sys2Proof.Machine

-- Facts of an instruction that its issue needs.

/-- The scalar or vector register that an instruction writes. -/
def insDst : Instr → Option RegName
  | .add _ rd _ _ | .sub _ rd _ _ | .and _ rd _ _ | .or _ rd _ _ | .xor _ rd _ _ | .sll _ rd _ _ | .srl _ rd _ _
  | .sra _ rd _ _ | .rotl _ rd _ _ | .slt _ rd _ _ | .sltu _ rd _ _ | .min _ rd _ _ | .max _ rd _ _
  | .minu _ rd _ _ | .maxu _ rd _ _ | .mul _ rd _ _ | .mulh _ rd _ _ | .mulhu _ rd _ _ | .div _ rd _ _
  | .divu _ rd _ _ | .rem _ rd _ _ | .remu _ rd _ _ | .clz _ rd _ | .ctz _ rd _ | .popc _ rd _ | .addi rd _ _
  | .andi rd _ _ | .ori rd _ _ | .xori rd _ _ | .slti rd _ _ | .sltiu rd _ _ | .slli _ rd _ _ | .srli _ rd _ _
  | .srai _ rd _ _ | .lui rd _ | .auipc rd _ | .jal rd _ | .jalr rd _ _ | .lb _ rd _ _ | .lh _ rd _ _
  | .lw _ rd _ _ | .ld _ rd _ _ | .lbu _ rd _ _ | .lhu _ rd _ _ | .lwu _ rd _ _ | .amoadd _ _ _ rd _ _
  | .amoand _ _ _ rd _ _ | .amoor _ _ _ rd _ _ | .amoxor _ _ _ rd _ _ | .amomin _ _ _ rd _ _
  | .amomax _ _ _ rd _ _ | .amominu _ _ _ rd _ _ | .amomaxu _ _ _ rd _ _ | .amoswap _ _ _ rd _ _
  | .amofadd _ _ _ rd _ _ | .amocas _ _ _ rd _ _ | .ldaq _ _ rd _ | .txbegin rd | .txstat rd | .fadd _ _ rd _ _
  | .fsub _ _ rd _ _ | .fmul _ _ rd _ _ | .fdiv _ _ rd _ _ | .fsqrt _ _ rd _ | .fmin _ rd _ _ | .fmax _ rd _ _
  | .fsgn _ _ rd _ _ | .fcmp _ _ rd _ _ | .fclass _ rd _ | .fma _ _ _ _ rd _ _ _ | .vext _ rd _ _
  | .vred _ _ _ rd _ | .vote _ rd _ | .cvt _ _ _ rd _ | .exp2 rd _ | .log2 rd _ | .rcp rd _ | .rsq rd _
  | .sin rd _ | .cos rd _ | .kget rd _ | .qto rd _ | .pqry rd _ | .mstat _ _ rd | .ktins _ rd _ _ | .ktprb _ rd _
  | .ktdel _ rd _ | .ktacc _ rd _ _ | .ktdrn _ _ rd _ | .ktstat _ _ rd | .enq _ rd _ | .deq rd _ | .eqry _ rd _
  | .stgarv rd _ _ | .stgwait rd _ _ | .stgtry rd _ _ | .semwait rd _ _ | .semtry rd _ _ | .recv rd | .mbqry rd
  | .hbarv _ rd | .hbwait _ rd _ | .hbsync _ rd | .hbqry _ rd | .launch rd _ | .joinwait rd | .depalloc rd _
  | .depfree rd _ | .csrr _ rd | .featq _ _ rd => some (.s rd)
  | .vadd _ _ rd _ _ | .vsub _ _ rd _ _ | .vmul _ _ rd _ _ | .vmin _ _ rd _ _ | .vmax _ _ rd _ _
  | .vlog _ _ rd _ _ | .vsh _ _ rd _ _ | .vfadd _ _ rd _ _ | .vfsub _ _ rd _ _ | .vfmul _ _ rd _ _
  | .vfmin _ _ rd _ _ | .vfmax _ _ rd _ _ | .vfcmp _ _ rd _ _ | .vcmp _ _ rd _ _ | .vfma _ _ _ _ rd _ _ _
  | .vsel _ _ rd _ _ | .vsplat _ _ rd _ | .vins _ rd _ _ | .vperm _ _ rd _ _ | .vdot _ _ rd _ _ | .vld _ _ rd _ _
  | .vlds _ _ rd _ _ | .vgath _ _ rd _ _ | .lshfl _ _ rd _ _ | .lbcast _ _ rd _ _ | .lrot _ _ rd _ _
  | .lred _ _ _ rd _ | .lscan _ _ _ _ rd _ | .vcvt _ _ _ _ _ rd _ | .vcvtsc _ _ _ _ rd _ _ | .vcvtus _ _ _ _ rd _
  | .exp2V _ _ rd _ | .log2V _ _ rd _ | .rcpV _ _ rd _ | .rsqV _ _ rd _ | .sinV _ _ rd _ | .cosV _ _ rd _ => some (.v rd)
  | .beq _ _ _ | .bne _ _ _ | .blt _ _ _ | .bge _ _ _ | .bltu _ _ _ | .bgeu _ _ _ | .jpt _ | .sb _ _ _ _
  | .sh _ _ _ _ | .sw _ _ _ _ | .sd _ _ _ _ | .strl _ _ _ _ | .fence _ _ _ _ | .ifence | .waitf _ | .txend
  | .txabort _ | .acqh | .relh | .vst _ _ _ _ _ | .vscat _ _ _ _ _ | .kalu _ _ _ _ | .kli _ _ | .kput _ _
  | .kbr _ _ _ | .qlog _ _ _ _ | .qfrom _ _ _ _ | .qfromS _ _ | .fuse _ | .split | .rejoin | .pcfg _ _ _
  | .pwaite _ | .mma _ _ _ _ _ _ _ | .mmas _ _ _ _ _ _ _ | .mres _ _ _ _ _ | .mplan _ _ _ _ _ | .mplanS _ _ _ _ _
  | .mzacc _ _ | .mldacc _ _ _ _ | .mstacc _ _ _ _ _ _ | .mldob _ _ _ _ _ | .mscl _ _ | .ktclaim _ _ _ | .ktfree _
  | .stginit _ _ | .stgexp _ _ | .semsig _ _ | .send _ _ | .waitmsg | .hbinit _ _ _ _ | .hbinv _ | .depsig _
  | .yield | .exit | .csrw _ _ | .trap _ | .tret | .brk _ | .tlbw _ _ | .tlbinv _ _ | .ctxsv _ | .ctxld _
  | .clause _ _ _ _ | .illegalInstruction _ | .groupForm _ _ _ _ | .refusion _ _ | .lowOccupancySplit _ _
  | .translationWalk _ _ | .faultRecordPost | .pendingResult _ _ _ | .completionEvent _ | .remoteStoreArrive _
  | .remoteStoreAck _ | .l1Eviction _ _ | .epochEnd | .txAbort _ _ | .matrixQueueStart _ _ | .matrixRetire _ _
  | .portValueArrive _ _ _ _ | .portCreditArrive _ _ _ _ | .messageArrive _ | .sendRefusal _ | .taskActivate _ _
  | .taskWatchdog _ _ | .waitWatchdog _ _ | .critExpiry _ _ | .copy _ _ | .copyz _ _ | .tensor _ _ | .gather _ _
  | .scatter _ _ | .fillob _ _ | .mcast _ _ | .wopen _ _ | .wclose _ _ | .mcastPacketArrive _ | .allred _
  | .redscat _ | .allgath _ | .bcast _ | .collectiveStart _ _ | .sread _ | .swrite _ | .sflush _
  | .storageSubmit _ | .storageCompletion _ | .commandComplete _ | .doorbell _ _ _ | .launchQueueTake _
  | .rangeListStaging _ | .dispatchPlace | .levelAging _ | .gatherExpiry _ | .joinspinExpiry _ | .workgroupSave _
  | .workgroupRestore _ | .srseedWrite _ | .featsetWrite _ _ | .frespRetry _ | .frespKill _ | .frespDeliver _
  | .preempt _ _ _ | .resume _ | .semvalWrite _ | .semvalRead _ | .depvalWrite _ | .objectVerify _ | .regkey
  | .delkey | .attest | .setdev | .bindvf | .pwrcap | .telem | .aperture | .mailboxBadcmd
  | .storageQueueTableWrite _ _ _ | .hostWrite _ _ _ | .hostRead _ _ _ | .hostAtomicop _ _ _ _ _ _ | .dataFlit _ _
  | .idleFlit _ _ | .nak _ _ | .audit _ _ | .auditDue _ | .portRetrain _ _ | .linkRequestTimeout _ | .jointFailure
  | .powerOn _ | .moduleReset | .linkUp _ _ | .softError _ | .arithmeticClockChange _ | .powerLoss => none

/-- The flag-bearing instructions (R72). -/
def bearsFlag (i : Instr) : Bool :=
  match i with
  | .sb _ _ _ _ | .sh _ _ _ _ | .sw _ _ _ _ | .sd _ _ _ _ | .vst _ _ _ _ _ | .vscat _ _ _ _ _ | .strl _ _ _ _
  | .enq _ _ _ | .send _ _ | .ktdrn _ _ _ _ | .mma _ _ _ _ _ _ _ | .mmas _ _ _ _ _ _ _ | .mres _ _ _ _ _
  | .mzacc _ _ | .mldacc _ _ _ _ | .mldob _ _ _ _ _ | .mscl _ _ | .mstacc _ _ _ _ _ _ => true
  | i => ((insDst i).bind portOf).isSome

/-- Instructions that may stand only last in a clause (R73, R144). -/
def endsClause (i : Instr) : Bool :=
  match i with
  | .beq _ _ _ | .bne _ _ _ | .blt _ _ _ | .bge _ _ _ | .bltu _ _ _ | .bgeu _ _ _ | .jal _ _ | .jalr _ _ _ | .jpt _
  | .kbr _ _ _ | .tret | .exit | .yield | .clause _ _ _ _ => true
  | _ => false

-- Fetch (R265, R303, R375).

/-- What a fetch gives. -/
inductive Fetch where
  | word (s : State) (w : Insn)
  | trap (cause : Nat)
  | wait (s : State)

/-- The word at a unit's PC: through the cluster's instruction cache, else from its home, which fills the cache and is a
read of the line (R296). A home on a peer device that no link reaches makes the fetch wait, and trap 0x0A when its time
has passed (R415). -/
def State.fetch (s : State) (x : Issuer) : Fetch :=
  match s.probe x.w x.lead x.u.sh.priv .fetch x.pc 4 with
  | .trap c => .trap c
  | .remote _ _ => .trap 8
  | .park => .trap 7
  | .miss => .wait (s.joinMiss x.w x.lead 7 x.pc)
  | .ok (.sram _ _) _ => .trap 8
  | .ok (.mem sp pa nc) e =>
    let key := outsideKey sp pa
    match (s.cl x.cl).icache.find? fun k => k.1 == key with
    | some k => .word s k.2
    | none =>
      if s.farLoc (.mem sp pa nc) then
        match s.linkWait x [⟨x.lead, x.pc, 4⟩] with
        | .stop s' => .wait s'
        | .traps _ => .trap 10
        | .go _ => .wait s
      else match s.memFail sp pa 4 with
      | some (_, c) => .trap c
      | none =>
        let w : Insn := BitVec.ofNat 32 (leNat (s.homeBytes sp pa 4))
        .word ((((s.meet x (.mem sp pa nc) false).homeSeen (clDie x.cl) sp pa).noteTlb x.cl (pipeOf x.lead) e).modCl x.cl fun cl =>
          { cl with icache := (key, w) :: cl.icache }) w

-- Before the instruction.

/-- Whether a unit issues nothing now: it has arrived at a FUSE (R41), it is parked (R387) or killed (R392), it waits at
its rejoin PC (R50), or its workgroup is being saved (R394). -/
def State.heldBack (s : State) (x : Issuer) : Bool :=
  (!x.isTask && s.saving x.w) ||
    (x.live.any fun t => (x.w.thr t).arrival.isSome || (x.w.thr t).park.isSome || (x.w.thr t).dying ||
      (x.w.thr t).exited) ||
    match x.grp, (x.w.thr x.id.t).rejoin with
    | none, some r => x.pc = r.pc
    | none, none => false
    | some _, _ => false

/-- R44, before each instruction issues. A parked side's PC is not reached through a clause's header (R74). Where lanes
rejoin without a change of the PC the run goes on, for them too: a choice of the model, since R74 does not name it (log
entry 104). -/
def State.reconverged (s : State) (x : Issuer) : State :=
  match x.grp with
  | none => s
  | some g =>
    let g' := Group.reconverge 9 g
    s.modG x fun _ => if g'.u.pc = g.u.pc then g' else { g' with u := { g'.u with clause := none } }

/-- The low-occupancy count of an instruction that issues (R49). -/
def Group.noteLow (g : Group) : Group :=
  { g with low := if 4 * (g.lanesOf g.active).length ≤ laneCount g.f then g.low + 1 else 0 }

/-- The claused run after one of its words (R71, R72). -/
def ClauseRun.next (c : ClauseRun) (bears : Bool) : Option ClauseRun :=
  if c.left ≤ 1 then none else some { left := c.left - 1, flags := if bears then c.flags.tail else c.flags }

/-- The instruction that a word issues: ILLEGAL_INSTRUCTION where it encodes none (R65), or may not stand at its place
of a clause (R73). -/
def issued (u : UState) (w : Insn) : Instr :=
  let i := match decode w with
    | .ok i => i
    | .error _ => .illegalInstruction w
  match u.clause with
  | some c => if 1 < c.left && endsClause i then .illegalInstruction w else i
  | none => i

/-- The flag that an instruction is assigned in its clause (R72). -/
def flagFor (u : UState) (i : Instr) : Option Nat :=
  u.clause.bind fun c => if bearsFlag i then c.flags.headD none else none

/-- What a unit's turn finds: it is not ready; something happens in place of its next instruction; or the instruction
is to execute. -/
inductive Ready where
  | idle (s : State)
  | done (s : State)
  | run (i : Instr) (s : State)

/-- The timed wait that an instruction is in while it is not ready (R347, R365). -/
def waitOf (i : Instr) : Wait :=
  match i with
  | .recv _ | .deq _ _ | .waitmsg | .stgwait _ _ _ | .hbwait _ _ _ | .hbsync _ _ | .semwait _ _ _ => .watched
  | .joinwait _ => .join
  | _ => .none

/-- An instruction is found not ready: in a timed wait its unit waits on. -/
def State.noteWait (s : State) (i : UnitId) (ins : Instr) : State :=
  if waitOf ins = .none then s else s.modUnit i.wg i.t fun u => u.wait (waitOf ins) s.clock

/-- The word that was fetched is to issue: the clause, the flag and the low-occupancy count (R49, R72). It stalls while
its flag's count is 63, an ENQ.NB too that would return BUSY and assign nothing: a choice of the model, since R72 does
not say which comes first (log entry 107). -/
def State.ready (s : State) (x : Issuer) (w : Insn) : Ready :=
  let i := issued x.u w
  let fl := flagFor x.u i
  let full := match fl with
    | some cf => x.active.any fun t => mget 0 (x.w.thr t).cf cf = 63
    | none => false
  if full then .idle (s.noteWait x.id i)
  else
    let s := s.modU x fun u => { u with clause := u.clause.bind fun c => c.next (bearsFlag i) }
    let s := s.modG x Group.noteLow
    .run i { s with curFlag := fl }

/-- The turn of the current unit. R44's rule comes before a low-occupancy split that is due (R49), which is the model's
order: the spec gives none (log entry 84). A fetch trap of a group leaves a record at PC + 4, as if the word were no jump:
no rule says which it is, since the word is not known (R48, log entry 37). -/
def State.prepare (s : State) : Ready :=
  match s.issuer? with
  | none => .idle s
  | some x0 =>
    if s.heldBack x0 then .idle s
    else match x0.u.tx.bind (·.doomed) with
      | some st => .done (s.txAbort x0.id.wg x0.id.t st)
      | none =>
        let s := s.reconverged x0
        match s.issuer? with
        | none => .idle s
        | some x =>
          if match x.grp with
            | some g => g.lowSplit
            | none => false
          then .done (s.autoSplit x fun _ => x.pc)
          else match s.fetch x with
            | .trap c => .done (s.trapAll x c x.pc)
            | .wait s' => .idle s'
            | .word s' w => s'.ready x w

/-- An instruction that was not ready leaves its unit's clause and low-occupancy count as they were; where R44's rule
has moved the PC to another side before it, the run that was left is over (R74). -/
def State.unissue (s old : State) (i : UnitId) (ins : Instr) : State :=
  match old.wg? i.wg with
  | none => s
  | some w =>
    let s := (s.noteWait i ins).modUnit i.wg i.t fun u =>
      { u with clause := if u.pc = (w.ust i.t).pc then (w.ust i.t).clause else none }
    match w.groupOf i.t with
    | none => s
    | some g => s.modWg i.wg fun w => w.modGroup g.t0 fun h => { h with low := g.low }

/-- One turn of a unit. `stalled` says that it was not ready. -/
def State.issue (s : State) (i : UnitId) : Host.Outcome State Fault Refusal :=
  let s := { s with cur := some i, stalled := false, curFlag := none }
  match s.prepare with
  | .idle s' => .next { s' with stalled := true }
  | .done s' => .next { s' with stalled := false }
  | .run ins s' =>
    match exec ins s' with
    | .next s'' => .next (if s''.stalled then s''.unissue s i ins else s'')
    | .fault r => .fault r
    | .refused r => .refused r

-- Selection (R20, R371).

/-- The unit that issues from a slot of a pipe: a split thread, a task, or a group whose lowest pipe it is (R20). -/
def Workgroup.unitAt (w : Workgroup) (slot p : Nat) : Option Nat :=
  match w.cols.findIdx? (· == slot) with
  | none => none
  | some j =>
    let own := w.cfg.threads / 32
    let t := if j < own then 32 * j + p else 128 + 32 * (j - own) + p
    match w.groupOf t with
    | some g => if g.base = p then some t else none
    | none => if (mfind w.threads t).isSome && !(w.thr t).exited then some t else none

/-- The unit in a slot. -/
def State.slotUnit (s : State) (c p slot : Nat) : Option UnitId :=
  (s.wgs.filter fun w => w.cluster == c).findSome? fun w => (w.unitAt slot p).map fun t => ⟨w.id, t⟩

/-- The unit whose slot in a pipe this is, a group in every pipe of its span (R20). -/
def State.slotHolds (s : State) (c p slot : Nat) : Option UnitId :=
  (s.wgs.filter fun w => w.cluster == c).findSome? fun w =>
    match w.groups.find? fun g => g.base ≤ p && p < g.base + laneCount g.f && w.cols[g.col]? == some slot with
    | some g => some ⟨w.id, g.t0⟩
    | none => (w.unitAt slot p).map fun t => ⟨w.id, t⟩

/-- A candidate of a pipe: its slot, its unit, whether it is critical, and whether it gives way to others: a unit that
yielded (R371), or a group that issued on the clock before (R20). -/
structure Cand where
  slot : Nat
  id : UnitId
  crit : Bool
  waits : Bool
  deriving DecidableEq, Repr

/-- The slots of a pipe in round-robin order. -/
def slotOrder (last : Option Nat) : List Nat :=
  match last with
  | none => [0, 1, 2, 3]
  | some k => (List.range 4).map fun i => (k + 1 + i) % 4

/-- The candidate in a slot of a pipe. -/
def State.candAt (s : State) (c p k : Nat) : Option Cand :=
  (s.slotUnit c p k).map fun i =>
    let w := s.wg? i.wg
    let u := (w.map fun w => w.ust i.t).getD {}
    let grp := (w.bind fun w => w.groupOf i.t).isSome
    { slot := k, id := i, crit := u.sh.crit.isSome
      waits := u.yieldLeft ≠ 0 || (grp && (mget {} (s.cl c).pipes p).prev = some k) }

/-- The candidates of a pipe in the order in which R20 prefers them. Critical slots and the others have each a
round-robin place of their own, without which R21's 64 clocks could not hold (log entry 9). -/
def State.candidates (s : State) (c p : Nat) : List Cand :=
  let sel := mget {} (s.cl c).pipes p
  let a := ((slotOrder sel.lastCrit).filterMap (s.candAt c p)).filter (·.crit)
  let b := ((slotOrder sel.last).filterMap (s.candAt c p)).filter fun k => !k.crit
  if sel.critRun < 7 then a ++ b else b ++ a

/-- The pipes of a unit: of a group, every pipe of its span. -/
def State.pipesOf (s : State) (i : UnitId) : List Nat :=
  match (s.wg? i.wg).bind fun w => w.groupOf i.t with
  | some g => (List.range (laneCount g.f)).map (g.base + ·)
  | none => [pipeOf i.t]

/-- Whether a unit is ready: its turn does more than wait. -/
def State.unitReady (s : State) (i : UnitId) : Bool :=
  match s.issue i with
  | .next s' => !s'.stalled
  | .fault _ | .refused _ => false

/-- Whether another slot is ready in some pipe of a candidate's unit (R20 rule 4, R371). -/
def State.othersReady (s : State) (c : Nat) (k : Cand) : Bool :=
  (s.pipesOf k.id).any fun p => (List.range 4).any fun slot =>
    slot ≠ k.slot && match s.slotHolds c p slot with
      | some i => s.unitReady i
      | none => false

/-- Whether a pipe has had its selection of this clock. -/
def State.pipeUsed (s : State) (c p : Nat) : Bool := (mget {} (s.cl c).pipes p).at' = some s.clock

/-- Whether a pipe has had this clock, with a selection or without. -/
def State.pipeDone (s : State) (c p : Nat) : Bool := (mget {} (s.cl c).pipes p).seen = some s.clock

-- The bounds of R21. R20's rules alone do not keep them where groups share pipes: two groups that issue by turns would
-- take every clock of a pipe in which a split thread is ready. Where R21's bound would be broken otherwise, a ready unit
-- comes before all others of its pipes, the unit that has waited longest first (log entry 9).

/-- Whether a pipe hosts a group in some slot (R21). -/
def State.hostsGroup (s : State) (c p : Nat) : Bool :=
  s.wgs.any fun w => w.cluster == c && w.groups.any fun g => g.base ≤ p && p < g.base + laneCount g.f

/-- The clocks for which R21 lets a ready unit be passed over, of its 8, or of its 64 where another slot of its pipes is
critical, less one: two units of common pipes that come to their ends together need a clock each (log entry 9). -/
def State.patience (s : State) (c : Nat) (i : UnitId) : Nat :=
  let crit := fun (j : UnitId) => j ≠ i && (s.wg? j.wg).any fun w => (w.ust j.t).sh.crit.isSome
  if (s.pipesOf i).any fun p => (List.range 4).any fun slot => (s.slotHolds c p slot).any crit then 62 else 6

/-- A unit that its pipes have passed over nearly as long as R21 lets them: since which clock, and whether not a clock
is left. -/
structure Late where
  since : Nat
  id : UnitId
  last : Bool
  deriving DecidableEq, Repr

/-- Insert a unit by the clock from which it has been passed over. -/
def insertLate (a : Late) : List Late → List Late
  | [] => [a]
  | b :: l => if a.since < b.since then a :: b :: l else b :: insertLate a l

/-- The units of a cluster that come before all others of their pipes, no two of which share a pipe: those with no clock
left, and those with one left that share a pipe with another late one. -/
def State.overdue (s : State) (c : Nat) : List UnitId :=
  let late := (s.wgs.filter fun w => w.cluster == c).flatMap fun w => w.unitIds.filterMap fun t =>
    (w.ust t).passed.bind fun y =>
      let n := s.patience c ⟨w.id, t⟩
      if n ≤ y.2 && s.unitReady ⟨w.id, t⟩ then some (⟨y.1, ⟨w.id, t⟩, n < y.2⟩ : Late) else none
  let meets := fun (y z : Late) => y.id ≠ z.id && (s.pipesOf y.id).any fun p => (s.pipesOf z.id).contains p
  let due := late.filter fun y => y.last || late.any (meets y)
  (due.foldl (fun l a => insertLate a l) []).foldl (fun acc y =>
    let free := fun (p : Nat) => !s.pipeUsed c p && !(acc.flatMap s.pipesOf).contains p
    if (s.pipesOf y.id).all free then acc ++ [y.id] else acc) []

/-- A unit's count of the clocks on which it was ready and its pipe passed it over, with the first of them. -/
def UState.passOver (u : UState) (clock : Nat) (ready : Bool) : UState :=
  { u with passed := if !ready || u.yieldLeft ≠ 0 then none
                     else some (match u.passed with
                       | some y => (y.1, y.2 + 1)
                       | none => (clock, 1)) }

/-- The end of a pipe's clock, which began in `old`, with the slot that the pipe itself selected: where it hosts a group,
its ready units that were not selected have been passed over once more (R21). -/
def State.passTick (s old : State) (c p : Nat) (sel : Option Nat) : State :=
  let s := s.modCl c fun cl => { cl with pipes := mput cl.pipes p { mget {} cl.pipes p with seen := some s.clock } }
  let hosts := old.hostsGroup c p
  (List.range 4).foldl (fun s slot => match old.slotUnit c p slot with
    | none => s
    | some i =>
      if !hosts && (s.wg? i.wg).all fun w => (w.ust i.t).passed.isNone then s
      else s.modUnit i.wg i.t fun u => u.passOver s.clock (hosts && sel ≠ some slot && old.unitReady i)) s

/-- A yielded unit's clocks run (R371). -/
def State.yieldTick (s : State) (ks : List Cand) : State :=
  ks.foldl (fun s k =>
    if k.waits then s.modUnit k.id.wg k.id.t fun u => { u with yieldLeft := u.yieldLeft - 1 } else s) s

/-- A pipe's selection on a clock: that of its own, or the issue of a group of which it is a member pipe (R20 rule 3). -/
def PipeSel.take (sel : PipeSel) (clock : Nat) (k : Cand) : PipeSel :=
  { sel with
    last := if k.crit then sel.last else some k.slot
    lastCrit := if k.crit then some k.slot else sel.lastCrit
    critRun := if k.crit then sel.critRun + 1 else 0
    prev := some k.slot, at' := some clock }

/-- Pipe `p` has selected a candidate in `old`, which for a group is the selection of every member pipe (R20), whose
clock it is too (R371) unless the pipe has had this clock without a selection. -/
def State.selected (s old : State) (c p : Nat) (ps : List Nat) (k : Cand) : State :=
  ps.foldl (fun s q =>
    let s := if q = p then s.passTick old c q (some k.slot)
      else if s.pipeDone c q then s
      else (s.yieldTick (s.candidates c q)).passTick old c q none
    s.modCl c fun cl => { cl with pipes := mput cl.pipes q ((mget {} cl.pipes q).take s.clock k) }) s

/-- No slot was ready, or one that was gave way. -/
def State.unselected (s old : State) (c p : Nat) : State :=
  (s.passTick old c p none).modCl c fun cl =>
    { cl with pipes := mput cl.pipes p { mget {} cl.pipes p with critRun := 0, prev := none } }

/-- Try candidates in order; the first that is ready issues. -/
def State.tryAll (old : State) (c p : Nat) : List Cand → State → Host.Outcome State Fault Refusal
  | [], s => .next (s.unselected old c p)
  | k :: ks, s =>
    match s.issue k.id with
    | .next s' =>
      if s'.stalled then State.tryAll old c p ks s' else .next (s'.selected old c p (s.pipesOf k.id) k)
    | .fault r => .fault r
    | .refused r => .refused r

/-- The candidates that are selectable: one whose pipes all have their selection of this clock still to make, that holds
back no unit that comes before all others (R21), and, where it gives way, only when no other slot of its pipes is
ready. -/
def State.selectable (s : State) (c : Nat) (ks : List Cand) : List Cand :=
  let due := s.overdue c
  let held := due.flatMap s.pipesOf
  ks.filter fun k => (s.pipesOf k.id).all (!s.pipeUsed c ·) &&
    (due.contains k.id || ((s.pipesOf k.id).all (!held.contains ·) && (!k.waits || !s.othersReady c k)))

/-- The candidate that a pipe selects: the first selectable one that is ready. -/
def State.choice (s : State) (c p : Nat) : Option Cand :=
  let ks := s.candidates c p
  let s := s.yieldTick ks
  (s.selectable c ks).find? fun k => s.unitReady k.id

/-- The pipe whose selection is a pipe's selection of this clock (R20 rule 3): the lowest pipe of a group that spans it,
where that pipe has not had this clock and selects the group; else the pipe itself. -/
def State.leadPipe (s : State) (c p : Nat) : Nat :=
  let leads := fun (q : Nat) => q < p &&
    (s.wgs.any fun w => w.cluster == c && w.groups.any fun g => g.base = q && p < g.base + laneCount g.f) &&
    !s.pipeUsed c q && !s.pipeDone c q && (s.choice c q).any fun k => (s.pipesOf k.id).contains p
  ([0, 8, 16, 24].find? leads).getD p

/-- A pipe selects. -/
def State.select (s : State) (c p : Nat) : Host.Outcome State Fault Refusal :=
  let ks := s.candidates c p
  let s := s.yieldTick ks
  State.tryAll s c p (s.selectable c ks) s

/-- One issue clock of a pipe, unless it has already had this clock, itself or as a pipe of a group that issued. Where a
group issues in it, the turn is that of the group's lowest pipe (R20 rule 3). -/
def State.pipeTurn (s : State) (c p : Nat) : Host.Outcome State Fault Refusal :=
  if s.pipeUsed c p || s.pipeDone c p then .next s else s.select c (s.leadPipe c p)

end Sys2Proof.Machine
end

