-- ==== Sys2Proof/Machine/Policy.lean ====
section
/-!
DEFINITION. What moves in a step when the agenda names nothing: the device's own events and its pipes in turn. The order is
the model's choice among the orders that the spec allows; the agenda can name any other.
-/

namespace Sys2Proof.Machine

/-- Instruction words, and events that act for the thread whose instruction is executing. -/
def ofUnit (i : Instr) : Bool :=
  (encode i).isSome || match i with
    | .illegalInstruction _ | .srseedWrite _ | .semvalRead _ => true
    | _ => false

/-- What a device that has stopped still does (R408, R416): reset, power-on, and the mailbox's answer. -/
def whenStopped (a : Agent) : Bool :=
  match a with
  | .event .moduleReset | .event (.powerOn _) | .event (.hostRead _ (.bar0 _) _) => true
  | _ => false

/-- One agent moves. An event that names no unit's instruction has its meaning; another one has no unit to act for. What a
peer device asks of this one's memory is answered by a data flit of channel 1 (R410, R413). -/
def State.act (s : State) (a : Agent) : Host.Outcome State Fault Refusal :=
  if s.stopped && !whenStopped a then .next s
  else match a with
    | .pipe c p => s.pipeTurn c p
    | .event i => if ofUnit i then .next s else exec i s
    | .outside sp addr bytes => .next (
        if sp ≠ .dev then s.outsideWrite sp addr bytes
        else if addr + bytes.length ≤ Config.devBytes then s.homeWrite .dev addr bytes else s)
    | .peerWrite addr bytes => .next (
        if s.linkUp && addr + bytes.length ≤ Config.devBytes then (s.homeWrite .dev addr bytes).sendData 1 else s)
    | .peerRead addr n => .next (
        if s.linkUp && addr + n ≤ Config.devBytes then
          (s.homeSeenAll 8 addr n).sendData 1
        else s)
    | .peerFail d addr ecc => .next { s with
        peerBad := mput s.peerBad (outsideKey (.peer d) (32 * (addr / 32)) / 32) (if ecc then 10 else 9) }
    | .bring m => .next { s with incoming := (s.incoming.filter fun k => k.ctx ≠ m.ctx) ++ [m] }

-- The device's own events.

/-- What an event does. -/
abbrev Move := State → Host.Outcome State Fault Refusal

/-- The event that runs an accepted command (R307). -/
def engEvent (e : EngCmd) : Move :=
  match e.cmd.op with
  | 0x01 => execCopy e.cluster e.id
  | 0x02 => execCopyz e.cluster e.id
  | 0x03 => execTensor e.cluster e.id
  | 0x04 => execGather e.cluster e.id
  | 0x05 => execScatter e.cluster e.id
  | 0x06 => execFillob e.cluster e.id
  | 0x07 => execMcast e.cluster e.id
  | 0x08 => execWopen e.cluster e.id
  | 0x09 => execWclose e.cluster e.id
  | 0x10 => execAllred e.id
  | 0x11 => execRedscat e.id
  | 0x12 => execAllgath e.id
  | 0x13 => execBcast e.id
  | 0x20 => execSread e.id
  | 0x21 => execSwrite e.id
  | _ => execSflush e.id

/-- Events of a thread. -/
def threadEvents (w : Workgroup) (t : Nat) (th : Thread) : List Move :=
  let port := [Dir.n, .e, .s, .w].flatMap fun d => [false, true].flatMap fun v =>
    let p := th.ports.get d
    (if (if v then p.outV.isSome else p.outS.isSome) then [execPortValueArrive w.id t d v] else []) ++
      (if (if v then p.retV else p.retS) ≠ 0 then [execPortCreditArrive w.id t d v] else [])
  (if th.storeFlags.isEmpty then [] else [execCompletionEvent (.storeDone w.id t)]) ++
    (if th.fifo.isEmpty then [] else [execCompletionEvent (.accept w.id t)]) ++
    th.busy.map (execPendingResult w.id t) ++ port ++ (if th.rejoin.isSome then [execRefusion w.id t] else []) ++
    (match th.arrival with
      | some f => [execGroupForm w.id (t / 32) (spanBase f (pipeOf t)) f]
      | none => []) ++
    (if th.task.isSome then [execTaskWatchdog w.id t] else [])

/-- Events of an issuing unit. -/
def unitEvents (w : Workgroup) (t : Nat) : List Move :=
  let u := w.ust t
  (if u.waiting = .watched then [execWaitWatchdog w.id t] else []) ++
    (if u.sh.crit.isSome then [execCritExpiry w.id t] else []) ++ (if u.tx.isSome then [execTxAbort w.id t] else [])

/-- Events of a cluster. -/
def clusterEvents (c : Nat) (cl : Cluster) : List Move :=
  (List.range cl.merge.length).map (execTranslationWalk c) ++
    (List.range cl.mq.length).flatMap (fun n => [execMatrixQueueStart c n, execMatrixRetire c n]) ++
    (cl.runq.map fun e => execTaskActivate c e.pipe)

/-- The device's own events that may be due. -/
def State.events (s : State) : List Move :=
  (s.wgs.flatMap fun w => (w.threads.flatMap fun e => threadEvents w e.1 e.2) ++ w.unitIds.flatMap (unitEvents w) ++
    [execJoinspinExpiry w.id, execWorkgroupSave w.id]) ++
  (s.clusters.flatMap fun c => clusterEvents c.1 c.2) ++
  (s.remote.flatMap fun r => [execRemoteStoreArrive r.id, execRemoteStoreAck r.id]) ++
  (s.flights.flatMap fun m => [execMessageArrive m.id, execSendRefusal m.id]) ++
  (s.packets.map fun p => execMcastPacketArrive p.id) ++
  (s.cmds.flatMap fun e => [engEvent e, execCommandComplete e.id] ++ match e.coll with
    | some k => [execCollectiveStart k.gid [], execLinkRequestTimeout e.id]
    | none => if e.unjoined then [execLinkRequestTimeout e.id] else []) ++
  ((s.sqRun.map fun q => q.1 % 256).eraseDups.flatMap fun q => [execStorageSubmit q, execStorageCompletion q]) ++
  (s.linkReqs.map fun q => execLinkRequestTimeout q.id) ++ (s.links.map fun p => execAuditDue p.1) ++
  (s.queues.map fun q => execLaunchQueueTake q.1) ++
  (s.launches.flatMap fun l => [execRangeListStaging l.id, execGatherExpiry l.id]) ++
  (s.saved.map fun u => execWorkgroupRestore u.id) ++ (if s.launches.isEmpty then [] else [execDispatchPlace]) ++
  (if s.faults.isEmpty then [] else [execFaultRecordPost]) ++ (if s.pages.isEmpty then [] else [execEpochEnd]) ++
  (if s.host.busy then [execRegkey, execDelkey, execAttest, execSetdev, execBindvf, execPwrcap, execTelem, execAperture,
    execMailboxBadcmd] else [])

/-- Whether an event changes anything now. -/
def State.due (s : State) (m : Move) : Bool :=
  match m s with
  | .next s' => s' ≠ s
  | .fault _ | .refused _ => false

/-- The pipes that hold an issuing unit, by cluster and number. -/
def State.livePipes (s : State) : List (Nat × Nat) :=
  s.wgs.flatMap fun w => w.unitIds.map fun t => (w.cluster, pipeOf t)

/-- A list from a place on, then its start. -/
def rotate {α : Type} (l : List α) (n : Nat) : List α :=
  if l.isEmpty then l else l.drop (n % l.length) ++ l.take (n % l.length)

/-- Turn `n` of a device whose agenda names nothing: on even turns an event that is due, on odd turns a pipe. -/
def State.defaultMove (s : State) (n : Nat) : Host.Outcome State Fault Refusal :=
  let pipe := match (rotate s.livePipes (n / 2)).head? with
    | some (c, p) => s.pipeTurn c p
    | none => .next s
  if s.stopped then .next s
  else if n % 2 = 1 then pipe
  else match (rotate s.events (n / 2)).find? s.due with
    | some m => m s
    | none => pipe

/-- The end of a step: time passes, and no instruction is executing. -/
def State.settle (s : State) (clocks : Nat) : State :=
  { s with clock := s.clock + clocks, cur := none, stalled := false, curFlag := none }

/-- The next turn moves: the agenda's, else the device's own. -/
def State.turn (s : State) : Host.Outcome State Fault Refusal :=
  match s.agenda with
  | t :: rest => { s with agenda := rest }.act t.agent
  | [] => { s with rrPipe := s.rrPipe + 1 }.defaultMove s.rrPipe

/-- How many clocks the next turn takes. -/
def State.turnClocks (s : State) : Nat := (s.agenda.head?.map (·.clocks)).getD 1

-- A program's first instruction.

/-- The page that a workgroup which withFetchWord starts fetches from. -/
def bootPage : Nat := 0x100000

/-- A leaf for it: valid, read, fetch, level S, in device memory. -/
def bootLeaf : Word := w64 (bootPage + 0x17)

/-- The workgroup: 32 split threads of context 0 on cluster 0. -/
def bootWg (id : Nat) : Workgroup :=
  { id := id, unit := id, launch := 0, ctx := 0, gx := 0, gy := 0, gz := 0, cluster := 0, cols := [0]
    threads := (List.range 32).map fun t => (t, { u := { pc := w64 bootPage, sh := { priv := .s } } })
    cfg := {} }

/-- The unit that a pipe turn would try first with a word at its PC in memory: its cluster, pipe, identity, and where the
word lies. -/
def State.fetcher (s : State) (c p : Nat) : Option (UnitId × Space × Nat) :=
  if s.pipeUsed c p || s.pipeDone c p || s.leadPipe c p ≠ p then none
  else (s.selectable c (s.candidates c p)).head?.bind fun k => (s.wg? k.id.wg).bind fun w =>
    let x := w.issuer k.id.t
    if s.heldBack x || (x.u.tx.bind (·.doomed)).isSome || x.grp.isSome then none
    else match s.probe x.w x.lead x.u.sh.priv .fetch x.pc 4 with
      | .ok (.mem sp pa _) _ => some (k.id, sp, pa)
      | _ => none

/-- The pipe whose first candidate's word is placed: the one that the agenda names, else the first that holds a unit. -/
def State.fetchPipe (s : State) : Option (Nat × Nat) :=
  match s.agenda with
  | ⟨.pipe c p, _⟩ :: _ => if (s.fetcher c p).isSome then some (c, p) else none
  | _ => s.livePipes.find? fun y => (s.fetcher y.1 y.2).isSome

/-- Give a unit its place: a workgroup on cluster 0 whose pipe 0 fetches from a page that its TLB maps. -/
def State.boot (s : State) : State :=
  let s := s.modCl 0 fun cl => { cl with
    tlb := ⟨0, 0, bootPage / 4096, bootLeaf⟩ :: cl.tlb, pipes := [], icache := [] }
  { s with wgs := bootWg s.nextId :: s.wgs.filter (fun w => w.cluster ≠ 0), nextId := s.nextId + 1, stopped := false
           unbooted := false, agenda := ⟨.pipe 0 0, 1⟩ :: s.agenda }

/-- The bytes of a word placed where a unit fetches it; a copy in the instruction cache goes. -/
def State.placeWord (s : State) (c p : Nat) (bytes : List Byte) : State :=
  match s.fetcher c p with
  | none => s
  | some (_, sp, pa) =>
    (s.homeWrite sp pa bytes).modCl c fun cl => { cl with icache := cl.icache.filter fun k => k.1 ≠ outsideKey sp pa }

end Sys2Proof.Machine
end

