-- ==== Sys2Proof/Machine/Step.lean ====
section
/-!
DEFINITION. The step of the device, and the placing of a word where it fetches its next instruction.
-/

namespace Sys2Proof.Machine

/-- One step: the next turn's agent moves, and the turn's clocks pass. -/
def step (s : State) : Host.Outcome State Fault Refusal :=
  match s.turn with
  | .next s' => .next (s'.settle s.turnClocks)
  | .fault r => .fault r
  | .refused r => .refused r

/-- The state with an instruction's word where the next step fetches it. Where no unit is about to fetch from memory,
one is placed first: from reset the device runs nothing until a launch is published to it. -/
def State.withFetchWord (s : State) (_nbits w : Nat) : State :=
  let bytes := leBytes 4 w
  match s.stopped, s.fetchPipe with
  | false, some (c, p) =>
    let s' := s.placeWord c p bytes
    match s.agenda with
    | ⟨.pipe _ _, _⟩ :: _ => s'
    | _ => { s' with agenda := ⟨.pipe c p, 1⟩ :: s'.agenda }
  | _, _ => s.boot.placeWord 0 0 bytes

end Sys2Proof.Machine
end

