-- ==== Sys2Proof/Safety.lean ====
section
/-!
DEFINITION. The terms that claims are stated in: when an instruction's unit issues it and its operands are ready, the results
that the rules give written on bit vectors, what a safe step is, and the canonical form that every step keeps.
-/

namespace Sys2Proof.Machine

/-- The unit `x` is executing: the state names it, and it exists. -/
def State.Issues (s : State) (x : Issuer) : Prop := s.cur = some x.id ∧ s.issuer? = some x

/-- Nothing keeps an instruction with the fields `f` from its operands (R19, R76, R230, R231, R237): no register that it
names has a result pending in a live lane, every port register that it names names a neighbour in every active lane,
with a value to pop and room to push, and no port register is used inside a transaction. -/
def State.OperandsReady (s : State) (x : Issuer) (f : Fields) : Prop :=
  (f.usesPort = true → x.u.tx = none) ∧
  (∀ t ∈ x.live, ∀ r ∈ f.all, portOf r = none → r ∉ (x.w.thr t).busy) ∧
  (∀ t ∈ x.active, s.portTrap x.w t f = none ∧ (x.w.thr t).portsReady f = true)

/-- An instruction completes in every active lane with a result: when its unit issues it, its operands are ready and no
exception that its result raises is enabled (R121), the next state is that in which every active lane has taken its
result and the PC has moved on. `out` gives a lane's result from the fields of all lanes. -/
def State.Completes (s : State) (x : Issuer) (f : Fields) (i : Instr) (out : (Nat → Vals) → Nat → LaneOut) : Prop :=
  s.Issues x → s.OperandsReady x f →
    (∀ t ∈ x.active, (out (x.lane f (s.free, s.clock)) t).fl &&& fcsrEn x.u.sh.fcsr = 0) →
    exec i s = .next (s.commit x f (out (x.lane f (s.free, s.clock))))

-- The results of R134 on bit vectors.

/-- An operation of one width on a scalar pair: at 64 bits, or on the low 32 bits with the result sign-extended (R134). -/
def oprRule (f : (n : Nat) → BitVec n → BitVec n → BitVec n) (w : Bool) (a b : Word) : Word :=
  if w then (f 32 (a.setWidth 32) (b.setWidth 32)).signExtend 64 else f 64 a b

/-- The number of leading zeros, of trailing zeros and of ones (R134). -/
def leadingZeros (n : Nat) (a : BitVec n) : Nat := ((List.range n).takeWhile fun i => !a.getLsbD (n - 1 - i)).length
def trailingZeros (n : Nat) (a : BitVec n) : Nat := ((List.range n).takeWhile fun i => !a.getLsbD i).length
def onesCount (n : Nat) (a : BitVec n) : Nat := ((List.range n).filter fun i => a.getLsbD i).length

-- Memory as one pipe reads it.

/-- The byte that a pipe of a cluster reads at a location, through its L1 levels where they cache it (R271). -/
def State.readByte (s : State) (c p : Nat) (l : Loc) : Byte := ((s.readLoc c p false l 1).2).headD 0

/-- The byte location `b` lies outside the `n` bytes at `l`. Two spaces of memory outside the device are not compared. -/
def Loc.apart (l : Loc) (n : Nat) (b : Loc) : Prop :=
  match l, b with
  | .sram c o, .sram c' o' => c ≠ c' ∨ o' < o ∨ o + n ≤ o'
  | .mem sp a _, .mem sp' a' _ => (sp ≠ sp' ∧ (sp = .dev ∨ sp' = .dev)) ∨ (sp = sp' ∧ (a' < a ∨ a + n ≤ a'))
  | .sram _ _, .mem _ _ _ | .mem _ _ _, .sram _ _ => True

/-- The location `k` bytes after a location. -/
def Loc.byte (l : Loc) (k : Nat) : Loc :=
  match l with
  | .sram c o => .sram c (o + k)
  | .mem sp a nc => .mem sp (a + k) nc

/-- The accesses of an instruction all pass their checks (R146, R287), leading where `rs` says; no queued matrix
instruction and no store of the thread on its way holds one back (R209, R277), and none waits for a link (R415). `unit`
is an atomic's: whether it reads at the home (R288). -/
def State.AccessReady (s : State) (x : Issuer) (k : Access) (reads : Bool) (as : List LaneAcc)
    (rs : List (LaneAcc × Probe)) (unit : Option Bool := none) : Prop :=
  (as.map fun a => s.chk x k reads a unit) = rs.map (fun r => .good r.1 r.2) ∧
  ∀ r ∈ rs, s.heldByMatrix x k r.1 r.2 = false ∧ s.heldByStore x r.1 r.2 = false ∧
    (s.needsLink x r.1 r.2 = false ∨ s.linkUp = true)

-- What a safe step is.

/-- A step that neither faults nor refuses. -/
def State.StepsOn (s : State) : Prop := ∃ t, step s = .next t

/-- The invariant of memory: device memory is in its canonical form. -/
def State.MemoryOk (s : State) : Prop := Memory.wf s.mem = true

end Sys2Proof.Machine
end

