-- ==== Sys2Proof/Certificates/Slice0/Obligations.lean ====
section
/-!
DEFINITION. The statements for the provers.
-/

open Sys2Proof Sys2Proof.Machine

-- Encodings.

/-- Decode and encode agree (R58 to R71): the decoder gives every well-formed instruction back from its word. -/
def Obligations.DecodeEncode : Prop :=
  ∀ (i : Instr) (w : Insn), i.WellFormed → encode i = some w → decode w = .ok i

/-- Every word has one meaning (R65): a word that decodes is the word that its instruction encodes as, bit for bit, and
the instruction is well formed. -/
def Obligations.EncodeDecode : Prop :=
  ∀ (w : Insn) (i : Instr), decode w = .ok i → encode i = some w ∧ i.WellFormed

/-- R58, R59, R65, R66, R71: words that the spec itself writes out decode as the instructions that it names beside them:
one each of the RRF, RRRR, I16, B, J21, J26, M, A and CLAUSE formats and of fourteen families. The all-zero word, a word
of a reserved major and a word with a bit set that its encoding holds at 0 are no instruction. A sanity statement on
fixed words. -/
def Obligations.EncodingsOfTheSpec : Prop :=
  decode 0x04A63801 = .ok (.add true 5 6 7) ∧ decode 0x0882FFF8 = .ok (.addi 4 2 0xFFF8) ∧
  decode 0x2D203FFD = .ok (.bne 9 0 0x1FFD) ∧ decode 0x30200010 = .ok (.jal 1 16) ∧
  decode 0x3800000C = .ok (.jpt 12) ∧ decode 0x3C8B4002 = .ok (.lw .none 4 11 2) ∧
  decode 0x44AA602A = .ok (.amoadd true .cluster .rel 5 10 12) ∧
  decode 0x510952C0 = .ok (.fma false false false .rne 8 9 10 11) ∧
  decode 0x5864284A = .ok (.vfadd .f32 2 3 4 5) ∧ decode 0x78000002 = .ok (.fuse .f16) ∧
  decode 0x7C444001 = .ok (.mma .e4m3 false true 0 2 (.regs 1) (.regs 2)) ∧
  decode 0x8C0A5800 = .ok (.send 10 11) ∧ decode 0x94C00030 = .ok (.csrr 3 6) ∧
  decode 0xF80048D8 = .ok (.clause 1 2 3 3) ∧ decode 0 = .error .major ∧ decode 0x98000000 = .error .major ∧
  (decode 0x04A63803).toOption = none

-- Scalar instructions.

/-- R134: the two-operand scalar instructions complete with the results of the rule's table, on bit vectors of 64 bits
or, with .W, of 32 bits sign-extended.

R134: CLZ, CTZ and POPC complete with the number of leading zeros, of trailing zeros and of ones.

R134, R135: the divisions complete with truncating quotient and remainder, with the results for a divisor of zero and
the overflow of the most negative number; a zero divisor sets FCSR.DZ through the lane's `dz`, which Completing carries
into FCSR. -/
def Obligations.ScalarArithmetic : Prop :=
  (∀ (s : State) (x : Issuer) (w : Bool) (rd ra rb : R5),
    let res := fun (i : Instr) (f : (n : Nat) → BitVec n → BitVec n → BitVec n) =>
      s.Completes x (fSSS rd ra rb) i fun v t => .ofS (oprRule f w (v t).sa (v t).sb)
    res (.add w rd ra rb) (fun _ a b => a + b) ∧
    res (.sub w rd ra rb) (fun _ a b => a - b) ∧
    res (.and w rd ra rb) (fun _ a b => a &&& b) ∧
    res (.or w rd ra rb) (fun _ a b => a ||| b) ∧
    res (.xor w rd ra rb) (fun _ a b => a ^^^ b) ∧
    res (.sll w rd ra rb) (fun n a b => a <<< (b.toNat % n)) ∧
    res (.srl w rd ra rb) (fun n a b => a >>> (b.toNat % n)) ∧
    res (.sra w rd ra rb) (fun n a b => a.sshiftRight (b.toNat % n)) ∧
    res (.rotl w rd ra rb) (fun n a b => a.rotateLeft (b.toNat % n)) ∧
    res (.slt w rd ra rb) (fun _ a b => if a.slt b then 1 else 0) ∧
    res (.sltu w rd ra rb) (fun _ a b => if a.ult b then 1 else 0) ∧
    res (.min w rd ra rb) (fun _ a b => if a.slt b then a else b) ∧
    res (.max w rd ra rb) (fun _ a b => if a.slt b then b else a) ∧
    res (.minu w rd ra rb) (fun _ a b => if a.ult b then a else b) ∧
    res (.maxu w rd ra rb) (fun _ a b => if a.ult b then b else a) ∧
    res (.mul w rd ra rb) (fun _ a b => a * b) ∧
    res (.mulh w rd ra rb) (fun n a b => BitVec.ofInt n (a.toInt * b.toInt / (2 ^ n : Nat))) ∧
    res (.mulhu w rd ra rb) (fun n a b => BitVec.ofNat n (a.toNat * b.toNat / 2 ^ n))) ∧
  (∀ (s : State) (x : Issuer) (w : Bool) (rd ra : R5),
    let res := fun (i : Instr) (f : (n : Nat) → BitVec n → Nat) =>
      s.Completes x (fSS rd ra) i fun v t =>
        .ofS (w64 (if w then f 32 ((v t).sa.setWidth 32) else f 64 (v t).sa))
    res (.clz w rd ra) leadingZeros ∧ res (.ctz w rd ra) trailingZeros ∧ res (.popc w rd ra) onesCount) ∧
  (∀ (s : State) (x : Issuer) (w : Bool) (rd ra rb : R5),
    let res := fun (i : Instr) (f : (n : Nat) → BitVec n → BitVec n → BitVec n) =>
      s.Completes x (fSSS rd ra rb) i fun v t =>
        { LaneOut.ofS (oprRule f w (v t).sa (v t).sb) with
          dz := if w then (v t).sb.setWidth 32 = 0#32 else (v t).sb = 0 }
    res (.div w rd ra rb) (fun n a b => if b = 0 then BitVec.allOnes n else a.sdiv b) ∧
    res (.divu w rd ra rb) (fun n a b => if b = 0 then BitVec.allOnes n else a.udiv b) ∧
    res (.rem w rd ra rb) (fun _ a b => if b = 0 then a else a.srem b) ∧
    res (.remu w rd ra rb) (fun _ a b => if b = 0 then a else a.umod b))

/-- R136 to R138: ADDI, ANDI, ORI, XORI, SLTI, SLTIU, SLLI, SRLI, SRAI, LUI and AUIPC complete with the results of the
rules. -/
def Obligations.ScalarImmediate : Prop :=
  ∀ (s : State) (x : Issuer) (w : Bool) (rd ra : R5) (imm : BitVec 16) (c : BitVec 6),
    let res := fun (i : Instr) (f : Word → Word) => s.Completes x (fSS rd ra) i fun v t => .ofS (f (v t).sa)
    let top : Word := (imm ++ 0#16).signExtend 64
    res (.addi rd ra imm) (fun a => a + imm.signExtend 64) ∧
    res (.andi rd ra imm) (fun a => a &&& imm.setWidth 64) ∧
    res (.ori rd ra imm) (fun a => a ||| imm.setWidth 64) ∧
    res (.xori rd ra imm) (fun a => a ^^^ imm.setWidth 64) ∧
    res (.slti rd ra imm) (fun a => if a.slt (imm.signExtend 64) then 1 else 0) ∧
    res (.sltiu rd ra imm) (fun a => if a.ult (imm.signExtend 64) then 1 else 0) ∧
    res (.slli w rd ra c) (fun a => oprRule (fun n a _ => a <<< (c.toNat % n)) w a 0) ∧
    res (.srli w rd ra c) (fun a => oprRule (fun n a _ => a >>> (c.toNat % n)) w a 0) ∧
    res (.srai w rd ra c) (fun a => oprRule (fun n a _ => a.sshiftRight (c.toNat % n)) w a 0) ∧
    s.Completes x { dst := some (.s rd) } (.lui rd imm) (fun _ _ => .ofS top) ∧
    s.Completes x { dst := some (.s rd) } (.auipc rd imm) (fun _ _ => .ofS (x.pc + top))

/-- R116: an exact magnitude m / 2^k is rounded to one of its two neighbours. RTZ gives the one of smaller magnitude,
RDN the smaller value, RUP the larger one, and RNE the nearer one, of two equally near ones the even one. The flag says
that the magnitude was not an integer.

R118: the NaN that a float instruction delivers is the canonical NaN of the format, and a signalling NaN among the
operands sets NV while a quiet one sets no flag. `f` is one of the four formats of the scalar and vector float
instructions. -/
def Obligations.FloatRules : Prop :=
  (∀ (neg : Bool) (m k : Nat), 0 < k →
    let d := 2 ^ k
    let res := fun rm => roundInt rm neg m k
    (∀ rm, (res rm).2 = decide (m % d ≠ 0)) ∧
    (∀ rm, m % d = 0 → (res rm).1 * d = m) ∧
    (m % d ≠ 0 → (res .rtz).1 = m / d) ∧
    (m % d ≠ 0 → (res .rdn).1 = if neg then m / d + 1 else m / d) ∧
    (m % d ≠ 0 → (res .rup).1 = if neg then m / d else m / d + 1) ∧
    (let n := (res .rne).1
     2 * n * d ≤ 2 * m + d ∧ 2 * m ≤ 2 * n * d + d ∧ (2 * n * d = 2 * m + d ∨ 2 * m = 2 * n * d + d → n % 2 = 0))) ∧
  (∀ (f : Fmt) (rm : RMode) (z np nc : Bool) (a b c : Nat), f.isFloat4 →
    let va := f.read z a
    let vb := f.read z b
    let vc := f.read z c
    (va.isNan ∨ vb.isNan →
      let fl := if va.isSig || vb.isSig then Fl.nv else 0
      fAdd f rm z a b = (f.nanEnc, fl) ∧ fSub f rm z a b = (f.nanEnc, fl) ∧ fMul f rm z a b = (f.nanEnc, fl) ∧
        fDiv f rm z a b = (f.nanEnc, fl)) ∧
    (va.isNan → fSqrt f rm z a = (f.nanEnc, if va.isSig then Fl.nv else 0)) ∧
    (va.isNan ∨ vb.isNan ∨ vc.isNan → (fFma f rm z np nc a b c).1 = f.nanEnc))

/-- R149, R150 to R153, R94: the scalar float instructions deliver the operation's rounded result in every active lane,
zero-extended, unless a raised exception is enabled (R121).

R121: when an active lane of a float instruction raises an exception whose enable is set, the instruction completes in
no lane: exactly the lanes that raise an enabled one take trap 0x0D, TRAPVAL holding the flags that the lane raised.
Stated for FADD, FSUB, FMUL, FDIV and FMA. -/
def Obligations.ScalarFloat : Prop :=
  (∀ (s : State) (x : Issuer) (f : Fmt) (rm : Rm) (sg : SgnOp) (cmp : CmpOp) (dbl np nc : Bool) (rd ra rb rc : R5),
    let z := fcsrFtz x.u.sh.fcsr
    let m := rmodeOf rm x.u.sh.fcsr
    let two := fun (i : Instr) (g : Nat → Nat → Nat × Fl) =>
      s.Completes x (fSSS rd ra rb) i fun v t => .ofF (g (v t).sa.toNat (v t).sb.toNat)
    two (.fadd f rm rd ra rb) (fAdd f m z) ∧
    two (.fsub f rm rd ra rb) (fSub f m z) ∧
    two (.fmul f rm rd ra rb) (fMul f m z) ∧
    two (.fdiv f rm rd ra rb) (fDiv f m z) ∧
    two (.fmin f rd ra rb) (fMinMax f z false) ∧
    two (.fmax f rd ra rb) (fMinMax f z true) ∧
    two (.fsgn f sg rd ra rb) (fSgn f sg) ∧
    two (.fcmp f cmp rd ra rb) (fun a b => (if (fCmp f z cmp a b).1 then 1 else 0, (fCmp f z cmp a b).2)) ∧
    s.Completes x (fSS rd ra) (.fsqrt f rm rd ra) (fun v t => .ofF (fSqrt f m z (v t).sa.toNat)) ∧
    s.Completes x (fSS rd ra) (.fclass f rd ra) (fun v t => .ofF (fClass f (v t).sa.toNat)) ∧
    s.Completes x { a := some (.s ra), b := some (.s rb), c := some (.s rc), dst := some (.s rd) }
      (.fma dbl np nc rm rd ra rb rc) (fun v t =>
        .ofF (fFma (if dbl then .f64 else .f32) m z np nc (v t).sa.toNat (v t).sb.toNat (v t).sc.toNat))) ∧
  (∀ (s : State) (x : Issuer) (f : Fmt) (rm : Rm) (dbl np nc : Bool) (rd ra rb rc : R5),
    let z := fcsrFtz x.u.sh.fcsr
    let m := rmodeOf rm x.u.sh.fcsr
    let traps := fun (i : Instr) (fs : Fields) (g : Vals → Fl) =>
      s.Issues x → s.OperandsReady x fs →
        let fl := fun t => g (x.lane fs (s.free, s.clock) t)
        (∃ t ∈ x.active, fl t &&& fcsrEn x.u.sh.fcsr ≠ 0) →
          exec i s = .next (s.trapLanes x false
            ((x.active.filter fun t => fl t &&& fcsrEn x.u.sh.fcsr ≠ 0).map fun t => (t, 0x0D, (fl t).setWidth 64)))
    let two := fun (i : Instr) (g : Nat → Nat → Nat × Fl) =>
      traps i (fSSS rd ra rb) fun v => (g v.sa.toNat v.sb.toNat).2
    two (.fadd f rm rd ra rb) (fAdd f m z) ∧ two (.fsub f rm rd ra rb) (fSub f m z) ∧
    two (.fmul f rm rd ra rb) (fMul f m z) ∧ two (.fdiv f rm rd ra rb) (fDiv f m z) ∧
    traps (.fma dbl np nc rm rd ra rb rc) { a := some (.s ra), b := some (.s rb), c := some (.s rc), dst := some (.s rd) }
      (fun v => (fFma (if dbl then .f64 else .f32) m z np nc v.sa.toNat v.sb.toNat v.sc.toNat).2))

-- Vectors, lanes and conversions.

/-- R156 to R158, R161, R162, R165: the element-by-element integer instructions, on elements as bit vectors.

R95, R96: in a vector written under a predicate, element i holds the instruction's result, cut to the element's width,
where the predicate's bit for the element's lowest byte is set, and what it held before where it is not. -/
def Obligations.VectorInteger : Prop :=
  (∀ (s : State) (x : Issuer) (et : ElemTy) (qp : BitVec 3) (rd ra rb : R5), et.isInt →
    let w := et.bits
    let less := fun a b : BitVec w => if et.isSigned then a.slt b else a.ult b
    let res := fun (i : Instr) (f : BitVec w → BitVec w → BitVec w) =>
      s.Completes x (fVVV qp rd ra rb) i fun v t =>
        { val := mapElems w (v t).q (v t).old fun k =>
            (f (BitVec.ofNat w (elem w (v t).a k)) (BitVec.ofNat w (elem w (v t).b k))).toNat }
    res (.vadd et qp rd ra rb) (fun a b => a + b) ∧
    res (.vsub et qp rd ra rb) (fun a b => a - b) ∧
    res (.vmul et qp rd ra rb) (fun a b => a * b) ∧
    res (.vmin et qp rd ra rb) (fun a b => if less b a then b else a) ∧
    res (.vmax et qp rd ra rb) (fun a b => if less a b then b else a) ∧
    res (.vsh et qp rd ra rb) (fun a b =>
      if b.toInt < 0 then (if et.isSigned then a.sshiftRight (-b.toInt).toNat else a >>> (-b.toInt).toNat)
      else a <<< b.toInt.toNat) ∧
    res (.vcmp et qp rd ra rb) (fun a b =>
      if less a b then BitVec.allOnes w else if a = b then 0 else BitVec.ofNat w 1)) ∧
  (∀ (et : ElemTy) (q : Mask) (old : Vec) (f : Nat → Nat) (i : Nat), i < 256 / et.bits →
    elem et.bits (mapElems et.bits q old f) i =
      if q.getLsbD (et.bits * i / 8) then f i % 2 ^ et.bits else elem et.bits old i)

/-- R157, R162, R163, R165: VLOG acts on bytes, and VSEL, VSPLAT and VPERM on elements, under the predicate.

R164, R166, R167, R186, R187: VEXT and VINS take and set one element, VRED reduces the active elements, VDOT adds
products, and QLOG, QFROM and QTO compute on predicates.

That VRED flushes a single subnormal element under FTZ (log entry 94), and VDOT's NV beside a NaN, the sign of its exact
zero and a port as its vd (log entry 99), are the model's choices. -/
def Obligations.VectorMoves : Prop :=
  (∀ (s : State) (x : Issuer) (et : ElemTy) (qp : BitVec 3) (rd ra rb : R5),
    let w := et.bits
    let log := fun (op : LogOp) (f : BitVec 8 → BitVec 8 → BitVec 8) =>
      s.Completes x (fVVV qp rd ra rb) (.vlog op qp rd ra rb) fun v t =>
        { val := mapElems 8 (v t).q (v t).old fun k =>
            (f (BitVec.ofNat 8 (elem 8 (v t).a k)) (BitVec.ofNat 8 (elem 8 (v t).b k))).toNat }
    log .and (fun a b => a &&& b) ∧ log .or (fun a b => a ||| b) ∧ log .xor (fun a b => a ^^^ b) ∧
    log .andn (fun a b => a &&& ~~~b) ∧
    s.Completes x (fVVV qp rd ra rb) (.vsel et qp rd ra rb) (fun v t =>
      { val := mapElems w (v t).q (v t).b fun k => elem w (v t).a k }) ∧
    s.Completes x { a := some (.s ra), qp := qp.toNat, dst := some (.v rd) } (.vsplat et qp rd ra) (fun v t =>
      { val := mapElems w (v t).q (v t).old fun _ => (v t).sa.toNat }) ∧
    s.Completes x (fVVV qp rd ra rb) (.vperm et qp rd ra rb) (fun v t =>
      { val := mapElems w (v t).q (v t).old fun k => elem w (v t).a (elem w (v t).b k % (256 / w)) })) ∧
  (∀ (s : State) (x : Issuer) (et : ElemTy) (op : RedOp) (qp qd qa qb : BitVec 3) (st : BitVec 5) (rd ra rb : R5),
    let w := et.bits
    let z := fcsrFtz x.u.sh.fcsr
    let m := rmodeOf .dyn x.u.sh.fcsr
    let q := fun (p : BitVec 3) => some (RegName.q (p.setWidth 5))
    let qlog := fun (o : QOp) (f : Mask → Mask → Mask) =>
      s.Completes x { a := q qa, b := q qb, dst := q qd } (.qlog o qd qa qb) fun v t =>
        { val := (f ((v t).a.setWidth 32) ((v t).b.setWidth 32)).setWidth 256 }
    s.Completes x { a := some (.v ra), b := some (.s rb), dst := some (.s rd) } (.vext et rd ra rb) (fun v t =>
      let e := elem w (v t).a ((v t).sb.toNat % (256 / w))
      .ofS (if et.isSigned then (BitVec.ofNat w e).signExtend 64 else w64 e)) ∧
    s.Completes x { a := some (.s ra), b := some (.s rb), dst := some (.v rd) } (.vins et rd ra rb) (fun v t =>
      { val := ofElems w fun k =>
          if k = (v t).sb.toNat % (256 / w) then (v t).sa.toNat else elem w (v t).old k }) ∧
    s.Completes x { a := some (.v ra), qp := qp.toNat, dst := some (.s rd) } (.vred et op qp rd ra) (fun v t =>
      vredOut et op m z (((List.range (256 / w)).filter fun k => (v t).q.getLsbD (w * k / 8)).map (elem w (v t).a))) ∧
    s.Completes x (fVVV qp rd ra rb) (.vdot et qp rd ra rb) (fun v t =>
      mapFloat 32 (v t).q (v t).old fun k =>
        if et.isInt then (vdotInt et (v t) k, 0) else vdotFloat (elemFmt et) m z (v t) k) ∧
    qlog .and (fun a b => a &&& b) ∧ qlog .or (fun a b => a ||| b) ∧ qlog .xor (fun a b => a ^^^ b) ∧
    qlog .andn (fun a b => a &&& ~~~b) ∧ qlog .not (fun a _ => ~~~a) ∧
    s.Completes x { a := some (.v ra), dst := q qd } (.qfrom et st qd ra) (fun v t =>
      { val := BitVec.ofNat 256 (maskOf 32 fun b => inSet st (intOf et (elem w (v t).a (8 * b / w)))) }) ∧
    s.Completes x { a := some (.s ra), dst := q qd } (.qfromS qd ra) (fun v t =>
      { val := ((v t).sa.setWidth 32).setWidth 256 }) ∧
    s.Completes x { a := q qa, dst := some (.s rd) } (.qto rd qa) (fun v t => .ofS (v t).sa))

/-- R159 to R161: the vector float instructions, element by element, under the rounding mode and FTZ in force. -/
def Obligations.VectorFloat : Prop :=
  ∀ (s : State) (x : Issuer) (et : ElemTy) (rm : Rm) (half np nc : Bool) (qp : BitVec 3) (rd ra rb rc : R5),
    let f := elemFmt et
    let z := fcsrFtz x.u.sh.fcsr
    let m := rmodeOf .dyn x.u.sh.fcsr
    let h : Fmt := if half then .f16 else .f32
    let res := fun (i : Instr) (g : Nat → Nat → Nat × Fl) =>
      s.Completes x (fVVV qp rd ra rb) i fun v t =>
        mapFloat et.bits (v t).q (v t).old fun k => g (elem et.bits (v t).a k) (elem et.bits (v t).b k)
    res (.vfadd et qp rd ra rb) (fAdd f m z) ∧ res (.vfsub et qp rd ra rb) (fSub f m z) ∧
    res (.vfmul et qp rd ra rb) (fMul f m z) ∧ res (.vfmin et qp rd ra rb) (fMinMax f z false) ∧
    res (.vfmax et qp rd ra rb) (fMinMax f z true) ∧
    res (.vfcmp et qp rd ra rb) (fun a b =>
      (match cmpX (f.read z a) (f.read z b) with
        | some .lt => 2 ^ et.bits - 1
        | some .eq => 0
        | some .gt => 1
        | none => 2, sigFl [f.read z a, f.read z b])) ∧
    s.Completes x { a := some (.v ra), b := some (.v rb), c := some (.v rc), dst := some (.v rd) }
      (.vfma half np nc rm rd ra rb rc) (fun v t =>
        mapFloat h.bits (BitVec.allOnes 32) (v t).old fun k =>
          fFma h (rmodeOf rm x.u.sh.fcsr) z np nc (elem h.bits (v t).a k) (elem h.bits (v t).b k)
            (elem h.bits (v t).c k))

/-- R171 to R174: the lane instructions. Lane l of a group of F lanes is the thread l above the group's lowest; lane
numbers are taken mod F; in split mode the thread is lane 0 of 1. Combinations take the active lanes in ascending order.

That LRED and LSCAN flush a single subnormal element under FTZ is the model's choice (log entry 94), and what a lane that
is not active supplies from a port is free (log entry 17). -/
def Obligations.LaneInstructions : Prop :=
  ∀ (s : State) (x : Issuer) (et : ElemTy) (op : RedOp) (k : VoteKind) (excl : Bool) (qp : BitVec 3) (rd ra rb : R5),
    let w := et.bits
    let z := fcsrFtz x.u.sh.fcsr
    let m := rmodeOf .dyn x.u.sh.fcsr
    let lane := fun (n : Nat) => x.span.headD x.id.t + n % x.lanes
    let move := fun (i : Instr) (src : (Nat → Vals) → Nat → Nat) =>
      s.Completes x { a := some (.v ra), b := some (.s rb), qp := qp.toNat, dst := some (.v rd) } i fun v t =>
        { val := mapElems w (v t).q (v t).old fun e => elem w (v (lane (src v t))).a e }
    let comb := fun (i : Instr) (take : Nat → Nat → Bool) =>
      s.Completes x { a := some (.v ra), qp := qp.toNat, dst := some (.v rd) } i fun v t =>
        mapFloat w (v t).q (v t).old fun e =>
          combine et op m z ((x.active.filter fun u => (v u).q.getLsbD (w * e / 8) && take t u).map fun u =>
            elem w (v u).a e)
    move (.lshfl et qp rd ra rb) (fun v t => (v t).sb.toNat) ∧
    move (.lbcast et qp rd ra rb) (fun v _ => (v x.lead).sb.toNat) ∧
    move (.lrot et qp rd ra rb) (fun v t => x.laneOf t + (v x.lead).sb.toNat) ∧
    comb (.lred et op qp rd ra) (fun _ _ => true) ∧
    comb (.lscan et excl op qp rd ra) (fun t u => if excl then decide (u < t) else decide (u ≤ t)) ∧
    s.Completes x (fSS rd ra) (.vote k rd ra) (fun v _ =>
      let yes := x.active.filter fun u => (v u).sa ≠ 0
      .ofS (match k with
        | .any => if yes = [] then 0 else 1
        | .all => if yes.length = x.active.length then 1 else 0
        | .ballot => w64 ((yes.map fun u => 2 ^ x.laneOf u).sum)
        | .count => w64 yes.length))

/-- R176 to R181: conversions and special functions, with the rounding of the instruction, the stochastic generator of
each thread (R122 to R124), and FTZ.

R129, R181: the special functions, scalar on F32 and on vector elements, deliver what the model's `sfu` gives: a free
value that the model holds inside the bound of R129 (log entry 15). -/
def Obligations.Conversions : Prop :=
  (∀ (s : State) (x : Issuer) (dt st : ElemTy) (df sf : Fmt) (rm : Rm) (p3 : BitVec 3) (p2 q2 : BitVec 2) (rd ra rb : R5),
    let fc := x.u.sh.fcsr
    let z := fcsrFtz fc
    let m := rmodeOf rm fc
    let sr := rmIsSr rm fc
    s.Completes x (fSS rd ra) (.cvt dt st rm rd ra) (fun v t =>
      let r := cvtAny dt st m z (v t).sa.toNat
      { LaneOut.ofS (elemWord dt r.1) with fl := r.2 }) ∧
    s.Completes x { a := some (.v ra), qp := q2.toNat, dst := some (.v rd) } (.vcvt df sf rm p3 q2 rd ra) (fun v t =>
      cvtVec sf.bits df.bits p3.toNat (v t).q sr m (fun m a => cvtFF df sf m z a) (v t) (x.w.thr t).gen) ∧
    s.Completes x { a := some (.v ra), b := some (.s rb), qp := q2.toNat, dst := some (.v rd) }
      (.vcvtsc df sf rm q2 rd ra rb) (fun v t =>
        cvtVec sf.bits df.bits ((v t).sb.toNat / 256 % 8 % widthRatio sf.bits df.bits) (v t).q sr m
          (fun m a => cvtScaled df sf m ((v t).sb.toNat % 256) a) (v t) (x.w.thr t).gen) ∧
    s.Completes x { a := some (.v ra), dst := some (.v rd) } (.vcvtus dt st rm p2 rd ra) (fun v t =>
      cvtVec st.bits dt.bits p2.toNat (BitVec.allOnes 32) false m (fun m a => cvtAny dt st m z a) (v t) 0)) ∧
  (∀ (s : State) (x : Issuer) (et : ElemTy) (qp : BitVec 3) (rd ra : R5),
    let z := fcsrFtz x.u.sh.fcsr
    let one := fun (i : Instr) (op : SfuOp) =>
      s.Completes x (fSS rd ra) i fun v t => .ofF (sfu op z ((v t).sa.toNat % 2 ^ 32))
    let vec := fun (i : Instr) (op : SfuOp) =>
      s.Completes x { a := some (.v ra), qp := qp.toNat, dst := some (.v rd) } i fun v t =>
        mapFloat et.bits (v t).q (v t).old fun k => sfuElem op (elemFmt et) z (elem et.bits (v t).a k)
    one (.exp2 rd ra) .exp2 ∧ one (.log2 rd ra) .log2 ∧ one (.rcp rd ra) .rcp ∧ one (.rsq rd ra) .rsq ∧
    one (.sin rd ra) .sin ∧ one (.cos rd ra) .cos ∧ vec (.exp2V et qp rd ra) .exp2 ∧ vec (.log2V et qp rd ra) .log2 ∧
    vec (.rcpV et qp rd ra) .rcp ∧ vec (.rsqV et qp rd ra) .rsq ∧ vec (.sinV et qp rd ra) .sin ∧
    vec (.cosV et qp rd ra) .cos)

/-- R93, R130, R131, R121: an instruction that completes writes its destination in every active lane and moves the PC to
the next word; s0 and q0 keep their values. Every other register, every thread that is not active, every other workgroup
and everything else in the device stay as they were: memory, special registers, uniform registers, other status. FCSR
takes the flags that the lanes raised, and DZ of an integer division by zero. A port register named as destination
changes no register (a value leaves through the port), and one named as a source loses the values read.

R61, R131, R227: an instruction that completes takes from each source port as many entries as fields name it, in every
active lane, and gives their credits back; a port named as destination holds the result for the neighbour. -/
def Obligations.Completing : Prop :=
  (∀ (s : State) (x : Issuer) (f : Fields) (out : Nat → LaneOut), s.Issues x →
    let t := s.commit x f out
    let wg := x.id.wg
    let hits := fun r => f.dst = some r ∧ portOf r = none
    (∀ u ∈ x.active, ∀ r : R5,
      (t.thr wg u).r.sget r =
        (if hits (.s r) ∧ r ≠ 0 then (out u).val.setWidth 64 else (s.thr wg u).r.sget r) ∧
      (t.thr wg u).r.vget r = (if hits (.v r) then (out u).val else (s.thr wg u).r.vget r) ∧
      (t.thr wg u).r.qget r.toNat =
        (if hits (.q r) ∧ r ≠ 0 then (out u).val.setWidth 32 else (s.thr wg u).r.qget r.toNat)) ∧
    (∀ u ∈ x.active,
      { t.thr wg u with
        r := (s.thr wg u).r, u := (s.thr wg u).u, ports := (s.thr wg u).ports, cf := (s.thr wg u).cf
        gen := (s.thr wg u).gen } = s.thr wg u ∧
      (t.thr wg u).gen = (out u).gen.getD (s.thr wg u).gen ∧
      (f.pops = [] → f.push = none → (t.thr wg u).ports = (s.thr wg u).ports ∧ (t.thr wg u).cf = (s.thr wg u).cf)) ∧
    (∀ u, u ∉ x.active → t.thr wg u = s.thr wg u) ∧
    (∀ j, j ≠ wg → t.wg? j = s.wg? j) ∧
    { t with wgs := s.wgs } = s ∧
    (∃ w u, t.wg? wg = some w ∧ u = w.ust x.id.t ∧ u.pc = x.pc + 4 ∧
      u.sh.fcsr = x.u.sh.fcsr |||
        (x.active.foldl (fun (a : Fl) l => a ||| (out l).fl ||| (if (out l).dz then Fl.dz else 0)) 0).setWidth 64 ∧
      { u with pc := x.u.pc, waiting := x.u.waiting, waitSince := x.u.waitSince
               walked := x.u.walked, sh := { u.sh with fcsr := x.u.sh.fcsr } } = x.u)) ∧
  (∀ (s : State) (x : Issuer) (f : Fields) (out : Nat → LaneOut) (d : Dir), s.Issues x →
    let t := s.commit x f out
    ∀ u ∈ x.active,
      let p := (s.thr x.id.wg u).ports.get d
      let p' := (t.thr x.id.wg u).ports.get d
      let n := f.pops.count (d, false)
      let k := f.pops.count (d, true)
      p'.inS = p.inS.drop n ∧ p'.retS = p.retS + n ∧ p'.inV = p.inV.drop k ∧ p'.retV = p.retV + k ∧
      p'.topo = p.topo ∧ p'.wrap = p.wrap ∧
      p'.outS.map (·.1) = (if f.push = some (d, false) then some ((out u).val.setWidth 64) else p.outS.map (·.1)) ∧
      p'.outV.map (·.1) = (if f.push = some (d, true) then some (out u).val else p.outV.map (·.1)))

-- Control transfer and the forms of a unit.

/-- R139: a conditional branch whose operands are ready compares in each active lane and branches with the lanes in
which the comparison holds; its target lies `off` words from it (R60).

R43, R46: a branch that every active lane takes goes to its target, and one that none takes goes on. When they differ
and the stack holds a JOIN with an entry free, a PATH entry keeps the lanes that take it with the target, and the others
go on; with no JOIN or no entry free, and outside a transaction, the group splits, each lane at its own address.

R142: JPT pushes a JOIN entry with the active mask and goes on; in split mode it only goes on. A ninth entry splits the
group instead. -/
def Obligations.Branches : Prop :=
  (∀ (s : State) (x : Issuer) (ra rb : R5) (off : BitVec 13),
    let f : Fields := { a := some (.s ra), b := some (.s rb) }
    s.Issues x → s.OperandsReady x f →
      let v := fun t => (x.w.thr t).vals f
      let br := fun (i : Instr) (c : Word → Word → Bool) =>
        exec i s = .next ((s.popAll x f).branch x (x.pc + 4 * off.signExtend 64)
          (x.active.filter fun t => c (v t).sa (v t).sb))
      br (.beq ra rb off) (fun a b => a = b) ∧ br (.bne ra rb off) (fun a b => a ≠ b) ∧
      br (.blt ra rb off) (fun a b => a.slt b) ∧ br (.bge ra rb off) (fun a b => b.sle a) ∧
      br (.bltu ra rb off) (fun a b => a.ult b) ∧ br (.bgeu ra rb off) (fun a b => b.ule a)) ∧
  (∀ (s : State) (x : Issuer) (target : Word) (taken : List Nat), s.Issues x → x.active ≠ [] →
    (taken.length = x.active.length → s.branch x target taken = s.setPc x target) ∧
    (taken = [] → s.branch x target taken = s.setPc x (x.pc + 4)) ∧
    (∀ g, x.grp = some g → taken ≠ [] → taken.length ≠ x.active.length →
      (g.stack.any (·.join) = true → g.stack.length < 8 →
        ∃ w h, (s.branch x target taken).wg? x.id.wg = some w ∧ w.groupOf x.id.t = some h ∧
          h.stack = ⟨false, target, g.maskOfThreads taken⟩ :: g.stack ∧
          h.active = g.active &&& ~~~g.maskOfThreads taken ∧ h.live = g.live ∧ h.u.pc = x.pc + 4) ∧
      (g.stack.any (·.join) = false ∨ 8 ≤ g.stack.length → x.u.tx = none →
        s.branch x target taken = s.splitGroup x.id.wg g (fun t => if taken.contains t then target else x.pc + 4)
          (bottomJoin g.stack)))) ∧
  (∀ (s : State) (x : Issuer) (off : BitVec 26), s.Issues x →
    (x.grp = none → exec (.jpt off) s = .next (s.setPc x (x.pc + 4))) ∧
    (∀ g, x.grp = some g → g.stack.length < 8 →
      ∃ t w h, exec (.jpt off) s = .next t ∧ t.wg? x.id.wg = some w ∧ w.groupOf x.id.t = some h ∧
        h.stack = ⟨true, x.pc + 4 * off.signExtend 64, g.active⟩ :: g.stack ∧ h.active = g.active ∧ h.live = g.live ∧
        h.u.pc = x.pc + 4 ∧ { t with wgs := s.wgs } = s) ∧
    (∀ g, x.grp = some g → 8 ≤ g.stack.length → x.u.tx = none →
      exec (.jpt off) s = .next (s.splitGroup x.id.wg g (fun _ => x.pc + 4) (bottomJoin g.stack))))

/-- R140, R141: JAL and JALR write the address of the next word and jump; a JALR whose active lanes have one target,
with its two low bits clear, goes there; when the targets differ the group splits, each lane at its own (R46).

R141, R376: a JALR with a misaligned target completes in no lane: exactly the active lanes whose target is not a
multiple of 4 take trap 0x04 with the target as TRAPVAL. -/
def Obligations.Jumps : Prop :=
  (∀ (s : State) (x : Issuer) (rd ra : R5) (off : BitVec 21) (imm : BitVec 16), s.Issues x →
    let target := fun t => ((x.w.thr t).vals (fSS rd ra)).sa + imm.signExtend 64
    let linked := s.commit x (fSS rd ra) fun _ => .ofS (x.pc + 4)
    (s.OperandsReady x { dst := some (.s rd) } →
      exec (.jal rd off) s = .next ((s.commit x { dst := some (.s rd) } fun _ => .ofS (x.pc + 4)).setPc x
        (x.pc + 4 * off.signExtend 64))) ∧
    (s.OperandsReady x (fSS rd ra) → (∀ t ∈ x.active, (target t).toNat % 4 = 0) →
      ((∀ t ∈ x.active, target t = target x.lead) →
        exec (.jalr rd ra imm) s = .next (linked.setPc x (target x.lead))) ∧
      (∀ g, x.grp = some g → x.u.tx = none → (∃ t ∈ x.active, target t ≠ target x.lead) →
        exec (.jalr rd ra imm) s = .next (linked.splitGroup x.id.wg g target (bottomJoin g.stack))))) ∧
  (∀ (s : State) (x : Issuer) (rd ra : R5) (imm : BitVec 16), s.Issues x → s.OperandsReady x (fSS rd ra) →
    let target := fun t => ((x.w.thr t).vals (fSS rd ra)).sa + imm.signExtend 64
    (∃ t ∈ x.active, (target t).toNat % 4 ≠ 0) →
      exec (.jalr rd ra imm) s = .next (s.trapLanes x true
        ((x.active.filter fun t => (target t).toNat % 4 ≠ 0).map fun t => (t, 4, target t))))

/-- R54, R182 to R185: the uniform instructions. KALU computes on uniform registers, KLI loads a sign-extended constant,
KPUT takes the value of the lowest active lane, KGET gives a uniform register to every active lane, and KBR branches for
the whole unit. A write of k1 to k15 under a partial mask also sets STATUS.KDIV; with KDIVTRAP set it is not made and
traps 0x02 with subcode 5 instead. That a write of k0, which reads as 0, does neither is the model's choice (log entry
20). -/
def Obligations.UniformRegisters : Prop :=
  ∀ (s : State) (x : Issuer) (op : KOp) (c : KCond) (kd ka kb : BitVec 4) (imm : BitVec 18) (off : BitVec 15) (rd ra : R5),
    s.Issues x →
      let a := x.u.sh.kget ka.toNat
      let b := x.u.sh.kget kb.toNat
      let fa : Fields := { a := some (.s ra) }
      let part := kd ≠ 0 ∧ x.partialMask = true
      let wrote := fun (s' : State) (v : Word) => (s'.modSh x fun h => h.kset kd.toNat v).setPc x (x.pc + 4)
      let res := fun (i : Instr) (v : Word) =>
        (¬part → exec i s = .next (wrote s v)) ∧
        (part → x.u.sh.kdivtrap = false → exec i s = .next (wrote (s.modSh x fun h => { h with kdiv := true }) v)) ∧
        (part → x.u.sh.kdivtrap = true →
          exec i s = .next ((s.modSh x fun h => { h with kdiv := true }).trapAll x 2 5))
      res (.kalu op kd ka kb) (match op with
        | .add => a + b | .sub => a - b | .and => a &&& b | .or => a ||| b | .xor => a ^^^ b
        | .sll => a <<< (b.toNat % 64) | .srl => a >>> (b.toNat % 64) | .sra => a.sshiftRight (b.toNat % 64)
        | .mul => a * b | .slt => if a.slt b then 1 else 0 | .sltu => if a.ult b then 1 else 0
        | .min => if a.slt b then a else b | .max => if a.slt b then b else a) ∧
      res (.kli kd imm) (imm.signExtend 64) ∧
      (s.OperandsReady x fa →
        let v := ((x.w.thr x.lead).vals fa).sa
        let kdiv := s.modSh x fun h => { h with kdiv := true }
        (¬part → exec (.kput kd ra) s = .next (wrote (s.popAll x fa) v)) ∧
        (part → x.u.sh.kdivtrap = false → exec (.kput kd ra) s = .next (wrote (kdiv.popAll x fa) v)) ∧
        (part → x.u.sh.kdivtrap = true → exec (.kput kd ra) s = .next (kdiv.trapAll x 2 5))) ∧
      s.Completes x { dst := some (.s rd) } (.kget rd ka) (fun _ _ => .ofS a) ∧
      exec (.kbr c ka off) s = .next (s.setPc x
        (if (match c with
            | .eqz => decide (a = 0) | .nez => decide (a ≠ 0) | .ltz => decide (a.toInt < 0)
            | .gez => decide (0 ≤ a.toInt) | .gtz => decide (0 < a.toInt) | .lez => decide (a.toInt ≤ 0))
          then x.pc + 4 * off.signExtend 64 else x.pc + 4))

/-- R37 to R41, R188: FUSE of a split thread is an arrival and goes on; the FUSE of the group's own size does nothing; a
reconverged group's FUSE of a larger size is an arrival of all of it. SPLIT makes every live lane a thread of its own at
the next word, with no rejoin record (R52); REJOIN takes a thread that holds a record to its rejoin PC.

R40: FUSE traps 0x02 with subcode 2 for a size below the group's, 0x0B for a larger one while the group has not
reconverged, and else 3 where an arrival of another size is pending on a span that holds its own or lies in it. The three
trap with subcode 4 in a task. R52: FUSE and SPLIT of a thread that holds a record take the record from every member. -/
def Obligations.ModeInstructions : Prop :=
  ∀ (s : State) (x : Issuer) (f : FSize), s.Issues x → x.u.tx = none →
    let base := x.id.t % 32 / laneCount f * laneCount f
    let next := s.setPc x (x.pc + 4)
    let held := (x.w.thr x.id.t).rejoin
    let conflict := fun (w : Workgroup) => w.fuseConflict (x.id.t / 32) base f = true
    (128 ≤ x.id.t →
      exec (.fuse f) s = .next (s.trapAll x 2 4) ∧ exec .split s = .next (s.trapAll x 2 4) ∧
      exec .rejoin s = .next (s.trapAll x 2 4)) ∧
    (x.id.t < 128 →
      (x.grp = none → held = none →
        (¬conflict x.w → exec (.fuse f) s = .next (next.modThr x.id.wg x.id.t fun th => { th with arrival := some f })) ∧
        (conflict x.w → exec (.fuse f) s = .next (s.trapAll x 2 3)) ∧
        exec .split s = .next next ∧ exec .rejoin s = .next next) ∧
      (∀ g, x.grp = some g →
        (g.f = f → exec (.fuse f) s = .next next) ∧
        (laneCount f < laneCount g.f → exec (.fuse f) s = .next (s.trapAll x 2 2)) ∧
        (laneCount g.f < laneCount f → (g.active ≠ g.live ∨ g.stack ≠ []) →
          exec (.fuse f) s = .next (s.trapAll x 2 0x0B)) ∧
        (laneCount g.f < laneCount f → g.active = g.live → g.stack = [] →
          (conflict x.w → exec (.fuse f) s = .next (s.trapAll x 2 3)) ∧
          (¬conflict x.w →
            exec (.fuse f) s = .next (next.modThrs x.id.wg x.live fun _ th => { th with arrival := some f }))) ∧
        exec .split s = .next (s.splitGroup x.id.wg g (fun _ => x.pc + 4) none) ∧ exec .rejoin s = .next next) ∧
      (∀ r, x.grp = none → held = some r →
        let member := fun (u : Nat) => ∃ l, l < 32 ∧ r.live.getLsbD l = true ∧ u = 32 * r.col + r.base + l
        let lost := fun (w : Workgroup) => (w.ust x.id.t).pc = x.pc + 4 ∧ ∀ u,
          (member u → (x.w.thr u).rejoin = some r → (w.thr u).rejoin = none) ∧
          (¬(member u ∧ (x.w.thr u).rejoin = some r) → (w.thr u).rejoin = (x.w.thr u).rejoin) ∧
          (w.thr u).r = (x.w.thr u).r
        (conflict (x.w.dropRecord r) → exec (.fuse f) s = .next (s.trapAll x 2 3)) ∧
        (¬conflict (x.w.dropRecord r) →
          ∃ t w, exec (.fuse f) s = .next t ∧ t.wg? x.id.wg = some w ∧ lost w ∧
            (w.thr x.id.t).arrival = some f) ∧
        (∃ t w, exec .split s = .next t ∧ t.wg? x.id.wg = some w ∧ lost w) ∧
        exec .rejoin s = .next ((s.modU x fun u => { u with clause := none }).setPc x r.pc)))

/-- R46 to R48: a group that splits leaves its live lanes as threads of their own, and no other group but as its L1 share
changes what a transaction of it may hold (R271, R297): the active ones stand at the addresses given, another at the
address that its topmost PATH entry holds for it, else its topmost JOIN; each has the group's uniform registers, level and
FCSR, and all hold the rejoin record, or none.

R51, R378: when a lane of a group traps, the group splits: the lane takes its trap at S with bit 8 of TRAPCAUSE set, and
every other active lane stands at the instruction with its registers as they were. Stated for a trap that goes to S. -/
def Obligations.SplittingAGroup : Prop :=
  (∀ (s : State) (w : Workgroup) (g : Group) (pcs : Nat → Word) (rec' : Option Word), s.wg? w.id = some w →
    ∃ w', (s.splitGroup w.id g pcs rec').wg? w.id = some w' ∧
      (let plain := fun (h : Group) => { h with u := { h.u with tx := none } }
       w'.groups.map plain = (w.groups.filter fun h => h.t0 ≠ g.t0).map plain) ∧
      ∀ t ∈ g.lanesOf g.live,
        (w'.thr t).u.pc = (if g.active.getLsbD (t - g.t0) then pcs t else parkedPc g.stack (t - g.t0) g.u.pc) ∧
        (w'.thr t).u.sh = g.u.sh ∧ (w'.thr t).u.clause = none ∧ (w'.thr t).u.tx = none ∧ (w'.thr t).r = (w.thr t).r ∧
        (w'.thr t).rejoin = rec'.map fun pc => ⟨g.col, g.base, g.f, g.live, pc⟩) ∧
  (∀ (s : State) (x : Issuer) (g : Group) (l cause : Nat) (val : Word), s.Issues x → x.grp = some g → x.u.tx = none →
    l ∈ x.active → g.active &&& ~~~g.live = 0 → ¬(5 ≤ cause ∧ cause ≤ 7) → (x.w.thr l).shnd = false →
    ¬(x.u.sh.priv = .u ∧ (s.ctx x.w.ctx).sdeleg.getLsbD cause = true ∧ x.u.sh.trapvec ≠ 0 ∧ (x.w.thr l).uhnd = false) →
    ∃ w, (s.trapLanes x false [(l, cause, val)]).wg? x.id.wg = some w ∧ (∀ h ∈ w.groups, h.t0 ≠ g.t0) ∧
      (w.thr l).trapcause = w64 (256 + cause) ∧ (w.thr l).trappc = x.pc ∧ (w.thr l).trapval = val ∧
      (w.thr l).shnd = true ∧ (w.thr l).u.sh.priv = .s ∧ (w.thr l).u.pc = (s.ctx x.w.ctx).stvec ∧
      ∀ u ∈ x.active, (w.thr u).r = (x.w.thr u).r ∧ (u ≠ l → (w.thr u).u.pc = x.pc ∧ (w.thr u).u.sh = x.u.sh ∧
        (w.thr u).trapcause = (x.w.thr u).trapcause))

/-- R38, R305, R36, R25: GROUP_FORM makes a group of an aligned span whose threads have all arrived or exited, once the
FIFO of every pipe but the lowest is empty; REFUSION makes the group of a rejoin record again, at the rejoin PC, when all
its threads that have not exited wait there (R50). In either every live lane is active and the stack is empty. The PC of
GROUP_FORM and the uniform state are the lowest live member's: the uniform registers, the level, SRSEED, SPLITTHR,
TRAPVEC, KDIVTRAP and FCSR, which takes the sticky flags of all; KDIV and KDIFF are set where a member's is, KDIFF by
REFUSION also where the uniform registers differ; a member's critical mark is the group's, to the earliest limit (R56).
GROUP_FORM starts each lane's stochastic generator from SRSEED, REFUSION keeps it.

R49: a group whose low-occupancy count exceeds SPLITTHR, itself not 0, splits before its next instruction, with a rejoin
record when its stack holds a JOIN (R48). -/
def Obligations.FormingAGroup : Prop :=
  (∀ (s : State) (w : Workgroup) (col base lo : Nat) (f : FSize) (rest : List Nat) (t : Nat) (r : Rejoin),
    s.wg? w.id = some w →
    let sh := fun u => (w.ust u).sh
    let live := lo :: rest
    let takes := fun (g : Group) (t0 : Nat) =>
      g.active = g.live ∧ g.stack = [] ∧ (∀ l, l < laneCount g.f → g.live.getLsbD l = !(w.thr (t0 + l)).exited) ∧
      g.u.sh.k = (sh lo).k ∧ g.u.sh.priv = (sh lo).priv ∧ g.u.sh.srseed = (sh lo).srseed ∧
      g.u.sh.splitthr = (sh lo).splitthr ∧ g.u.sh.trapvec = (sh lo).trapvec ∧ g.u.sh.kdivtrap = (sh lo).kdivtrap ∧
      g.u.sh.fcsr = live.foldl (fun a u => a ||| ((sh u).fcsr &&& 0x1F)) (sh lo).fcsr ∧
      g.u.sh.kdiv = live.any (fun u => (sh u).kdiv) ∧ g.u.sh.crit = (live.filterMap fun u => (sh u).crit).min?
    (let t0 := 32 * col + base
     let ts := (List.range (laneCount f)).map (t0 + ·)
     ts.filter (fun t => !(w.thr t).exited) = live →
     base % laneCount f = 0 → base + laneCount f ≤ 32 → 32 * col < w.cfg.threads →
     (∀ t ∈ ts, ((w.thr t).exited = true ∨ (w.thr t).arrival = some f) ∧ (t = t0 ∨ (w.thr t).fifo = [])) →
     (∀ k ∈ w.groups, k.spans t0 = true → k.t0 ∈ ts) →
     ∃ s' w' g, exec (.groupForm w.id col base f) s = .next s' ∧ s'.wg? w.id = some w' ∧ w'.groupOf t0 = some g ∧
       g.col = col ∧ g.base = base ∧ g.f = f ∧ g.u.pc = (w.ust lo).pc ∧ takes g t0 ∧
       g.u.sh.kdiff = live.any (fun u => (sh u).kdiff) ∧
       (∀ u ∈ live, (w'.thr u).arrival = none ∧ (w'.thr u).gen = genSeed (sh lo).srseed (u - t0) ∧
         (w'.thr u).r = (w.thr u).r)) ∧
    (let t0 := 32 * r.col + r.base
     let ts := (List.range (laneCount r.f)).map (t0 + ·)
     (w.thr t).rejoin = some r → ts.filter (fun t => !(w.thr t).exited) = live →
     ((bitsOf 32 r.live.toNat).map (t0 + ·)).filter (fun t => !(w.thr t).exited) = live →
     (∀ u ∈ live, (w.thr u).rejoin = some r ∧ (w.thr u).park = none ∧ (w.thr u).dying = false ∧ (w.ust u).pc = r.pc ∧
       (u = t0 ∨ (w.thr u).fifo = [])) →
     (∀ k ∈ w.groups, k.spans t0 = true → k.t0 ∈ ts) →
     ∃ s' w' g, exec (.refusion w.id t) s = .next s' ∧ s'.wg? w.id = some w' ∧ w'.groupOf t0 = some g ∧
       g.col = r.col ∧ g.base = r.base ∧ g.f = r.f ∧ g.u.pc = r.pc ∧ takes g t0 ∧
       g.u.sh.kdiff = (live.any (fun u => (sh u).kdiff) || live.any fun u => (sh u).k ≠ (sh lo).k) ∧
       (∀ u ∈ live, (w'.thr u).rejoin = none ∧ (w'.thr u).gen = (w.thr u).gen ∧ (w'.thr u).r = (w.thr u).r))) ∧
  (∀ (s : State) (w : Workgroup) (g : Group) (t : Nat), s.wg? w.id = some w → w.groupOf t = some g → g.u.tx = none →
    g.u.sh.splitthr ≠ 0 → g.u.sh.splitthr.toNat < g.low →
    exec (.lowOccupancySplit w.id t) s = .next (s.splitGroup w.id g (fun _ => g.u.pc) (bottomJoin g.stack)))

-- Memory.

/-- Device memory and the clusters' SRAM hold what was written (R10, R271, R273): after a write within one line, the
pipe that wrote reads its bytes back, and every byte apart from them reads as before, by every pipe of every cluster. -/
def Obligations.ReadAfterWrite : Prop :=
  ∀ (s : State) (c p : Nat) (alloc : Bool) (l : Loc) (bs : List Byte),
    (match l with
      | .sram _ _ => True
      | .mem _ a _ => a % 32 + bs.length ≤ 32) →
    let t := s.writeLoc c p alloc l bs
    (t.readLoc c p false l bs.length).2 = bs ∧
    ∀ (c' p' : Nat) (b : Loc), l.apart bs.length b → t.readByte c' p' b = s.readByte c' p' b

/-- R60, R145, R146: a scalar load whose lanes' accesses pass their checks writes in every active lane the bytes at
s[ra] + size · imm, little-endian, sign- or zero-extended, and changes no byte of memory and no other register. Outside
a transaction, for a destination that is no port register.

The bytes that a load reads do not depend on the other lanes' loads: outside a transaction each access reads what its
location holds before the instruction. -/
def Obligations.ScalarLoads : Prop :=
  (∀ (s : State) (x : Issuer) (h : Hint) (rd ra : R5) (imm : BitVec 11) (loc : Nat → Loc) (ent : Nat → Option TlbEnt),
    let f : Fields := fSS rd ra
    let ld := fun (i : Instr) (n : Nat) (ext : BitVec (8 * n) → Word) =>
      let acc := fun t => LaneAcc.mk t (((x.w.thr t).vals f).sa + w64 n * imm.signExtend 64) n
      s.Issues x → s.OperandsReady x f → x.u.tx = none → portOf (.s rd) = none → portOf (.s ra) = none →
      s.AccessReady x .load true (x.active.map acc) (x.active.map fun t => (acc t, .ok (loc t) (ent t))) →
        ∃ t w, exec i s = .next t ∧ t.wg? x.id.wg = some w ∧ (w.ust x.id.t).pc = x.pc + 4 ∧
          (∀ u ∈ x.active, ∀ r : R5,
            (w.thr u).r.sget r = (if r = rd ∧ rd ≠ 0
              then ext (BitVec.ofNat (8 * n) (leNat (s.readLoc x.cl (pipeOf u) false (loc u) n).2))
              else (x.w.thr u).r.sget r) ∧
            (w.thr u).r.v = (x.w.thr u).r.v ∧ (w.thr u).r.q = (x.w.thr u).r.q ∧ (w.thr u).ports = (x.w.thr u).ports) ∧
          (∀ u, u ∉ x.active → (w.thr u).r = (x.w.thr u).r) ∧
          (∀ (c p : Nat) (l : Loc), t.readByte c p l = s.readByte c p l) ∧ t.mem = s.mem
    ld (.lb h rd ra imm) 1 (·.signExtend 64) ∧ ld (.lh h rd ra imm) 2 (·.signExtend 64) ∧
    ld (.lw h rd ra imm) 4 (·.signExtend 64) ∧ ld (.ld h rd ra imm) 8 (·.signExtend 64) ∧
    ld (.lbu h rd ra imm) 1 (·.setWidth 64) ∧ ld (.lhu h rd ra imm) 2 (·.setWidth 64) ∧
    ld (.lwu h rd ra imm) 4 (·.setWidth 64)) ∧
  (∀ (s : State) (x : Issuer) (alloc : Bool) (rs : List (LaneAcc × Probe)), s.Issues x → x.u.tx = none →
    (s.loads x alloc rs).2 = rs.filterMap fun r => match r.2 with
      | .ok l _ => some (r.1, (s.readLoc x.cl (pipeOf r.1.t) false l r.1.n).2)
      | .remote _ _ | .trap _ | .park | .miss => none)

/-- R168, R169, R96, R76: a vector load whose accesses pass their checks loads the active elements, each at its address:
consecutive ones (VLD), at a stride (VLDS), or at signed offsets (VGATH); the other elements keep their values, and the
result is pending until it arrives. -/
def Obligations.VectorLoads : Prop :=
  ∀ (s s' : State) (x : Issuer) (et : ElemTy) (qp : BitVec 3) (rd ra rb : R5) (rs : List (LaneAcc × Probe)),
    let w := et.bits
    let n := w / 8
    let ld := fun (i : Instr) (f : Fields) (addr : Vals → Nat → Word) =>
      let v := fun t => (x.w.thr t).vals f
      let on := fun t => (List.range (256 / w)).filter fun k => (v t).q.getLsbD (w * k / 8)
      s.Issues x → s.OperandsReady x f → portOf (.v rd) = none →
      s.AccessReady x .load true (x.active.flatMap fun t => (on t).map fun k => LaneAcc.mk t (addr (v t) k) n) rs →
      (x.u.tx.isSome = true → ∀ r ∈ rs, txForbids x r.2 = false) → s.txTouch x (locsOf rs) true false = some s' →
        let got := (s'.dropReqs x).loads x true rs
        exec i s = .next (((got.1.txKeep x).commit x f fun t =>
          let bs := (got.2.filter fun b => b.1.t == t).map (·.2)
          { val := mapElems w (v t).q (v t).old fun k =>
              leNat ((((on t).zip bs).find? fun b => b.1 == k).map (·.2) |>.getD []) }).setBusy x.id.wg x.active (.v rd))
    ld (.vld et qp rd ra rb) { a := some (.s ra), b := some (.s rb), qp := qp.toNat, dst := some (.v rd) }
      (fun v k => v.sa + v.sb + w64 (k * n)) ∧
    ld (.vlds et qp rd ra rb) { a := some (.s ra), b := some (.s rb), qp := qp.toNat, dst := some (.v rd) }
      (fun v k => v.sa + w64 k * v.sb) ∧
    ld (.vgath et qp rd ra rb) { a := some (.s ra), b := some (.v rb), qp := qp.toNat, dst := some (.v rd) }
      (fun v k => v.sa + (BitVec.ofNat w (elem w v.b k)).signExtend 64)

/-- R60, R145, R147, R168, R170, R283: a store whose lanes' accesses pass their checks completes. Outside a transaction
it changes no register and no byte of memory apart from those it stores to, which can be read back by the pipe that
stored them, the later lane's and element's where two meet; a store to another cluster's window goes into flight with its
place and its bytes; inside a transaction no byte of memory changes (R295). That a vector store of a whole aligned row is
one store, and so one in flight, is the model's choice (log entry 26).

R145: a store of a split thread, outside a transaction and away from other clusters, can be read back by its pipe. -/
def Obligations.Stores : Prop :=
  (∀ (s s' : State) (x : Issuer) (h : Hint) (et : ElemTy) (qp : BitVec 3) (rs' ra rb : R5) (imm : BitVec 11)
    (rs : List (LaneAcc × Probe)),
    let st := fun (i : Instr) (f : Fields) (accs : Nat → Vals → List (LaneAcc × List Byte)) =>
      let all := x.active.flatMap fun t => accs t ((x.w.thr t).vals f)
      s.Issues x → s.OperandsReady x f → s.AccessReady x .store false (all.map (·.1)) rs → x.remoteFull rs = false →
      (x.u.tx.isSome = true → ∀ r ∈ rs, txForbids x r.2 = false) → s.txTouch x (locsOf rs) false true = some s' →
        ∃ t w, exec i s = .next t ∧ t.wg? x.id.wg = some w ∧ (w.ust x.id.t).pc = x.pc + 4 ∧
          (∀ u, (w.thr u).r = (x.w.thr u).r) ∧
          (∀ (c p : Nat) (b : Loc),
            (x.u.tx.isSome = true ∨ ∀ r ∈ rs, match r.2 with
              | .ok l _ => l.apart r.1.n b
              | .remote _ _ | .trap _ | .park | .miss => True) →
            t.readByte c p b = s.readByte c p b) ∧
          t.remote.length = s.remote.length + (rs.filter fun r => match r.2 with
            | .remote _ _ => true
            | .ok _ _ | .trap _ | .park | .miss => false).length ∧
          t.remote.map (fun r => (r.t, r.target, r.off, r.bytes)) = s.remote.map (fun r => (r.t, r.target, r.off, r.bytes)) ++
            (rs.zip (all.map (·.2))).filterMap (fun r => match r.1.2 with
              | .remote c o => some (r.1.1.t, c, o, r.2)
              | .ok _ _ | .trap _ | .park | .miss => none) ∧
          (x.u.tx = none → ∀ (i : Nat) (r : LaneAcc × Probe) (bs : List Byte),
            rs[i]? = some r → (all.map (·.2))[i]? = some bs → match r.2 with
              | .ok l _ => s.needsLink x r.1 r.2 = false → ∀ k, k < r.1.n →
                  (∀ (j : Nat) (q : LaneAcc × Probe), i < j → rs[j]? = some q → match q.2 with
                    | .ok l' _ => l'.apart q.1.n (l.byte k)
                    | .remote _ _ | .trap _ | .park | .miss => True) →
                  t.readByte x.cl (pipeOf r.1.t) (l.byte k) = bs.getD k 0
              | .remote _ _ | .trap _ | .park | .miss => True)
    let m : Fields := { a := some (.s ra), d := some (.s rs') }
    let one := fun (n t : Nat) (v : Vals) => [(LaneAcc.mk t (v.sa + w64 n * imm.signExtend 64) n, leBytes n v.sd.toNat)]
    st (.sb h rs' ra imm) m (one 1) ∧ st (.sh h rs' ra imm) m (one 2) ∧ st (.sw h rs' ra imm) m (one 4) ∧
    st (.sd h rs' ra imm) m (one 8) ∧
    st (.vst et qp rs' ra rb) { a := some (.s ra), b := some (.s rb), d := some (.v rs'), qp := qp.toNat }
      (fun t v => vecStores x.w et v t fun k => v.sa + v.sb + w64 (k * (et.bits / 8))) ∧
    st (.vscat et qp rs' ra rb) { a := some (.s ra), b := some (.v rb), d := some (.v rs'), qp := qp.toNat }
      (fun t v => vecStores x.w et v t fun k => v.sa + (BitVec.ofNat et.bits (elem et.bits v.b k)).signExtend 64)) ∧
  (∀ (s : State) (x : Issuer) (h : Hint) (rs ra : R5) (imm : BitVec 11) (l : Loc) (e : Option TlbEnt),
    let f : Fields := { a := some (.s ra), d := some (.s rs) }
    let v := (x.w.thr x.id.t).vals f
    let st := fun (i : Instr) (n : Nat) =>
      let acc := LaneAcc.mk x.id.t (v.sa + w64 n * imm.signExtend 64) n
      s.Issues x → x.grp = none → x.u.tx = none → s.OperandsReady x f →
      s.AccessReady x .store false [acc] [(acc, .ok l e)] → s.needsLink x acc (.ok l e) = false →
        ∃ t, exec i s = .next t ∧ leNat (t.readLoc x.cl (pipeOf x.id.t) false l n).2 = v.sd.toNat % 256 ^ n
    st (.sb h rs ra imm) 1 ∧ st (.sh h rs ra imm) 2 ∧ st (.sw h rs ra imm) 4 ∧ st (.sd h rs ra imm) 8)

/-- R146, R377: a scalar load or store in which a lane's access is not aligned, or is refused by translation, protection
or a failed check, and no lane's translation has still to be walked, completes in no lane: exactly the lanes whose
access fails trap, each with its own cause and its address. Inside a transaction an access that the transaction does not
allow aborts it before that (R299).

R146: an access that is not aligned to its size fails with cause 0x04 before its address is translated. -/
def Obligations.AccessTraps : Prop :=
  (∀ (s : State) (x : Issuer) (h : Hint) (rd ra : R5) (imm : BitVec 11),
    let tr := fun (i : Instr) (f : Fields) (k : Access) (n : Nat) =>
      let acc := fun t => LaneAcc.mk t (((x.w.thr t).vals f).sa + w64 n * imm.signExtend 64) n
      let bad := fun t => match s.chk x k (decide (k = .load)) (acc t) with
        | .bad _ c => some (t, c, (acc t).va)
        | .good _ _ | .wait _ => none
      s.Issues x → s.OperandsReady x f → (∀ t ∈ x.active, s.chk x k (decide (k = .load)) (acc t) ≠ .wait (acc t)) →
      x.active.filterMap bad ≠ [] →
        ((x.u.tx.isSome = true → ∀ t ∈ x.active, s.txForbidden x k (acc t) = false) →
          exec i s = .next (s.trapLanes x false (x.active.filterMap bad))) ∧
        (x.u.tx.isSome = true → (∃ t ∈ x.active, s.txForbidden x k (acc t) = true) →
          exec i s = .next (s.abortExplicit x))
    let l : Fields := fSS rd ra
    let m : Fields := { a := some (.s ra), d := some (.s rd) }
    tr (.lb h rd ra imm) l .load 1 ∧ tr (.lh h rd ra imm) l .load 2 ∧ tr (.lw h rd ra imm) l .load 4 ∧
    tr (.ld h rd ra imm) l .load 8 ∧ tr (.lbu h rd ra imm) l .load 1 ∧ tr (.lhu h rd ra imm) l .load 2 ∧
    tr (.lwu h rd ra imm) l .load 4 ∧ tr (.sb h rd ra imm) m .store 1 ∧ tr (.sh h rd ra imm) m .store 2 ∧
    tr (.sw h rd ra imm) m .store 4 ∧ tr (.sd h rd ra imm) m .store 8) ∧
  (∀ (s : State) (x : Issuer) (k : Access) (reads : Bool) (a : LaneAcc), a.va.toNat % a.n ≠ 0 →
    s.chk x k reads a = .bad a 4)

/-- The events of loads and stores. R76: PENDING_RESULT lets readers of the register pass. R271, R297: L1_EVICTION
writes the line's dirty bytes home, drops it and dooms the transactions that hold it. R274: EPOCH_END, after 2^20
clocks, replicates the pages read often from other dies and not written, and starts the counts anew. -/
def Obligations.LoadStoreEvents : Prop :=
  ∀ (s : State) (w : Workgroup) (t c n : Nat) (r : RegName) (l : L1Line), s.wg? w.id = some w →
    ((∀ o ∈ (s.cl w.cluster).mq, ¬(o.wg = w.id ∧ t ∈ o.lanes ∧ ∃ k sl rd, o.ins = .mstat k sl rd ∧ r = .s rd)) →
      exec (.pendingResult w.id t r) s = .next (s.modThr w.id t fun th => { th with busy := th.busy.filter (· ≠ r) })) ∧
    ((s.cl c).l1[n]? = some l →
      exec (.l1Eviction c n) s = .next (((if l.dirty = 0 then s else s.lineHome c l).l1drop c fun k =>
        k.bank == l.bank && k.sp == l.sp && k.line == l.line).txLines c)) ∧
    (s.epochAt + 2 ^ 20 ≤ s.clock →
      exec .epochEnd s = .next { s with
        epochAt := s.clock
        pages := s.pages.map fun p => (p.1, { p.2 with
          reads := 0, writes := 0
          replicated := p.2.replicated || (decide (256 ≤ p.2.reads) && decide (p.2.writes = 0)) }) })

/-- R268, R277, R283: a store to another cluster's window, oldest in flight to its line of those of its thread and of its
instruction (R147, R170), is performed when it arrives, if a workgroup of the launch runs on the target: the bytes stand
at its window offset, nothing else of any cluster's SRAM changes, and the acknowledgement is on its way. Where none runs
there, nothing is written and the refusal is on its way. When either is back, the store is over and the thread's count of
stores in flight falls, whichever it is; its flag's event occurs with the last store of the instruction (R72); a refusal
also posts the error WINDOW with the store's address, or counts it as lost where no mailbox entry is free (R311, R339). A
task that has ended hears nothing of it. -/
def Obligations.RemoteStores : Prop :=
  ∀ (s : State) (r : RemoteStore) (pre post : List RemoteStore) (v : Workgroup),
    s.remote = pre ++ r :: post → (∀ q ∈ pre ++ post, q.id ≠ r.id) →
    (r.done = none →
      (∀ q ∈ pre, ¬(q.done = none ∧ q.wg = r.wg ∧ (q.t = r.t ∨ q.batch = r.batch) ∧ q.target = r.target ∧
        q.off / 32 = r.off / 32)) →
      (s.target? r.launch r.target = some v →
        ∃ t, exec (.remoteStoreArrive r.id) s = .next t ∧
          t.remote = pre ++ { r with done := some false } :: post ∧
          t.sramBytes r.target (v.phys r.off) r.bytes.length = r.bytes ∧
          (∀ c o, (c ≠ r.target ∨ o < v.phys r.off ∨ v.phys r.off + r.bytes.length ≤ o) →
            t.sramBytes c o 1 = s.sramBytes c o 1) ∧ t.mem = s.mem) ∧
      (s.target? r.launch r.target = none →
        ∃ t, exec (.remoteStoreArrive r.id) s = .next t ∧
          t.remote = pre ++ { r with done := some true } :: post ∧ (∀ c, (t.cl c).sram = (s.cl c).sram) ∧
          t.mem = s.mem)) ∧
    (∀ refused, r.done = some refused →
      ∃ t, exec (.remoteStoreAck r.id) s = .next t ∧ t.remote = pre ++ post ∧ (∀ c, (t.cl c).sram = (s.cl c).sram) ∧
        (refused = false → t.mem = s.mem) ∧
        ∀ w, s.wg? r.wg = some w → s.saved? r.wg = none →
          let th := w.thr r.t
          let th' := t.thr r.wg r.t
          t.mem = s.mem ∧ th'.r = th.r ∧
          (w.sameTask r.t r.taskAt = false → th' = th) ∧
          (w.sameTask r.t r.taskAt = true →
            th'.remote = th.remote - 1 ∧
            (∀ cf, r.flag = some { wg := r.wg, lanes := [r.t], cf := cf, taskAt := r.taskAt } → s.linkReqs = [] →
              (∀ q ∈ pre ++ post, ¬(q.batch = r.batch ∧ q.wg = r.wg ∧ q.t = r.t)) →
              mget 0 th'.cf cf = mget 0 th.cf cf - 1) ∧
            (refused = false ∨ w.mute r.t = true → th'.mbox = th.mbox) ∧
            (refused = true → w.mute r.t = false → th.mbox.free ≠ 0 →
              th'.mbox = { th.mbox with msgs := th.mbox.msgs ++ [{ body := r.va, hdr := w64 (2 * 2 ^ 60 + 2 ^ 40) }] }) ∧
            (refused = true → w.mute r.t = false → th.mbox.free = 0 →
              th'.mbox = { th.mbox with lost := min (th.mbox.lost + 1) 65535 })))

/-- R286 to R288, R76: an atomic whose operands and accesses pass their checks performs the lanes' indivisible steps in
ascending lane order, a release before them and an acquire after them where the order asks for one, at the scope that
each lane names (of RECT, in s27), and gives each lane its value, pending until it arrives. LDAQ is the acquiring load,
STRL the releasing store, which may reach another cluster's window. On host and PCIe peer memory only additions, swaps
and compare-and-swaps exist: any other one traps 0x08 in the lanes that name it.

R287, R94: one lane's atomic step outside a transaction, on SRAM and at the home of device memory: the lane receives the
old value, sign-extended from 32 bits for every 32-bit operation but AMOFADD, and memory takes the new one.

That LDAQ enters its line in a transaction's read set alone is the model's choice (log entry 106). -/
def Obligations.Atomics : Prop :=
  (∀ (s s' : State) (x : Issuer) (sz : Bool) (sc : Scope) (o : Ord) (rd ra rb : R5) (rs : List (LaneAcc × Probe)),
    let n := if sz then 4 else 8
    let at' := fun (i : Instr) (op : Aop) (o : Ord) (f : Fields) =>
      let rel := o = .rel ∨ o = .ar
      let acq := o = .acq ∨ o = .ar
      let vals := fun t => (x.w.thr t).vals f
      s.Issues x → s.OperandsReady x f →
      s.AccessReady x (if op = .ldaq then .load else .atomic) true (x.active.map fun t => ⟨t, (vals t).sa, n⟩) rs
        (some (scopeWide sc)) →
      (x.u.tx.isSome = true → scopeWide sc = false ∧ ∀ r ∈ rs, txForbids x r.2 = false) →
      let pcie := fun (r : LaneAcc × Probe) => ∃ l e, r.2 = .ok l e ∧ isPcie l = true
      ((∀ r ∈ rs, pcie r → op = .add ∨ op = .swap ∨ op = .cas) → s.farAtomics sc rs = [] →
        (rel → s.releaseWaits x x.active sc = false) → s.txTouch x (locsOf rs) true (decide (op ≠ .ldaq)) = some s' →
          let lane := fun t => laneScope sc (vals t).sc
          let s1 := if rel then s'.releaseEach x.cl x.active lane else s'
          let r := (s1.dropReqs x).atoms x op sc n vals rs
          let s2 := if acq then r.1.acquireEach x.cl x.active lane else r.1
          let t := (s2.txKeep x).commit x f fun u => .ofS (((r.2.find? fun w => w.1 == u).map (·.2)).getD 0)
          exec i s = .next (if portOf (.s rd) ≠ none ∨ rd = 0 then t else t.setBusy x.id.wg x.active (.s rd))) ∧
      (x.u.tx = none → ¬(op = .add ∨ op = .swap ∨ op = .cas) → (∃ r ∈ rs, pcie r) →
        exec i s = .next (s.trapLanes x false (rs.filterMap fun r => match r.2 with
          | .ok l _ => if isPcie l = true then some (r.1.t, 8, r.1.va) else none
          | .remote _ _ | .trap _ | .park | .miss => none)))
    let rect := if sc = .rect then some (RegName.s 27) else none
    let f2 : Fields := { a := some (.s ra), b := some (.s rb), c := rect, dst := some (.s rd) }
    at' (.amoadd sz sc o rd ra rb) .add o f2 ∧ at' (.amoand sz sc o rd ra rb) .and o f2 ∧
    at' (.amoor sz sc o rd ra rb) .or o f2 ∧ at' (.amoxor sz sc o rd ra rb) .xor o f2 ∧
    at' (.amomin sz sc o rd ra rb) .min o f2 ∧ at' (.amomax sz sc o rd ra rb) .max o f2 ∧
    at' (.amominu sz sc o rd ra rb) .minu o f2 ∧ at' (.amomaxu sz sc o rd ra rb) .maxu o f2 ∧
    at' (.amoswap sz sc o rd ra rb) .swap o f2 ∧ at' (.amofadd sz sc o rd ra rb) .fadd o f2 ∧
    at' (.amocas sz sc o rd ra rb) .cas o { f2 with d := some (.s rd) } ∧
    at' (.ldaq sz sc rd ra) .ldaq .acq { a := some (.s ra), c := rect, dst := some (.s rd) } ∧
    (let f : Fields := { a := some (.s ra), b := some (.s rb), c := rect }
     let vals := fun t => (x.w.thr t).vals f
     s.Issues x → s.OperandsReady x f → x.u.tx = none →
     s.AccessReady x .store false (x.active.map fun t => ⟨t, (vals t).sa, n⟩) rs →
     (∀ r ∈ rs, match r.2 with
       | .ok l _ => isPcie l = false ∧ (s.linkUp = true ∨ ∀ d pa nc, l ≠ .mem (.peer d) pa nc)
       | .remote _ _ => True
       | .trap _ | .park | .miss => False) →
     s.releaseWaits x x.active sc = false → x.remoteFull rs = false →
       let s1 := s.releaseEach x.cl x.active fun t => laneScope sc (vals t).sc
       exec (.strl sz sc ra rb) s = .next (((rs.foldl (fun (s : State) r =>
         let bs := leBytes n (vals r.1.t).sb.toNat
         match r.2 with
         | .ok l e => (((s.meet x l true).noteTlb x.cl (pipeOf r.1.t) e).atomRead x r.1.t sc l n).1.atomWrite x sc l bs
         | .remote _ _ | .trap _ | .park | .miss => s.storeOne x true s1.nextId r.1 r.2 bs) s1).storeFlag x s1.nextId rs).commit
           x f fun _ => {}))) ∧
  (∀ (s : State) (x : Issuer) (op : Aop) (sc : Scope) (sz : Bool) (v : Vals) (a : LaneAcc) (e : Option TlbEnt)
    (c off pa : Nat) (nc : Bool), s.Issues x → x.u.tx = none →
    let n := if sz then 4 else 8
    let w := 8 * n
    let new := fun old : Nat =>
      let p := BitVec.ofNat w old
      let q := v.sb.setWidth w
      match op with
      | .add => (p + q).toNat
      | .and => (p &&& q).toNat
      | .or => (p ||| q).toNat
      | .xor => (p ^^^ q).toNat
      | .min => (if p.slt q then p else q).toNat
      | .max => (if p.slt q then q else p).toNat
      | .minu => (if p.ult q then p else q).toNat
      | .maxu => (if p.ult q then q else p).toNat
      | .swap => q.toNat
      | .fadd => fAddPlain (if sz then .f32 else .f64) old q.toNat
      | .cas => if p = v.sd.setWidth w then q.toNat else old
      | .ldaq => old
    let word := fun old : Nat => if sz = true ∧ op ≠ .fadd then (BitVec.ofNat 32 old).signExtend 64 else w64 old
    (let old := leNat (s.sramBytes c off n)
     let r := s.atomOne x op sc n v a (.sram c off) e
     r.2 = word old ∧ r.1.sramBytes c off n = leBytes n (new old)) ∧
    (scopeWide sc = true ∨ nc = true →
      let old := leNat ((s.toHomeUnit x.cl .dev pa).homeBytes .dev pa n)
      let r := s.atomOne x op sc n v a (.mem .dev pa nc) e
      r.2 = word old ∧ r.1.homeBytes .dev pa n = leBytes n (new old)))

/-- R75, R290 to R292, R293, R56: outside a transaction, with the stores that a release waits for acknowledged, FENCE
performs the release and the acquire that its kinds ask for, at the scope that each lane names: RECT with a rectangle
that is none of the device's, its corners x0, y0, x1, y1 in bits 5:0, 11:6, 17:12 and 23:18, acts as DEVICE (R32). That
ENG and IO ask for a release, and ENG for an acquire too, is the model's choice (log entry 23). IFENCE empties the
cluster's instruction cache after a release at SYSTEM scope, and WAITF goes on when no flag of its mask is set in a live
lane. ACQH marks the unit critical for 200 µs, RELH ends the mark, and CRIT_EXPIRY ends it when its time has passed. -/
def Obligations.Fences : Prop :=
  ∀ (s : State) (x : Issuer) (sc : Scope) (kinds : BitVec 5) (io : Bool) (ra : R5) (mask : BitVec 12) (w : Workgroup)
    (t d : Nat),
    (s.wg? w.id = some w → (w.ust t).sh.crit = some d → d ≤ s.clock →
      exec (.critExpiry w.id t) s = .next (s.modUnit w.id t fun u => { u with sh := { u.sh with crit := none } })) ∧
    (s.Issues x → x.u.tx = none →
    let rel := kinds.getLsbD 4 ∨ kinds.getLsbD 3 ∨ kinds.getLsbD 2 ∨ io = true
    let acq := kinds.getLsbD 4 ∨ kinds.getLsbD 2 ∨ kinds.getLsbD 0
    let f : Fields := { a := if sc = .rect then some (.s ra) else none }
    let next := fun (s : State) => s.setPc x (x.pc + 4)
    (s.OperandsReady x f → (rel → s.releaseWaits x x.live sc = false) →
      let lane := fun t => laneScope sc ((x.w.thr t).vals f).sa
      let s1 := if rel then s.releaseEach x.cl x.live lane else s
      let s2 := if acq then s1.acquireEach x.cl x.live lane else s1
      exec (.fence sc kinds io ra) s = .next (next (s2.popAll x f))) ∧
    (s.releaseWaits x x.live .system = false →
      exec .ifence s = .next (next ((s.release x.cl x.live .system).modCl x.cl fun cl => { cl with icache := [] }))) ∧
    ((∀ t ∈ x.live, ∀ k, k < 12 → mask.getLsbD k = true → mget 0 (x.w.thr t).cf k = 0) →
      exec (.waitf mask) s = .next (next s)) ∧
    exec .acqh s = .next (next (s.modSh x fun h =>
      { h with crit := some (h.crit.getD (s.clock + 200 * s.rateKHz / 1000)) })) ∧
    exec .relh s = .next (next (s.modSh x fun h => { h with crit := none }))) ∧
    (∀ r : Word,
      let corner := fun (i : Nat) => (r.extractLsb' i 6).toNat
      laneScope sc r = if sc = .rect ∧ (corner 12 < corner 0 ∨ corner 18 < corner 6 ∨ 35 < corner 12 ∨ 15 < corner 18)
        then .device else sc)

/-- R279: what a release and an acquire of a pipe do with its cluster's L1 lines. At PIPE both do nothing.

A release at QUAD or CLUSTER writes the dirty bytes of the pipe's private bank into the cluster-shared part, which then
gives them, and nothing to device memory where the part has room; the bank is clean afterwards. A release at DIE, DEVICE,
RECT, DOMAIN or SYSTEM leaves no dirty line of device memory in the cluster, and a dirty byte, where the banks that hold
it agree on it, stands at its home.

An acquire at QUAD or CLUSTER leaves no clean line in the pipe's private bank, one at DIE or wider none there and none in
the cluster-shared part; other banks keep their lines. It drops no dirty line and changes no dirty byte, and writes no
memory. The clean bytes of the lines that it leaves are brought up to date from the level below (R281). -/
def Obligations.ReleaseAndAcquire : Prop :=
  ∀ (s : State) (c p : Nat) (sc : Scope) (pa : Nat),
    let b := s.bankOf c p
    let near := sc = .quad ∨ sc = .cluster
    let far := sc = .die ∨ sc = .device ∨ sc = .rect ∨ sc = .domain ∨ sc = .system
    let rel := s.releaseAt c p sc
    let acq := s.acquireAt c p sc
    let lines := fun (t : State) => (t.cl c).l1
    let clean := fun (l : L1Line) (i : Nat) => i < 32 ∧ l.dirty.getLsbD i = false
    s.releaseAt c p .pipe = s ∧ s.acquireAt c p .pipe = s ∧
    (near → b = 32 → rel = s ∧ acq = s) ∧
    (near → b ≠ 32 →
      (∀ k ∈ lines rel, k.bank = b → k.dirty = 0) ∧
      (∀ k ∈ lines s, k.bank = b → k.sp = .dev → k.line = pa / 32 → k.dirty.getLsbD (pa % 32) = true →
        (∀ j ∈ lines s, j.bank = b → j.sp = .dev → j.line = pa / 32 → j.dirty.getLsbD (pa % 32) = true →
          vbyte j.data (pa % 32) = vbyte k.data (pa % 32)) →
        vbyte (rel.l1line c 32 .dev (pa / 32)).data (pa % 32) = vbyte k.data (pa % 32)) ∧
      (((lines s).filter fun l => l.bank == 32).length +
          ((lines s).filter fun l => l.bank == b && l.dirty ≠ 0).length ≤ s.l1cap c 32 → rel.mem = s.mem) ∧
      (∀ k ∈ lines acq, k.bank = b → k.dirty ≠ 0) ∧
      (∀ k, k.bank ≠ b → (k ∈ lines acq ↔ k ∈ lines s)) ∧
      (∀ k ∈ lines acq, k.bank = b → ∀ i, clean k i →
        vbyte k.data i = vbyte (acq.l1line c 32 k.sp k.line).data i)) ∧
    (far →
      (∀ k ∈ lines rel, k.sp = .dev → k.dirty = 0) ∧
      (∀ k ∈ lines s, k.sp = .dev → k.line = pa / 32 → k.dirty.getLsbD (pa % 32) = true →
        (∀ j ∈ lines s, j.sp = .dev → j.line = pa / 32 → j.dirty.getLsbD (pa % 32) = true →
          vbyte j.data (pa % 32) = vbyte k.data (pa % 32)) →
        rel.homeByte .dev pa = vbyte k.data (pa % 32)) ∧
      (∀ k ∈ lines acq, k.bank = b ∨ k.bank = 32 → k.dirty ≠ 0) ∧
      (∀ k, k.bank ≠ b → k.bank ≠ 32 → (k ∈ lines acq ↔ k ∈ lines s)) ∧
      (∀ k ∈ lines acq, k.bank = 32 → ∀ i, clean k i → vbyte k.data i = acq.homeByte k.sp (32 * k.line + i)) ∧
      (b ≠ 32 → ∀ k ∈ lines acq, k.bank = b → ∀ i, clean k i →
        vbyte k.data i = vbyte (acq.l1line c 32 k.sp k.line).data i)) ∧
    (∀ k ∈ lines s, k.dirty ≠ 0 → ∃ j ∈ lines acq, j.bank = k.bank ∧ j.sp = k.sp ∧ j.line = k.line ∧ j.dirty = k.dirty ∧
      ∀ i, i < 32 → k.dirty.getLsbD i = true → vbyte j.data i = vbyte k.data i) ∧
    acq.mem = s.mem ∧ acq.outside = s.outside

/-- R76, R294, R297, R300: TXBEGIN, once no register's result is pending, opens a transaction with a checkpoint of the
live lanes' registers, the uniform registers and FCSR, resuming after it, acquires at CLUSTER scope and writes 0. TXEND
makes the buffered bytes visible, adds the keyed steps' counts, and closes the transaction; TXABORT and a doomed
transaction's TX_ABORT restore the checkpoint. Without an open transaction TXEND and TXABORT do nothing. TXSTAT writes
the last status, with bit 32 while a transaction is open.

R298: an abort restores the checkpoint and gives s[rd] of the TXBEGIN the status, that of the cause which doomed the
transaction where one did (R297), in the lanes that were active there; the thread resumes at the checkpoint's PC outside
any transaction. Nothing that the transaction wrote is visible: memory and the clusters stay as they are. The trap
registers stay. Stated for a split thread and for the lanes of a group. -/
def Obligations.Transactions : Prop :=
  (∀ (s : State) (x : Issuer) (rd : R5) (code : BitVec 8) (y : Tx) (st : BitVec 24) (w : Workgroup) (t : Nat),
    (s.wg? w.id = some w → (w.ust t).tx = some y → y.doomed = some st →
      exec (.txAbort w.id t) s = .next (s.txAbort w.id t st)) ∧
    (s.Issues x →
    let next := fun (s : State) => s.setPc x (x.pc + 4)
    (x.u.tx = none → s.OperandsReady x { dst := some (.s rd) } → x.pending = true → exec (.txbegin rd) s = .next s.stall) ∧
    (x.u.tx = none → s.OperandsReady x { dst := some (.s rd) } → x.pending = false →
      ∃ s' z, exec (.txbegin rd) s = .next s' ∧
        s' = (((s.acquire x.cl x.active .cluster).commit x { dst := some (.s rd) } fun _ => .ofS 0).modU x fun u =>
          { u with tx := some z }) ∧
        z.rd = rd ∧ z.pc = x.pc + 4 ∧ z.regs = (x.live.map fun t => (t, (x.w.thr t).r)) ∧ z.k = x.u.sh.k ∧
        z.fcsr = x.u.sh.fcsr ∧ z.reads = [] ∧ z.writes = [] ∧ z.redoSram = [] ∧ z.redoMem = [] ∧ z.doomed = none ∧
        (∀ g, x.grp = some g → z.active = g.active ∧ z.stack = g.stack)) ∧
    (x.u.tx = none → exec .txend s = .next (next s) ∧ exec (.txabort code) s = .next (next s)) ∧
    (x.u.tx = some y → y.doomed = none →
      let s1 := (((s.txPublish x y).modWg x.id.wg fun w => { w with kt := (w.kt.zip y.ktd).map fun k => k.1.bump k.2 }).release
        x.cl (x.live.take 1) .cluster).modThrs x.id.wg x.live fun _ th =>
          { th with storeFlags := th.storeFlags.map fun r => { r with inTx := false } }
      exec .txend s = .next (next (s1.modU x fun u => { u with tx := none, txLast := 0 }))) ∧
    (x.u.tx = some y → exec (.txabort code) s = .next (s.txAbort x.id.wg x.id.t (abortStatus 5 code.toNat 0))) ∧
    s.Completes x { dst := some (.s rd) } (.txstat rd) (fun _ _ =>
      .ofS (x.u.txLast.setWidth 64 ||| (if x.u.tx.isSome then 0x100000000 else 0))))) ∧
  (∀ (s : State) (w : Workgroup) (t : Nat) (y : Tx) (st : BitVec 24) (l : LaneRegs), s.wg? w.id = some w →
    (w.ust t).tx = some y →
    let s' := s.txAbort w.id t st
    let st := y.doomed.getD st
    { s' with wgs := s.wgs } = s ∧
    ∃ w', s'.wg? w.id = some w' ∧ (w'.ust t).tx = none ∧ (w'.ust t).txLast = st ∧ (w'.ust t).pc = y.pc ∧
      (w'.ust t).sh.k = y.k ∧ (w'.ust t).sh.fcsr = y.fcsr ∧ (w'.ust t).sh.priv = (w.ust t).sh.priv ∧
      (∀ u, (w'.thr u).trapcause = (w.thr u).trapcause ∧ (w'.thr u).trappc = (w.thr u).trappc ∧
        (w'.thr u).trapval = (w.thr u).trapval) ∧
      (w.groupOf t = none → y.regs = [(t, l)] → (w'.thr t).r = l.sset y.rd (st.setWidth 64)) ∧
      (∀ g, w.groupOf t = some g → (y.regs.map (·.1)).Nodup → ∀ e ∈ y.regs, ∃ h, w'.groupOf t = some h ∧
        h.active = y.active ∧ h.stack = y.stack ∧
        (w'.thr e.1).r = if e.1 ∈ g.lanesOf y.active then e.2.sset y.rd (st.setWidth 64) else e.2))

-- The machine as a whole.

/-- R19, R20, R49, R59, R72, R265: when a pipe's turn is next, the pipe has not had this clock, and the first selectable
candidate of the pipe, or of the lowest pipe of a group that issues in it, is free to issue, the word at the unit's PC
decodes and may stand where it does, and the flag that it is assigned is not full, the step is that
instruction's meaning at the fetched state, the claused run and the low-occupancy count having moved on; where the
instruction was ready, the pipe has selected the unit and the turn's clocks pass. A word that no instruction cache holds
is the four bytes at its address, byte 0 lowest.

Which agent moves is the model's agenda (log entries 1, 2 and 9). -/
def Obligations.StepRunsDecoded : Prop :=
  (∀ (s s3 s5 : State) (c p q n : Nat) (rest : List Turn) (k : Cand) (ks : List Cand) (x y : Issuer) (w : Insn) (i : Instr),
    s.stopped = false → s.agenda = ⟨.pipe c p, n⟩ :: rest → s.pipeUsed c p = false → s.pipeDone c p = false →
    ({ s with agenda := rest } : State).leadPipe c p = q →
    let s0 : State := ({ s with agenda := rest } : State).yieldTick (s.candidates c q)
    s0.selectable c (s.candidates c q) = k :: ks →
    let s1 : State := { s0 with cur := some k.id, stalled := false, curFlag := none }
    let s2 := s1.reconverged x
    s1.issuer? = some x → s1.heldBack x = false → x.u.tx.bind (·.doomed) = none →
    s2.issuer? = some y → (∀ g, y.grp = some g → g.lowSplit = false) → s2.fetch y = .word s3 w → decode w = .ok i →
    (∀ r, y.u.clause = some r → r.left ≤ 1 ∨ endsClause i = false) →
    (∀ cf, flagFor y.u i = some cf → ∀ t ∈ y.active, mget 0 (y.w.thr t).cf cf ≠ 63) →
    let s4 : State := { (s3.modU y fun u => { u with clause := u.clause.bind fun r => r.next (bearsFlag i) }).modG y
      Group.noteLow with curFlag := flagFor y.u i }
    exec i s4 = .next s5 → s5.stalled = false → step s = .next ((s5.selected s0 c q (s0.pipesOf k.id) k).settle n)) ∧
  (∀ (s : State) (x : Issuer) (sp : Space) (pa : Nat) (nc : Bool) (e : Option TlbEnt),
    s.probe x.w x.lead x.u.sh.priv .fetch x.pc 4 = .ok (.mem sp pa nc) e →
    (s.cl x.cl).icache.find? (fun k => k.1 == outsideKey sp pa) = none → s.farLoc (.mem sp pa nc) = false →
      s.memFail sp pa 4 = none →
      ∃ t, s.fetch x = .word t (BitVec.ofNat 32 (leNat (s.homeBytes sp pa 4))) ∧
        t.wgs = (s.meet x (.mem sp pa nc) false).wgs ∧ t.mem = s.mem)

/-- Every step of the device goes on: no state makes the step fault or refuse, whatever the agenda names.

The agenda, and the order where it is empty, are the model's (log entries 1 and 5). -/
def Obligations.EveryStepStepsOn : Prop :=
  ∀ s : State, s.StepsOn

/-- Every step keeps device memory in its canonical form, in every state: whatever moves, an instruction of any unit or
any event of the device or of its host. -/
def Obligations.MemoryInvariant : Prop :=
  ∀ s t : State, s.MemoryOk → step s = .next t → t.MemoryOk

/-- R421: right after module reset all device memory and SRAM read as zero with valid checks, no TLB entry, no L1 line
and no landing window is valid, every semaphore holds 0, every dependence slot is free and the BAR2 aperture base is 0.

What memory outside the device holds is open (log entry 7). -/
def Obligations.ResetState : Prop :=
  let s := State.reset
  s.MemoryOk ∧ (∀ a, s.homeByte .dev a = 0) ∧ (∀ a n, s.homeFail a n = none) ∧
  (∀ c o n, s.sramBytes c o n = List.replicate n 0 ∧ s.sramFail c o n = none) ∧
  (∀ c, (s.cl c).tlb = [] ∧ (s.cl c).l1 = [] ∧ (s.cl c).icache = [] ∧ ∀ n, ((s.cl c).window n).st = .closed) ∧
  (∀ i, mget 0 s.sems i = 0) ∧ (∀ i, mfind s.deps i = none) ∧ s.aperture = 0

-- Traps, the system and its registers.

/-- R378: taking a trap. At U with the cause delegated, a TRAPVEC and UHND clear, the thread goes to TRAPVEC at U and
UHND is set. Otherwise a thread whose S handler is running is killed, which ends it once its outgoing port values are
delivered (R392); any other one shadows its U trap registers, takes the trap's, remembers its level and goes to STVEC at
S. A page fault parks the thread at its instruction, under the ticket of the failed translation (R387); the first thread
that it parks posts the fault record and gives it the next ticket (R388).

R193, R379: TRET goes to the TRAPPC of the lowest active lane. Each active lane at S with SHND set takes back the U trap
registers and clears SHND; at U with UHND set it clears UHND; the level becomes what the lowest active lane's case sets.
-/
def Obligations.Traps : Prop :=
  (∀ (s : State) (w : Workgroup) (t cause : Nat) (fused : Bool) (val pc : Word), s.wg? w.id = some w →
    let th := w.thr t
    let c := s.ctx w.ctx
    let s' := s.takeTrap w.id t fused cause val pc
    let code := w64 ((if fused then 256 else 0) + cause)
    let toU := th.u.sh.priv = .u ∧ c.sdeleg.getLsbD cause = true ∧ th.u.sh.trapvec ≠ 0 ∧ th.uhnd = false
    (¬(5 ≤ cause ∧ cause ≤ 7) →
      (toU → ∃ w', s'.wg? w.id = some w' ∧ (w'.thr t).trapcause = code ∧ (w'.thr t).trappc = pc ∧
        (w'.thr t).trapval = val ∧ (w'.thr t).uhnd = true ∧ (w'.thr t).u.pc = th.u.sh.trapvec ∧
        (w'.thr t).u.sh = th.u.sh ∧ (w'.thr t).r = th.r ∧ (w'.thr t).utcause = th.utcause ∧
        (w'.thr t).shnd = th.shnd) ∧
      (¬toU → th.shnd = true → ∀ w', s'.wg? w.id = some w' → t < 128 →
        (th.portsSent = true → (w'.thr t).exited = true) ∧
        (th.portsSent = false → (w'.thr t).dying = true ∧ (w'.thr t).exited = th.exited ∧ (w'.thr t).ports = th.ports)) ∧
      (¬toU → th.shnd = false → ∃ w', s'.wg? w.id = some w' ∧ (w'.thr t).utcause = th.trapcause ∧
        (w'.thr t).utpc = th.trappc ∧ (w'.thr t).utval = th.trapval ∧ (w'.thr t).trapcause = code ∧
        (w'.thr t).trappc = pc ∧ (w'.thr t).trapval = val ∧
        (w'.thr t).ppriv = (match th.u.sh.priv with | .u => 0 | .s => 1) ∧ (w'.thr t).shnd = true ∧
        (w'.thr t).u.sh = { th.u.sh with priv := .s } ∧ (w'.thr t).u.pc = c.stvec ∧ (w'.thr t).r = th.r ∧
        (w'.thr t).uhnd = th.uhnd)) ∧
    (5 ≤ cause ∧ cause ≤ 7 → ∀ e,
      (s.cl w.cluster).merge.find? (fun m => m.ctx == w.ctx && m.vpn == vpnOf val 0) = some e →
      (∃ w', s'.wg? w.id = some w' ∧ (w'.thr t).park = some ⟨e.ticket.getD s.nextTicket, cause, val, fused⟩ ∧
        (w'.thr t).u.pc = th.u.pc ∧ (w'.thr t).r = th.r ∧ (w'.thr t).trapcause = th.trapcause) ∧
      (e.ticket ≠ none → s'.faults = s.faults ∧ s'.nextTicket = s.nextTicket) ∧
      (e.ticket = none → s'.nextTicket = (s.nextTicket + 1) % 2 ^ 32 ∧
        ∃ q, s'.faults = s.faults ++ [q] ∧ q.va = val ∧ q.pc = pc ∧ q.ticket = s.nextTicket ∧ q.ctx = w.ctx ∧
          q.cause = cause ∧ q.fused = fused ∧ q.malformed = e.failed.getD false))) ∧
  (∀ (s : State) (x : Issuer), s.Issues x → x.u.tx = none → x.lead ∈ x.active → (x.w.thr x.lead).ppriv.toNat < 2 →
    let low := x.w.thr x.lead
    ∃ t w, exec .tret s = .next t ∧ t.wg? x.id.wg = some w ∧ (w.ust x.id.t).pc = low.trappc ∧
      (w.ust x.id.t).sh = { x.u.sh with
        priv := if x.u.sh.priv = .s ∧ low.shnd = true then (if low.ppriv = 0 then .u else .s) else x.u.sh.priv } ∧
      (∀ u ∈ x.active, (w.thr u).r = (x.w.thr u).r ∧
        (x.u.sh.priv = .s → (x.w.thr u).shnd = true →
          (w.thr u).trapcause = (x.w.thr u).utcause ∧ (w.thr u).trappc = (x.w.thr u).utpc ∧
          (w.thr u).trapval = (x.w.thr u).utval ∧ (w.thr u).shnd = false ∧ (w.thr u).uhnd = (x.w.thr u).uhnd) ∧
        (x.u.sh.priv = .u → (x.w.thr u).uhnd = true →
          (w.thr u).uhnd = false ∧ (w.thr u).trapcause = (x.w.thr u).trapcause ∧ (w.thr u).trappc = (x.w.thr u).trappc ∧
          (w.thr u).trapval = (x.w.thr u).trapval ∧ (w.thr u).shnd = (x.w.thr u).shnd)) ∧
      t.mem = s.mem ∧ t.clusters = s.clusters)

/-- R65, R71, R192, R194: TRAP, BREAK and a word that is no instruction trap in every active lane, with causes 0x0C,
0x0B and 0x01 and the code or the word as TRAPVAL (a branch or jump that may not stand at its place of a clause splits a
group as a branch does, R48); CLAUSE opens a claused run once no flag of its wait mask is set in a
live lane; FEATQ answers in every active lane, and 0 for an identifier that is not assigned. -/
def Obligations.SystemInstructions : Prop :=
  ∀ (s : State) (x : Issuer) (code wait : BitVec 12) (w : Insn) (f1 f2 cls : BitVec 4) (len : BitVec 3)
    (index : BitVec 8) (rd : R5), s.Issues x →
    let all := fun (c : Nat) (v : Word) => s.trapLanes x false (x.active.map fun t => (t, c, v))
    (x.u.tx = none → exec (.trap code) s = .next (all 0x0C (code.setWidth 64)) ∧
      exec (.brk code) s = .next (all 0x0B (code.setWidth 64))) ∧
    exec (.illegalInstruction w) s =
      .next (s.trapLanes x (isJump w) (x.active.map fun t => (t, 1, w.setWidth 64))) ∧
    ((∀ t ∈ x.live, ∀ k, k < 12 → wait.getLsbD k = true → mget 0 (x.w.thr t).cf k = 0) →
      exec (.clause wait f1 f2 len) s = .next ((s.modU x fun u => { u with
        clause := some ⟨len.toNat + 1, [flagField f1, flagField f2]⟩ }).setPc x (x.pc + 4))) ∧
    s.Completes x { dst := some (.s rd) } (.featq cls index rd) (fun _ _ => .ofS (s.featq x cls.toNat index.toNat)) ∧
    s.featq x 0 0 = 1 ∧ s.featq x 0 1 = x.w.pinned.setWidth 64 ∧ s.featq x 1 0 = 8 ∧ s.featq x 1 1 = 576 ∧
    s.featq x 1 2 = 0x1024 ∧ s.featq x 1 3 = 32 ∧ s.featq x 1 4 = 4 ∧ s.featq x 2 0 = 412316860416 ∧
    s.featq x 2 1 = 524288 ∧ s.featq x 2 2 = 393216 ∧ s.featq x 2 3 = 0x8020 ∧ s.featq x 3 0 = 2048 ∧
    s.featq x 3 1 = 8 ∧ s.featq x 4 0 = 256 ∧ s.featq x 4 1 = 16 ∧ s.featq x 15 1 = w64 s.rateKHz ∧
    s.featq x 15 2 = w64 s.devNum ∧
    (∀ c n, (c, n) ∉ [(0, 0), (0, 1), (1, 0), (1, 1), (1, 2), (1, 3), (1, 4), (2, 0), (2, 1), (2, 2), (2, 3), (3, 0), (3, 1),
      (4, 0), (4, 1), (15, 0), (15, 1), (15, 2)] → s.featq x c n = 0)

/-- R76, R189, R195 to R197, R299: TLBW, TLBINV, CTXSV and CTXLD at S, outside a transaction, with their operands ready
and, for an image, its accesses passing their checks, have their effect in each active lane, in ascending lane order
(the model's choice, log entry 18), and go on; TLBINV once no access that used an entry which it removes is still to
complete, for which it writes back every dirty line of the clusters that it selects. CTXSV and CTXLD, which read and
write every register, wait for each whose result is pending. What CTXLD takes from an image follows log entry 89. At U
they trap 0x03 with the word. After TLBW of a valid leaf the cluster holds its entry; after TLBW of an invalid one, or
TLBINV of a page, it holds none of that context and page, of any size. Neither changes memory or, but for the
translations that waiting instructions hold, a workgroup.

The page size of TLBW is a free value, and its set and replacement are the model's (log entries 10 and 19). -/
def Obligations.SupervisorInstructions : Prop :=
  (∀ (s : State) (x : Issuer) (ra rb : R5) (rs : List (LaneAcc × Probe)), s.Issues x → x.u.tx = none →
    let f2 : Fields := { a := some (.s ra), b := some (.s rb) }
    let f1 : Fields := { a := some (.s ra) }
    let v := fun t => (x.w.thr t).vals f2
    let va := fun t => ((x.w.thr t).vals f1).sa
    let next := fun (s : State) => s.setPc x (x.pc + 4)
    (x.u.sh.priv = .u → ∀ i ∈ [Instr.tlbw ra rb, .tlbinv ra rb, .ctxsv ra, .ctxld ra],
      exec i s = .next (s.trapLanes x false (x.active.map fun t => (t, 3, wordOf i)))) ∧
    (x.u.sh.priv = .s → s.OperandsReady x f2 →
      exec (.tlbw ra rb) s = .next (next (x.active.foldl (fun s t => s.tlbw x.cl (v t).sa (v t).sb) (s.popAll x f2))) ∧
      (let s1 := x.active.foldl (fun s t => s.tlbinvOut x.cl (v t).sb) s
       (∀ t ∈ x.active, s1.tlbinvWaits x.cl (v t).sa (v t).sb = false) →
        exec (.tlbinv ra rb) s = .next (next (x.active.foldl (fun s t => s.tlbinv x.cl (v t).sa (v t).sb) (s1.popAll x f2))))) ∧
    (x.u.sh.priv = .s → s.OperandsReady x f1 → x.pending = true → ∀ i ∈ [Instr.ctxsv ra, .ctxld ra], exec i s = .next s.stall) ∧
    (x.u.sh.priv = .s → s.OperandsReady x f1 → x.pending = false → (∀ t ∈ x.active, (va t).toNat % 256 = 0) →
      (s.AccessReady x .store false (x.active.flatMap fun t => imageAccs t (va t)) rs → x.remoteFull rs = false →
        exec (.ctxsv ra) s = .next (next ((((rs.zip (x.active.flatMap fun t => (List.range 128).map
          (piece (s.savedImage x t)))).foldl (fun s r => s.storeOne x true s.nextId r.1.1 r.1.2 r.2) s)).popAll x f1))) ∧
      (s.AccessReady x .load true (x.active.flatMap fun t => imageAccs t (va t)) rs →
        let got := (s.dropReqs x).loads x true rs
        let image := fun t => (laneBytes got.2 t).flatten
        (∀ t ∈ x.active, imageOk (image t) = true) →
          exec (.ctxld ra) s = .next (next (x.active.foldl (fun s t => s.loadImage x t (image t)) (got.1.popAll x f1)))))) ∧
  (∀ (s : State) (c : Nat) (a leaf sel : Word),
    let ctx := a.toNat % 4096
    let page := fun (e : TlbEnt) => e.ctx = ctx ∧ e.vpn = vpnOf a e.level
    let good := nbit leaf.toNat 0 = true ∧ nbit leaf.toNat 1 = true ∧ malformed s.domSize (tlbwLevel leaf) leaf = false
    (good → ∃ e ∈ ((s.tlbw c a leaf).cl c).tlb, page e ∧ e.leaf = leaf) ∧
    (¬good → ∀ e ∈ ((s.tlbw c a leaf).cl c).tlb, ¬page e) ∧
    (∀ e ∈ ((s.tlbinv c a sel).cl c).tlb, ¬page e) ∧
    (nbit sel.toNat 1 = true → ((s.tlbinv c a sel).cl c).tlb = []) ∧
    (∀ l ∈ ((s.tlbinvOut c sel).cl c).l1, nbit sel.toNat 2 = false → l.dirty = 0) ∧
    (nbit sel.toNat 2 = true → ∀ k, ∀ l ∈ ((s.tlbinvOut c sel).cl k).l1, l.dirty = 0) ∧
    let plain := fun (w : Workgroup) => { w with
      threads := w.threads.map fun (t : Nat × Thread) => (t.1, { t.2 with u := { t.2.u with walked := [] } })
      groups := w.groups.map fun (g : Group) => { g with u := { g.u with walked := [] } } }
    (s.tlbw c a leaf).mem = s.mem ∧ (s.tlbw c a leaf).wgs.map plain = s.wgs.map plain ∧
    (s.tlbinv c a sel).mem = s.mem ∧ (s.tlbinv c a sel).wgs.map plain = s.wgs.map plain)

/-- R99, R190, R191, R338, R380: CSRR of a register that the thread may read gives it to every active lane, and CSRW of
one that it may write takes effect and goes on: in each active lane for a register that each lane has, else once, with
the value of the lowest active lane. A read of SEMVAL is an acquire and a write a release at DEVICE. A number that is
not assigned traps 0x01; a number of 0xF00 or more traps 0x03, and so do a supervisor number at U and a write of a
device register outside context 0; TRAPVAL is the word.

R380 keeps a register for each context. That a write changes it in every context that an active lane names, with the value
of the lowest active lane that names it, is the model's choice (log entry 34). -/
def Obligations.ControlRegisters : Prop :=
  ∀ (s : State) (x : Issuer) (n : BitVec 12) (rd ra : R5), s.Issues x → s.stalled = false →
    let trap := fun (i : Instr) (c : Nat) => exec i s = .next (s.trapLanes x false (x.active.map fun t => (t, c, wordOf i)))
    let may := csrAssigned n.toNat = true ∧ n.toNat < 0xF00 ∧ (0x100 ≤ n.toNat → x.u.sh.priv = .s)
    let f : Fields := { a := some (.s ra) }
    (may → s.OperandsReady x { dst := some (.s rd) } →
      let t := s.commit x { dst := some (.s rd) } fun u => .ofS (s.csrValue x n.toNat u)
      exec (.csrr n rd) s = .next (if n = 0x125 then t.acquire x.cl x.active .device else t)) ∧
    (may → (csrDevice n.toNat = true → x.w.ctx = 0) → x.u.tx = none → s.OperandsReady x f →
      (n = 0x125 → s.releaseWaits x x.active .device = false) →
      let s' := if n = 0x125 then s.release x.cl x.active .device else s
      exec (.csrw n ra) s = .next (((s'.popAll x f).csrWrite x n.toNat fun t => ((x.w.thr t).vals f).sa).setPc x
        (x.pc + 4))) ∧
    (csrAssigned n.toNat = false → trap (.csrr n rd) 1 ∧ trap (.csrw n ra) 1) ∧
    (csrAssigned n.toNat = true → 0xF00 ≤ n.toNat ∨ (0x100 ≤ n.toNat ∧ x.u.sh.priv = .u) →
      trap (.csrr n rd) 3 ∧ (x.u.tx = none → trap (.csrw n ra) 3)) ∧
    (may → csrDevice n.toNat = true → x.w.ctx ≠ 0 → x.u.tx = none → trap (.csrw n ra) 3) ∧
    (∀ (v : Nat → Word) (t : Nat), n.toNat ∈ [0x100, 0x101, 0x108, 0x109, 0x10A, 0x10B, 0x10C, 0x10D] → t ∈ x.active →
      (∀ u ∈ x.active, x.ctxOf u = x.ctxOf t → t ≤ u) →
      (s.csrWrite x n.toNat v).ctx (x.ctxOf t) = (s.csrCtx (x.ctxOf t) n.toNat (v t)).ctx (x.ctxOf t))

/-- R123, R338, R356, R358, R381, R393: the register writes that act as events. SRSEED reseeds the writing lanes; SEMVAL
and DEPVAL set the selected semaphore or dependence slot and re-evaluate readiness; FEATSET takes its seven bits, and
saved units that it lets resume count their time from now. PREEMPT asks for the save of every running workgroup of the
context, and with HOLD keeps the context from placing, from now on. RESUME of a held context ends that: the context's
saved units count their time from now, and its dispatching launches do not count the time for which it was held; of a
context that is not held it changes nothing. This is stated of a context for which no launch-queue state has been
brought from another device (R399); where one has been, RESUME takes it over before the rest, in the model's way (log
entry 97). That a unit whose pins failed is tried again from either event on is the model's choice (log entry 92). A
read of SEMVAL gives every active lane the semaphore.

R107, R380, R381: what writes of the trap and supervisor registers leave: STVEC and TRAPVEC without their two low bits,
SDELEG with its writable bits, PTROOT, CLKOFF, SVBASE where it is aligned, SVSIZE and FEATSET of the context, TRAPPC,
UTPC, UTCAUSE and SSCRATCH of the lane, and a period of zero not taken. Each write changes nothing else of the context
or the thread. -/
def Obligations.RegisterEvents : Prop :=
  ((∀ (s : State) (v : Word) (c : Nat) (imm hold : Bool), c < 4096 →
    let resumable := fun (us : List SavedUnit) =>
      us.map fun u => if u.ctx = c then { u with since := s.clock, passed := none, pinFail := false } else u
    (let s' := s.modCtx c fun k => { k with featset := v.setWidth 7 }
     let lacks := fun (fs : BitVec 7) => ∃ u ∈ s.saved, u.ctx = c ∧ u.pinned &&& ~~~fs ≠ 0
     let frees := lacks (s.ctx c).featset ∧ ¬lacks (v.setWidth 7)
     (¬frees → exec (.featsetWrite c v) s = .next s') ∧
     (frees → exec (.featsetWrite c v) s = .next { s' with saved := resumable s.saved })) ∧
    exec (.semvalWrite v) s = .next ({ s with sems := mset 0 s.sems s.semidx v } : State).reeval ∧
    (v.getLsbD 63 = false →
      exec (.depvalWrite v) s = .next ({ s with deps := mdel s.deps s.depidx } : State).reeval) ∧
    (v.getLsbD 63 = true → exec (.depvalWrite v) s = .next ({ s with
      deps := mput s.deps s.depidx { ctx := nbits v.toNat 59 48, count := sint 32 v.toNat } } : State).reeval) ∧
    (∃ t, exec (.preempt c imm hold) s = .next t ∧ (t.ctx c).hold = ((s.ctx c).hold || hold) ∧
      (hold = true → (s.ctx c).hold = false → (t.ctx c).holdAt = s.clock) ∧
      (∀ w ∈ t.wgs, w.ctx = c → w.saveReq ≠ none ∧ (imm = true → w.saveReq = some .imm)) ∧
      (∀ w ∈ t.wgs, w.ctx ≠ c → w ∈ s.wgs) ∧
      t.wgs.map (fun w => { w with saveReq := none }) = s.wgs.map (fun w => { w with saveReq := none }) ∧
      t.saved = s.saved ∧ t.mem = s.mem) ∧
    ((∀ m ∈ s.incoming, m.ctx ≠ c) → (s.ctx c).hold = true → ∃ t, exec (.resume c) s = .next t ∧ (t.ctx c).hold = false ∧
      t.saved = resumable s.saved ∧
      t.launches = s.launches.map (fun l => if l.ctx = c ∧ l.state = .dispatching then
        { l with since := l.since + (s.clock - max l.since (s.ctx c).holdAt), passed := none } else l) ∧
      t.wgs = s.wgs ∧ t.mem = s.mem) ∧
    ((∀ m ∈ s.incoming, m.ctx ≠ c) → (s.ctx c).hold = false → exec (.resume c) s = .next s) ∧
    exec (.resume c) s = exec (.resume c) (s.adopt c)) ∧
  (∀ (s : State) (x : Issuer) (seed : Word) (rd : R5), s.Issues x →
    (∃ t w, exec (.srseedWrite seed) s = .next t ∧ t.wg? x.id.wg = some w ∧
      (w.ust x.id.t).sh = { x.u.sh with srseed := seed.setWidth 16 } ∧
      ∀ u ∈ x.active, (w.thr u).gen = genSeed (seed.setWidth 16) (x.laneOf u) ∧ (w.thr u).r = (x.w.thr u).r) ∧
    (∃ t w, exec (.semvalRead rd) s = .next t ∧ t.wg? x.id.wg = some w ∧
      ∀ u ∈ x.active, (w.thr u).r = (x.w.thr u).r.sset rd (mget 0 s.sems s.semidx)))) ∧
  (∀ (s : State) (x : Issuer) (v : Word) (th : Thread) (ctx : Nat), s.Issues x →
    let c := x.ctxOf x.lead
    let k := s.ctx c
    let low2 : Word := v &&& ~~~3
    (s.csrOnce x 0x100 v).ctx c = { k with stvec := low2 } ∧
    (s.csrOnce x 0x101 v).ctx c = { k with sdeleg := v &&& 0x7FF1E } ∧
    (s.csrOnce x 0x108 v).ctx c = { k with ptroot := v &&& 0xFFFFFFFE00001 } ∧
    (s.csrOnce x 0x109 v).ctx c = { k with featset := v.setWidth 7 } ∧
    (s.csrOnce x 0x10A v).ctx c = { k with clkoff := v } ∧
    (v.toNat % 4096 = 0 → (s.csrOnce x 0x10C v).ctx c = { k with svbase := v }) ∧
    (v.toNat % 4096 ≠ 0 → s.csrOnce x 0x10C v = s) ∧
    (s.csrOnce x 0x10D v).ctx c = { k with svsize := v } ∧
    (∀ n ∈ [0x100, 0x101, 0x108, 0x109, 0x10A, 0x10C, 0x10D], ∀ d, d ≠ c → (s.csrOnce x n v).ctx d = s.ctx d) ∧
    (∀ n ∈ [0x110, 0x111, 0x112, 0x113, 0x114], s.csrOnce x n 0 = s) ∧
    (∃ w, (s.csrOnce x 0x020 v).wg? x.id.wg = some w ∧ w.ust x.id.t = { x.u with sh := { x.u.sh with trapvec := low2 } }) ∧
    th.csrLane ctx 0x022 v = { th with trappc := low2 } ∧
    th.csrLane ctx 0x103 v = { th with utcause := v &&& 0x1FF } ∧
    th.csrLane ctx 0x104 v = { th with utpc := low2 } ∧
    th.csrLane ctx 0x105 v = { th with utval := v } ∧
    th.csrLane ctx 0x106 v = { th with sscratch := v } ∧
    (ctx ≠ 0 → th.csrLane ctx 0x107 v = th))

-- Ports, matrices and keyed tables.

/-- R227 to R235: PCFG sets a direction's PORTCFG in every active lane once the direction's values have left, and grants
the free entries anew; a value that stands in its source's buffer with a credit of the entry goes on to it (R233). A
torus wrap without a torus, or a port of a task, traps 0x11 with subcode 4 or 5. PQRY answers for each lane. PWAITE goes
on when the named directions' values have left. A value with a credit enters the far queue in order and frees its
buffer, which is its completion, and the end of a killed thread of which it was the last (R392); so does one that goes
on, whatever the registers are by then. A popped entry's credit reaches its source. -/
def Obligations.NeighbourPorts : Prop :=
  (∀ (s : State) (x : Issuer) (d : Dir) (wrap : Bool) (tp : Topo) (rd : R5) (mask : BitVec 4), s.Issues x →
    let next := fun (s : State) => s.setPc x (x.pc + 4)
    let sent := fun (t : Nat) (d : Dir) =>
      ((x.w.thr t).ports.get d).outS = none ∧ ((x.w.thr t).ports.get d).outV = none ∧
        ∀ r ∈ (x.w.thr t).busy, (portOf r).map (·.1) ≠ some d
    let torus := tp = .cluster ∧ wrap = true ∧ x.w.cfg.torus = false
    let task := tp ≠ .off ∧ x.isTask = true
    (x.u.tx = none → ¬torus → ¬task → (∀ t ∈ x.active, sent t d) →
      let s1 := x.active.foldl (fun s t => (s.goesOn x.w t d false).goesOn x.w t d true) s
      exec (.pcfg d wrap tp) s = .next (next (s1.modThrs x.id.wg x.active fun _ th => th.modPort d fun p =>
        { p with topo := tp, wrap := wrap, retS := 0, retV := 0 }))) ∧
    (x.u.tx = none → torus → exec (.pcfg d wrap tp) s = .next (s.trapAll x 0x11 4)) ∧
    (x.u.tx = none → ¬torus → task → exec (.pcfg d wrap tp) s = .next (s.trapAll x 0x11 5)) ∧
    s.Completes x { dst := some (.s rd) } (.pqry rd d) (fun _ t => .ofS (s.pqryWord x.w t d)) ∧
    (x.u.tx = none → (∀ t ∈ x.active, ∀ i, i < 4 → mask.getLsbD i = true → sent t (Machine.dirOf i)) →
      exec (.pwaite mask) s = .next (next s))) ∧
  (∀ (s : State) (w : Workgroup) (t v u : Nat) (d : Dir) (y : Word) (z : Vec) (fl : Option FlagRef), s.wg? w.id = some w →
    let p := (w.thr t).ports.get d
    let scalar := fun (v u : Nat) => (((s.modThr v u fun th => th.modPort (dirOpp d) fun q =>
      { q with inS := q.inS ++ [y], dueS := if p.goS = none then q.dueS else q.dueS - 1 }).modThr w.id t fun th =>
        th.modPort d fun q => { q with outS := none, goS := none }).flagDone fl).portsGone w.id t
    let vector := fun (v u : Nat) => (((s.modThr v u fun th => th.modPort (dirOpp d) fun q =>
      { q with inV := q.inV ++ [z], dueV := if p.goV = none then q.dueV else q.dueV - 1 }).modThr w.id t fun th =>
        th.modPort d fun q => { q with outV := none, goV := none }).flagDone fl).portsGone w.id t
    (p.outS = some (y, fl) →
      (p.goS = none → s.mutual w t d = some (v, u) → s.credits w t d false ≠ 0 →
        exec (.portValueArrive w.id t d false) s = .next (scalar v u)) ∧
      (p.goS = some (v, u) → exec (.portValueArrive w.id t d false) s = .next (scalar v u))) ∧
    (p.outV = some (z, fl) →
      (p.goV = none → s.mutual w t d = some (v, u) → s.credits w t d true ≠ 0 →
        exec (.portValueArrive w.id t d true) s = .next (vector v u)) ∧
      (p.goV = some (v, u) → exec (.portValueArrive w.id t d true) s = .next (vector v u))) ∧
    (∀ w', s.peer w t d = some (v, u) → s.wg? v = some w' → s.mutual w' u (dirOpp d) = some (w.id, t) →
      let far := (w'.thr u).ports.get (dirOpp d)
      (s.credits w' u (dirOpp d) false ≠ 0 → far.outS ≠ none → far.goS = none →
        s.goesOn w t d false = (s.modThr v u fun th => th.modPort (dirOpp d) fun q =>
          { q with goS := some (w.id, t) }).modThr w.id t fun th => th.modPort d fun q => { q with dueS := q.dueS + 1 }) ∧
      (s.credits w' u (dirOpp d) false = 0 → s.goesOn w t d false = s)) ∧
    ((mfind w.threads t).isSome = true → ∀ vec,
      ∃ s' w', exec (.portCreditArrive w.id t d vec) s = .next s' ∧ s'.wg? w.id = some w' ∧
        (w'.thr t).ports.get d = { p with
          retS := if vec then p.retS else p.retS - 1, retV := if vec then p.retV - 1 else p.retV }))

/-- R203 to R210: a matrix instruction of a fused group enters the queues of its arrays with its operands taken, its
flag assigned, and goes on: outside a transaction, with its operands and fragments ready, an entry free in every queue,
no subcode of R205 that holds and its memory rows in place. In split mode it traps 0x02 with subcode 1. So does MSTAT,
whether its destination is a register or a port; without matrix state it is answered at once with 0 (R218). -/
def Obligations.MatrixIssue : Prop :=
  ∀ (s : State) (x : Issuer) (ty : MType) (sc z loss slot term2 isB all kind : Bool) (mrow k n part : BitVec 2)
    (acc : BitVec 3) (as : ASel) (bs : BSel) (fm : Fmt) (rm : Rm) (ra rb rd : R5), s.Issues x → x.u.tx = none →
    let a := some (RegName.s ra)
    let b := some (RegName.s rb)
    let iss := fun (i : Instr) (r : MatReq) =>
      (x.grp = none → exec i s = .next (s.trapAll x 2 1)) ∧
      ∀ g, x.grp = some g → s.OperandsReady x r.f → x.fragBusy r.fragA = false → x.fragBusy r.fragB = false →
        (∀ q, q < laneCount g.f / 8 → (s.cl x.cl).arrayLen (g.base / 8 + q) < 4) → s.matSub x g r = none →
        let v := (x.w.thr x.lead).vals r.f
        (∀ m w, r.mem = some (m, w) → s.matMem x ((List.range m).map fun i => v.sa + w64 i * v.sb) w = none) →
          let p := (s.popAll x r.f).takeFlag x
          exec i s = .next ((p.1.modCl x.cl fun cl => { cl with mq := cl.mq ++ [{ x.matOp g r v with flag := p.2 }] }).setPc x
            (x.pc + 4))
    let mma := Instr.mma ty sc z mrow acc as bs
    iss mma { ins := mma, acc := some acc.toNat, mrow := mrow.toNat, fragB := bFrag bs
              fragA := match as with
                | .regs r => some (base8 r)
                | .kstep _ => none } ∧
    iss (.mmas sc z mrow acc slot term2 bs) { ins := .mmas sc z mrow acc slot term2 bs, acc := some acc.toNat
                                              mrow := mrow.toNat, fragB := bFrag bs, plan := some (slot.toNat, sc) } ∧
    iss (.mres sc mrow acc slot bs) { ins := .mres sc mrow acc slot bs, acc := some acc.toNat, mrow := mrow.toNat
                                      fragB := bFrag bs, plan := some (slot.toNat, sc) } ∧
    iss (.mplan ty loss slot k rb) { ins := .mplan ty loss slot k rb, f := { b := if loss then b else none } } ∧
    iss (.mplanS ty loss slot ra rb) { ins := .mplanS ty loss slot ra rb, f := { a := a, b := if loss then b else none }
                                       mem := some (1, 256 * x.fz) } ∧
    iss (.mzacc mrow acc) { ins := .mzacc mrow acc, acc := some acc.toNat, mrow := mrow.toNat } ∧
    iss (.mldacc mrow acc ra rb) { ins := .mldacc mrow acc ra rb, f := { a := a, b := b }, acc := some acc.toNat
                                   mrow := mrow.toNat, mem := some (2 * x.fz, 256) } ∧
    iss (.mstacc fm rm mrow acc ra rb) { ins := .mstacc fm rm mrow acc ra rb, f := { a := a, b := b }
                                         acc := some acc.toNat, mrow := mrow.toNat
                                         mem := some (2 * x.fz, 64 * (fm.bits / 8)) } ∧
    iss (.mldob isB n part all ra) { ins := .mldob isB n part all ra, f := { a := a }
                                     mem := some (1, if all then 8192 else 2048) } ∧
    iss (.mscl isB ra) { ins := .mscl isB ra, f := { a := a }, mem := some (1, if isB then 512 else 16 * x.fz) } ∧
    (∀ g, x.grp = some g → s.OperandsReady x { dst := some (.s rd) } →
      let len := fun q => (s.cl x.cl).arrayLen (g.base / 8 + q)
      (x.w.cfg.tiles = 0 →
        exec (.mstat kind slot rd) s = .next (s.commit x { dst := some (.s rd) } fun _ => .ofS 0)) ∧
      (x.w.cfg.tiles ≠ 0 → (∀ q, q < laneCount g.f / 8 → len q < 4) →
        let p := s.takeFlag x
        let s' := p.1.modCl x.cl fun cl =>
          { cl with mq := cl.mq ++ [{ x.matOp g { ins := .mstat kind slot rd } {} with flag := p.2 }] }
        exec (.mstat kind slot rd) s = .next ((if rd = 0 then s' else s'.setBusy x.id.wg x.active (.s rd)).setPc x
          (x.pc + 4))))

/-- R201, R208, R209, R215: an instruction that heads all its queues starts and reads its scratchpad bytes, which aborts
the transactions that have written a line of them (R296); a started one changes the matrix state of its cluster, does
what it does outside it, completes its flag, which an MSTAT's value takes on, and leaves the queues. What each changes:
MZACC zeroes the rows of its block of the tile and MLDACC loads them; MMA, MMAS and MRES give each of their elements the
sum of R126, R127, R224 or R225, rounded once for each of the four K-blocks or each entry. Every other element stays.
MPLAN (R219 to R223) makes the slot of each joined array valid: format, terms, counts, the first two nonzeros of each
group in term 1, the others in term 2 or, up to 64 of them, in the residual list. MLDOB writes its part and clears the
valid bits of the slots that it meets (R216), MSCL the scales (R217); MSTACC stores its rows in order, converted by rm
(R215). MSTAT answers as R218 has it.

The order of the four K-blocks (log entry 82), the sign of an exact zero sum (log entry 88) and what MMAS and MRES make of
a plan that a fill has overwritten (log entry 100) are the model's choices. -/
def Obligations.MatrixQueues : Prop :=
  (∀ (s : State) (c n : Nat) (o : MatOp), (s.cl c).mq[n]? = some o →
    (o.started = false → (s.cl c).mqHead n o = true →
      let lines := o.readRanges.flatMap fun r => touchedSectors r.1 r.2
      exec (.matrixQueueStart c n) s = .next ((lines.foldl (fun s k => s.conflict c none false ⟨true, k⟩) s).modCl c
        fun cl => { cl with
          mq := cl.mq.set n { o with started := true, mem := o.readRanges.flatMap fun r => s.sramBytes c r.1 r.2 } })) ∧
    (o.started = true →
      exec (.matrixRetire c n) s = .next ((((s.matOut c o).modCl c fun cl =>
        { cl.matApply o with mq := cl.mq.eraseIdx n }).flagDone (match o.ins with
          | .mstat _ _ _ => none
          | _ => o.flag)).wgCheck o.wg))) ∧
  (∀ (cl : Cluster) (o : MatOp) (ty : MType) (sc z slot term2 : Bool) (mrow : BitVec 2) (acc : BitVec 3) (as : ASel)
    (bs : BSel) (ra rb : R5) (a r j : Nat), r < 64 → j < 64 → mrow.toNat * o.m + o.m ≤ 64 →
    let row := r - mrow.toNat * o.m
    let q := o.base / 8 + row / 16
    let i := row % 16
    let c0 := if z then 0 else (cl.accGet acc.toNat r j).toNat
    let col := match bs with
      | .regs _ => fragRow o.b j
      | .buf n => cl.bbCol n.toNat j
    let ends := fun (i' : Instr) (v : BitVec 32) => o.ins = i' → (cl.matApply o).accGet a r j =
      if a = acc.toNat ∧ mrow.toNat * o.m ≤ r ∧ r < mrow.toNat * o.m + o.m then v else cl.accGet a r j
    let sa := fun (k : Nat) (v : FVal) => if sc then (mulX v (cl.saVal q i k)).1 else v
    let sb := fun (k : Nat) (v : FVal) => if sc then (mulX v (cl.sbVal q j k)).1 else v
    let b := fun (ty : MType) (k : Nat) => rowElem ty col k
    let blocks := fun (ty : MType) (xs : List (Nat × Nat)) (c : Nat) => (List.range 4).foldl (fun c n =>
      let exact := sumX ((xs.filter fun x => x.1 / (mtK ty / 4) = n).map fun x =>
        (mulX (sa x.1 ((mtFmt ty).dec x.2)) (sb x.1 ((mtFmt ty).dec (b ty x.1)))).1)
      roundRne .f32 (addReal (Fmt.dec .f32 (roundRne .f32 exact)) (Fmt.dec .f32 c))) c
    let integer := fun (xs : List (Nat × Nat)) (c : Nat) =>
      BitVec.ofInt 32 ((c : Int) + (xs.map fun x => sint 8 x.2 * sint 8 (b .i8 x.1)).sum)
    let dot := fun (ty : MType) (xs : List (Nat × Nat)) =>
      if ty = .i8 then integer xs c0 else BitVec.ofNat 32 (blocks ty xs c0)
    let planTy := mtOf (cl.planByte q slot.toNat 0xE00)
    ends (.mzacc mrow acc) 0 ∧
    ends (.mldacc mrow acc ra rb) (BitVec.ofNat 32 (leNat ((o.mem.drop (256 * row + 4 * j)).take 4))) ∧
    ends (.mma ty sc z mrow acc as bs) (dot ty ((List.range (mtK ty)).map fun k => (k, rowElem ty (match as with
      | .regs _ => fragRow o.a row
      | .kstep n => cl.abRow q n.toNat i) k))) ∧
    ends (.mmas sc z mrow acc slot term2 bs) (if term2 = true ∧ cl.planByte q slot.toNat 0xE01 ≠ 2 then BitVec.ofNat 32 c0
      else dot planTy (cl.termRow q slot.toNat term2.toNat i planTy)) ∧
    ends (.mres sc mrow acc slot bs) (BitVec.ofNat 32 ((((List.range (min 64 (cl.planNat q slot.toNat 0xE02 2))).map fun e =>
      0xC00 + 8 * e).filter fun e => cl.planByte q slot.toNat e = i).foldl (fun c e =>
        let k := cl.planNat q slot.toNat (e + 2) 2
        let v := cl.planNat q slot.toNat (e + 4) 4
        if planTy = .i8 then (BitVec.ofInt 32 ((c : Int) + sint 32 v * sint 8 (b .i8 k))).toNat
        else roundRne .f32 (addReal (mulX (sa k (Fmt.dec .f32 v)) (sb k ((mtFmt planTy).dec (b planTy k)))).1
          (Fmt.dec .f32 c))) (cl.accGet acc.toNat r j).toNat))) ∧
  (∀ (cl : Cluster) (o : MatOp) (ty : MType) (loss slot : Bool) (k : BitVec 2) (ra rb : R5) (q : Nat), q ∈ o.quads →
    o.base + laneCount o.f ≤ 32 →
    let t := cl.matApply o
    let planned := fun (tile : Nat → Nat) =>
      let at' := fun (i k : Nat) => rowElem ty (tile i) k
      let nz := fun (i g : Nat) => ((List.range 4).map (4 * g + ·)).filter fun k => nonzero ty (at' i k)
      let excess := (List.range 16).flatMap fun i => (List.range (mtK ty / 4)).flatMap fun g =>
        ((nz i g).drop 2).map fun k => (i, k)
      let one := excess.length ≤ 64
      t.planValid q slot.toNat = true ∧ t.planByte q slot.toNat 0xE00 = mtCode ty ∧
      t.planByte q slot.toNat 0xE01 = (if one then 1 else 2) ∧
      t.planNat q slot.toNat 0xE02 2 + t.planNat q slot.toNat 0xE04 2 = (if one then excess.length else 0) ∧
      (loss = false → t.planNat q slot.toNat 0xE04 2 = 0 ∧ t.planByte q slot.toNat 0xE0E = 0) ∧
      (∀ i, i < 16 →
        t.termRow q slot.toNat 0 i ty =
          ((List.range (mtK ty / 4)).flatMap fun g => ((nz i g).take 2).map fun k => (k, at' i k)) ∧
        t.termRow q slot.toNat 1 i ty = (if one then [] else
          (List.range (mtK ty / 4)).flatMap fun g => ((nz i g).drop 2).map fun k => (k, at' i k))) ∧
      (loss = false → one → ∀ n e, excess[n]? = some e →
        t.planByte q slot.toNat (0xC00 + 8 * n) = e.1 ∧ t.planNat q slot.toNat (0xC00 + 8 * n + 2) 2 = e.2 ∧
        t.planNat q slot.toNat (0xC00 + 8 * n + 4) 4 = if ty = .i8 then (BitVec.ofInt 32 (sint 8 (at' e.1 e.2))).toNat
          else (cvtFF .f32 (mtFmt ty) .rne false (at' e.1 e.2)).1 % 2 ^ 32)
    (o.ins = .mplan ty loss slot k rb → planned fun i => cl.abRow q k.toNat i) ∧
    (o.ins = .mplanS ty loss slot ra rb →
      planned fun i => leNat ((o.mem.drop (2048 * (q - o.base / 8) + 128 * i)).take 128))) ∧
  (∀ (cl : Cluster) (o : MatOp) (isB all : Bool) (n part : BitVec 2) (ra : R5) (x q slot : Nat),
    let t := cl.matApply o
    let len := o.mem.length
    let at' := 8192 * n.toNat + 2048 * part.toNat
    let got := fun (m m' : Map Byte) => mget 0 m' x = if at' ≤ x ∧ x < at' + len then o.mem.getD (x - at') 0 else mget 0 m x
    (o.ins = .mldob isB n part all ra →
      (isB = true → got cl.bb t.bb ∧ t.ab = cl.ab ∧ t.plan = cl.plan) ∧
      (isB = false → got cl.ab t.ab ∧ t.bb = cl.bb ∧ (q < 4 → slot < 2 → t.planValid q slot = (cl.planValid q slot &&
        !(decide (q = n.toNat) && decide (0 < len) && decide (2048 * part.toNat < 4096 * slot + 4096) &&
          decide (4096 * slot < 2048 * part.toNat + len)))))) ∧
    (o.ins = .mscl isB ra → q ∈ o.quads →
      (isB = true → len = 512 → x < 512 → mget 0 t.sb (512 * q + x) = o.mem.getD x 0) ∧
      (isB = false → len = 16 * laneCount o.f → x < 128 →
        mget 0 t.sa (128 * q + x) = o.mem.getD (128 * (q - o.base / 8) + x) 0))) ∧
  (∀ (s : State) (c : Nat) (o : MatOp) (w : Workgroup) (ty : Fmt) (rm : Rm) (mrow : BitVec 2) (acc : BitVec 3) (ra rb rd : R5)
    (kind slot : Bool),
    let t := s.matOut c o
    let cl := s.cl c
    let at' := fun (i : Nat) => ((o.addr : Int) + i * o.stride).toNat
    let size := 64 * (ty.bits / 8)
    (o.ins = .mstacc ty rm mrow acc ra rb →
      t.mem = s.mem ∧ ∀ i, i < o.m → (∀ i', i < i' → i' < o.m → at' i + size ≤ at' i' ∨ at' i' + size ≤ at' i) →
        t.sramBytes c (at' i) size = (List.range 64).flatMap fun j =>
          let x := (cl.accGet acc.toNat (mrow.toNat * o.m + i) j).toNat
          if ty = .f32 then leBytes 4 x else leBytes (ty.bits / 8) (cvtFF ty .f32 (rmodeOf rm 0) false x).1) ∧
    (o.ins = .mstat kind slot rd → s.wg? o.wg = some w → portOf (.s rd) = none → rd ≠ 0 →
      ∀ u ∈ o.lanes,
        let th := t.thr o.wg u
        let q := o.base / 8 + (u - (32 * o.col + o.base)) / 8
        let f := cl.planNat q slot.toNat
        let v := (th.r.sget rd).toNat
        .s rd ∉ th.busy ∧
        (w.cfg.tiles = 0 → v = 0) ∧
        (w.cfg.tiles ≠ 0 → kind = true → w.cfg.tiles < 16 → cl.arrayLen q < 256 →
          v = 4096 + 256 * w.cfg.tiles + (cl.mq.filter fun p => p.quads.contains q).length) ∧
        (w.cfg.tiles ≠ 0 → kind = false → (cl.planValid q slot.toNat = false → v = 0) ∧
          (cl.planValid q slot.toNat = true →
            nbits v 63 32 = f 0xE06 4 ∧ nbits v 31 24 = f 0xE04 2 % 256 ∧ nbits v 23 16 = f 0xE02 2 % 256 ∧
            nbits v 15 12 = f 0xE00 1 % 16 ∧ nbits v 11 10 = f 0xE01 1 % 4 ∧ nbits v 9 9 = f 0xE0E 1 % 2 ∧
            nbits v 8 0 = 256))))

/-- R248 to R259: the keyed instructions complete. KTINS, KTPRB, KTDEL and KTACC step once per active lane in ascending
order, keep the table and give each lane its result, pending until it arrives; a table that is not valid traps 0x0F.
A spill entry's write that no link has taken in 1 ms is dropped with a LINK for its lane (R415). KTCLAIM makes an empty
table with its spill pages pinned, KTFREE frees one, KTDRN writes the live pairs and counts them, unless a store of an
issuing lane to their bytes is still on its way (R258), KTSTAT answers.

That the instruction completes without the write (log entry 33), that KTCLAIM takes a spill page in PCIe peer space (log
entry 101), that KTDRN writes another cluster's window at once (log entry 95) and that with a port rd its flag's one count
falls at the later event (log entry 74) are the model's choices. -/
def Obligations.KeyedInstructions : Prop :=
  ∀ (s : State) (x : Issuer) (kt sel : BitVec 2) (clr : Bool) (rd ra rb : R5) (rs : List (LaneAcc × Probe))
    (ps : List (Nat × Space × Nat × Bool × Option TlbEnt)), s.Issues x →
    let next := fun (s : State) => s.setPc x (x.pc + 4)
    let k := x.table kt
    let step := fun (i : Instr) (op : KStep) (f : Fields) => s.OperandsReady x f →
      let r := KRun.steps x op (fun t => (x.w.thr t).vals f) x.active (s.kRun x kt)
      (k.valid = true → r.2.2 = [] → (r.1.lost = [] ∨ ∃ ts, s.linkWait x r.1.lost = .traps ts) →
        exec i s = .next (((((r.1.keep x kt).dropReqs x).dropped x r.1.lost).commit x f fun t =>
          .ofS (((r.2.1.find? fun w => w.1 == t).map (·.2)).getD 0)).pendS x rd)) ∧
      (k.valid = false → exec i s = .next (s.trapAll x 0x0F 1))
    let f2 : Fields := { a := some (.s ra), b := some (.s rb), dst := some (.s rd) }
    step (.ktins kt rd ra rb) .ins f2 ∧ step (.ktacc kt rd ra rb) .acc f2 ∧
    step (.ktprb kt rd ra) .prb (fSS rd ra) ∧ step (.ktdel kt rd ra) .del (fSS rd ra) ∧
    (let f : Fields := { a := some (.s ra), b := some (.s rb) }
     let v := (x.w.thr x.lead).vals f
     let n := ktConfig v.sa v.sb
     let at' := fun p => w64 (max (4096 * p) n.spillVa)
     x.u.tx = none → s.OperandsReady x f → x.claimTrap kt n = none → pagesOf n.spillVa (8 * n.cap) = ps.map (·.1) →
     (∀ p ∈ ps, s.probe x.w x.lead x.u.sh.priv .store (at' p.1) 1 = .ok (.mem p.2.1 p.2.2.1 p.2.2.2.1) p.2.2.2.2) →
       exec (.ktclaim kt ra rb) s = .next (next (((s.engineWrite x.cl (.sram x.cl (x.ktBase n)) (emptySlots n.logb)).setKt x kt
         { n with pins := ps.map fun p =>
             (vpnOf (at' p.1) 0, .mem p.2.1 (p.2.2.1 - (at' p.1).toNat % 4096) p.2.2.2.1) }).popAll x f))) ∧
    (x.u.tx = none →
      exec (.ktfree kt) s = .next (next (if k.valid then
        s.setKt x kt { k with valid := false, spilled := false, used := 0, live := 0, tomb := 0, pins := [] } else s))) ∧
    (let out := ((x.w.thr x.lead).vals (fSS rd ra)).sa
     let d := KRun.drain x (x.ktAll k) (s.kRun x kt)
     x.u.tx = none → s.OperandsReady x (fSS rd ra) → k.valid = true → d.1.stop = none → out.toNat % 8 = 0 →
     x.drainMeets k out.toNat (8 * d.2.length) = false →
     s.AccessReady x .drain false ((List.range d.2.length).map fun i => ⟨x.lead, out + w64 (8 * i), 8⟩) rs →
     s.drainHeld x rs = false → s.farPairs rs = [] →
       let s1 := d.1.s.drainOut x rs (d.2.map fun p => leBytes 4 p.1 ++ leBytes 4 p.2)
       let s2 := if clr then
           (s1.engineWrite x.cl (.sram x.cl (x.ktBase k)) (emptySlots k.logb)).setKt x kt
             { k with spilled := false, used := 0, live := 0, tomb := 0 }
         else s1
       let s3 := (s2.dropReqs x).drainFlag x (fSS rd ra)
       exec (.ktdrn kt clr rd ra) s = .next ((s3.commit x (fSS rd ra) fun _ => .ofS (w64 d.2.length)).pendS x rd)) ∧
    (s.OperandsReady x { dst := some (.s rd) } →
      exec (.ktstat kt sel rd) s = .next ((s.commit x { dst := some (.s rd) } fun _ => .ofS (x.ktStat kt sel.toNat)).pendS x
        rd))

/-- R243 to R246, R255: the steps of a table that holds no spill entry, on slots whose checks pass, outside a
transaction. A reserved key gives status 5. A key that an insertion has just placed is found by the probe that follows,
with its value; an insertion of it gives status 1 and the value that is there. -/
def Obligations.KeyedSteps : Prop :=
  ∀ (x : Issuer) (r : KRun) (key v v' : Nat), r.stop = none → r.y = none → r.k.spilled = false → v < 2 ^ 32 →
    (∀ a n, r.s.sramFail x.cl a n = none) →
    (∀ op, 0xFFFFFFFE ≤ key → r.step x op key v = (r, ktWord 5 0)) ∧
    (key < 0xFFFFFFFE → (r.step x .ins key v).2 = ktWord 0 v →
      let q := (r.step x .ins key v).1
      (q.step x .prb key v').2 = ktWord 0 v ∧ (q.step x .ins key v').2 = ktWord 1 v ∧
      q.k.live = r.k.live + 1 ∧ q.k.used = r.k.used ∧ q.s.mem = r.s.mem)

-- Engines, messages and barriers.

/-- R305 to R307, R313 to R315, R265, R72: ENQ of a command whose operands in memory have canonical addresses and that
raises no subcode pushes it into the unit's FIFO after a release at its scope, with the next tag, which s[rd] receives;
the buffer of an SREAD is undefined from then on (R331), and where rd is a port register the flag's one count falls at
the later of the command's completion and the value's arrival. With the FIFO full or no mailbox entry free, ENQ.NB pushes
nothing and gives all ones. A subcode traps 0x10, an address that is not canonical 0x08, before anything of it happens.
DEQ takes the completion with its tag out of the mailbox, acquires at its scope and gives its two words; EQRY answers.

That 0x08 comes before 0x10, which operands count for it, that the one count falls at the later event, and the scope at
which DEQ acquires are the model's choices (log entries 35, 74 and 46). -/
def Obligations.EngineCommands : Prop :=
  ∀ (s : State) (x : Issuer) (nb sel : Bool) (rd ra : R5), s.Issues x →
    let f : Fields := { a := some (.s ra), b := some (.s (ra + 1)), c := some (.s (ra + 2)), d := some (.s (ra + 3))
                        dst := some (.s rd) }
    let v := (x.w.thr x.lead).vals f
    let own := x.w.thr x.id.t
    let c : Cmd := { d0 := v.sa, d1 := v.sb, d2 := v.sc, d3 := v.sd, tag := own.nextTag, priv := x.u.sh.priv }
    let full := 4 ≤ own.fifo.length ∨ (c.mbox = true ∧ own.mbox.free = 0)
    let placed := ∀ a ∈ c.operands, canonical a = true
    (s.OperandsReady x f →
      (∀ pre a post, c.operands = pre ++ a :: post → (∀ b ∈ pre, canonical b = true) → canonical a = false →
        exec (.enq nb rd ra) s = .next (s.trapAll x 8 a)) ∧
      (placed → ∀ n, s.enqTrap x c = some n → exec (.enq nb rd ra) s = .next (s.trapAll x 0x10 (w64 n)))) ∧
    (x.u.tx = none →
    (s.OperandsReady x f → placed → s.enqTrap x c = none → ¬full → s.releaseWaits x x.live c.scope = false →
      let s1 := s.release x.cl x.live c.scope
      let p := if f.push = none then s1.takeFlag x else s1.takeHalf x
      let s2 := (p.1.modThr x.id.wg x.id.t fun th => { th with
        fifo := th.fifo ++ [{ c with flag := p.2 }], nextTag := (th.nextTag + 1) % 2 ^ 16
        mbox := if c.mbox then { th.mbox with reserved := th.mbox.reserved + 1 } else th.mbox }).commit x f fun _ =>
          .ofS (w64 c.tag)
      let s3 := if c.op = 0x20 then s2.undefBuffer x.w.ctx c else s2
      exec (.enq nb rd ra) s = .next (match f.push with
        | some r => s3.halvePort x r (p.2.bind (·.half))
        | none => s3)) ∧
    (s.OperandsReady x f → placed → s.enqTrap x c = none → full →
      exec (.enq true rd ra) s = .next (s.commit x f fun _ => .ofS (BitVec.allOnes 64))) ∧
    (let g : Fields := { a := some (.s ra), dst := some (.s rd) }
     let tag := ((x.w.thr x.lead).vals g).sa.toNat % 65536
     s.OperandsReady x g → s.scoreboard x [.s (rd + 1)] = false → ∀ pre m post,
       own.mbox.msgs = pre ++ m :: post → m.isDone tag = true → (∀ y ∈ pre, y.isDone tag = false) →
       exec (.deq rd ra) s = .next (((((s.modThr x.id.wg x.id.t fun th => { th with
         mbox := { th.mbox with msgs := th.mbox.msgs.eraseIdx pre.length } }).popAll x g).acquire x.cl x.live m.sc).putMsg x x.active rd m).setPc x
           (x.pc + 4))) ∧
    (s.OperandsReady x (fSS rd ra) →
      exec (.eqry sel rd ra) s = .next (s.commit x (fSS rd ra) fun _ =>
        .ofS (s.eqryWord x sel ((x.w.thr x.lead).vals (fSS rd ra)).sa))))

/-- R336, R337, R356: SEMSIG adds to a semaphore of the context as one step, a release at DEVICE; SEMWAIT, when the
value has reached its operand, and SEMTRY give the value, as an acquire where it has. A number outside the context's
range traps 0x08. The addition changes that semaphore alone, wrapping at 64 bits. -/
def Obligations.Semaphores : Prop :=
  (∀ (s : State) (x : Issuer) (rd ra rb : R5), s.Issues x → x.u.tx = none →
    let f : Fields := { a := some (.s ra), b := some (.s rb) }
    let fd : Fields := { f with dst := some (.s rd) }
    let k := s.ctx x.w.ctx
    let num := fun (f : Fields) => ((x.w.thr x.lead).vals f).sa.toNat % 4096
    let arg := fun (f : Fields) => ((x.w.thr x.lead).vals f).sb
    let val := mget 0 s.sems (k.semBase + num fd)
    (s.OperandsReady x f → num f < k.semSize → s.releaseWaits x x.live .device = false →
      exec (.semsig ra rb) s = .next (((s.release x.cl x.live .device).semAdd (k.semBase + num f) (arg f)).commit x f
        fun _ => {})) ∧
    (s.OperandsReady x fd → num fd < k.semSize →
      (arg fd ≤ val →
        exec (.semwait rd ra rb) s = .next ((s.acquire x.cl x.live .device).commit x fd fun _ => .ofS val) ∧
        exec (.semtry rd ra rb) s = .next ((s.acquire x.cl x.live .device).commit x fd fun _ => .ofS val)) ∧
      (val < arg fd → exec (.semtry rd ra rb) s = .next (s.commit x fd fun _ => .ofS val))) ∧
    (s.OperandsReady x f → k.semSize ≤ num f → exec (.semsig ra rb) s = .next (s.trapAll x 8 (w64 (num f)))) ∧
    (s.OperandsReady x fd → k.semSize ≤ num fd →
      exec (.semwait rd ra rb) s = .next (s.trapAll x 8 (w64 (num fd))) ∧
      exec (.semtry rd ra rb) s = .next (s.trapAll x 8 (w64 (num fd))))) ∧
  (∀ (s : State) (i j : Nat) (n : Word),
    mget 0 (s.semAdd i n).sems j = (if j = i then mget 0 s.sems i + n else mget 0 s.sems j) ∧
    (s.semAdd i n).mem = s.mem ∧ (s.semAdd i n).wgs = s.wgs)

/-- R332 to R335: the stage-barrier instructions on an object in the scratchpad part of the own view whose check passes,
outside a transaction. STGINIT begins a new generation, keeping phase and pending count; STGEXP adds to the count;
STGARV arrives, as a release at CLUSTER, and gives the phase; STGWAIT, when the phase is over, and STGTRY give the
status, acquiring where the phase is complete, at CLUSTER and at the scope of each command that charged it (R310). Each
reads the object, which aborts another unit's transaction that has written its line (R296). An address that is not
aligned to 16 traps 0x04, one outside that part 0x08. -/
def Obligations.StageBarriers : Prop :=
  (∀ (s : State) (x : Issuer) (rd ra rb : R5), s.Issues x → x.u.tx = none →
    let f : Fields := { a := some (.s ra), b := some (.s rb) }
    let fd : Fields := { f with dst := some (.s rd) }
    let here := fun (f : Fields) (i : Instr) (act : State → Loc → StgBits → Nat → Prop) => s.OperandsReady x f →
      let v := (x.w.thr x.lead).vals f
      (∀ off, x.stgOff v.sa = .ok off → s.readFail x.cl (pipeOf x.lead) (.sram x.cl (x.w.phys off)) 16 = none →
        let l := Loc.sram x.cl (x.w.phys off)
        act (s.conflict x.cl (some x.id) false l.lineId) l (s.stgRead l) v.sb.toNat) ∧
      (∀ c, x.stgOff v.sa = .error c → exec i s = .next (s.trapAll x c v.sa))
    let put := fun (s : State) (l : Loc) (b : StgBits) => s.stgWrite (some x.id) l b
    here f (.stginit ra rb) (fun z l b y =>
      (stgPend b = 0 → y % 65536 ≠ 0 →
        exec (.stginit ra rb) s = .next (((put z l (stgInit b y)).stgNote x.id.wg l fun r => ([], r.2)).commit x f
          fun _ => {})) ∧
      (stgPend b ≠ 0 → exec (.stginit ra rb) s = .next (z.trapAll x 0x0E 5)) ∧
      (stgPend b = 0 → y % 65536 = 0 → exec (.stginit ra rb) s = .next (z.trapAll x 0x0E 6))) ∧
    here f (.stgexp ra rb) (fun z l b y =>
      exec (.stgexp ra rb) s = .next ((put z l (stgAdd b (y % 2 ^ 32 : Nat))).commit x f fun _ => {})) ∧
    here fd (.stgarv rd ra rb) (fun z l b y =>
      (stgArrived b < stgExpect b →
        let c := stgAdd b (y % 2 ^ 32 : Nat)
        let c' := stgCheck (stgSet c 16 16 (stgArrived c + 1))
        exec (.stgarv rd ra rb) s = .next (((put (z.release x.cl x.live .cluster) l c').stgNote x.id.wg l
          (stgEnter [] (stgPhase c' ≠ stgPhase b))).commit x fd fun _ => .ofS (w64 (stgPhase b)))) ∧
      (stgExpect b ≤ stgArrived b → exec (.stgarv rd ra rb) s = .next (z.trapAll x 0x0E 9))) ∧
    let seen := fun (z : State) (l : Loc) =>
      (z.stgScopes x.id.wg l).foldl (fun z sc => z.acquire x.cl x.live sc) z
    here fd (.stgwait rd ra rb) (fun z l b y => 8 ≤ stgStatus b y →
      exec (.stgwait rd ra rb) s = .next ((if stgInv b = 0 then seen z l else z).commit x fd fun _ =>
        .ofS (w64 (stgStatus b y)))) ∧
    here fd (.stgtry rd ra rb) (fun z l b y =>
      exec (.stgtry rd ra rb) s = .next ((if 8 ≤ stgStatus b y ∧ stgInv b = 0 then seen z l
        else z).commit x fd fun _ => .ofS (w64 (stgStatus b y))))) ∧
  (∀ (s : State) (wg c o : Nat) (sc : Scope), (s.wg? wg).isSome →
    let l := Loc.sram c o
    let t := s.stgNote wg l (stgEnter [sc] false)
    Scope.cluster ∈ s.stgScopes wg l ∧ sc ∈ (s.stgNote wg l (stgEnter [sc] true)).stgScopes wg l ∧
    t.stgScopes wg l = s.stgScopes wg l ∧ sc ∈ (t.stgNote wg l (stgEnter [] true)).stgScopes wg l) ∧
  (∀ (b : StgBits) (n : Nat),
    let b' := stgInit b n
    stgExpect b' = n % 65536 ∧ stgArrived b' = 0 ∧ stgPhase b' = stgPhase b ∧ stgOvr b' = 0 ∧ stgInv b' = 0 ∧
    stgGen b' = (stgGen b + 1) % 4096 ∧ stgCount b' = 0 ∧ stgPend b' = stgPend b) ∧
  (∀ (x : Issuer) (va : Word), (va.toNat % 16 ≠ 0 → x.stgOff va = .error 4) ∧
    (va.toNat % 16 = 0 → x.w.cfg.scratch < va.toNat % 2 ^ 19 + 16 → x.stgOff va = .error 8))

/-- R311, R313, R340, R341: SEND puts one message per active lane on its way, in lane order, with the sender's fields; a
target off the mesh traps 0x08. RECV, when every active lane has a message, gives each lane its oldest message and takes
it out; WAITMSG only waits for them; MBQRY answers and clears the two counts. -/
def Obligations.Messages : Prop :=
  ∀ (s : State) (x : Issuer) (rd ra rb : R5), s.Issues x → x.u.tx = none →
    let f : Fields := { a := some (.s ra), b := some (.s rb) }
    let v := fun t => (x.w.thr t).vals f
    let off := fun t => sendTarget x.cl (v t).sa = none
    let held := ∀ t ∈ x.active, (x.w.thr t).mbox.msgs ≠ []
    (s.OperandsReady x f → (∀ t ∈ x.active, ¬off t ∧ s.releaseWaits x [t] (sendScope x.cl (v t).sa) = false) →
      ∃ (t : State) (w : Workgroup) (ids : List Nat), exec (.send ra rb) s = .next t ∧ t.wg? x.id.wg = some w ∧ (w.ust x.id.t).pc = x.pc + 4 ∧
        (∀ u, (w.thr u).r = (x.w.thr u).r ∧ (w.thr u).mbox = (x.w.thr u).mbox) ∧
        ids.length = x.active.length ∧ ids.Pairwise (· < ·) ∧ (∀ i ∈ ids, s.nextId ≤ i) ∧
        t.flights = s.flights ++ (ids.zip x.active).map fun y =>
          { id := y.1, wg := x.id.wg, t := y.2, src := x.cl, launch := x.w.launch, desc := (v y.2).sa
            body := (v y.2).sb, hdr := x.srcHdr y.2, flag := s.laneFlag x y.2, taskAt := x.taskAt }) ∧
    (s.OperandsReady x f → (∃ t ∈ x.active, off t) →
      exec (.send ra rb) s = .next (s.trapLanes x false ((x.active.filter fun t => (sendTarget x.cl (v t).sa).isNone).map
        fun t => (t, 8, (v t).sa)))) ∧
    (held → s.scoreboard x [.s rd, .s (rd + 1)] = false →
      ∃ t w, exec (.recv rd) s = .next t ∧ t.wg? x.id.wg = some w ∧ (w.ust x.id.t).pc = x.pc + 4 ∧
        (∀ u ∈ x.active, ∃ m ms, (x.w.thr u).mbox.msgs = m :: ms ∧ (w.thr u).mbox.msgs = ms ∧
          (w.thr u).r = ((x.w.thr u).r.sset rd m.body).sset (rd + 1) m.hdr) ∧
        (∀ u, u ∉ x.active → (w.thr u).r = (x.w.thr u).r ∧ (w.thr u).mbox = (x.w.thr u).mbox)) ∧
    (held → exec .waitmsg s = .next (s.setPc x (x.pc + 4))) ∧
    (s.OperandsReady x { dst := some (.s rd) } →
      exec (.mbqry rd) s = .next ((s.modThrs x.id.wg x.active fun _ th =>
        { th with mbox := { th.mbox with lost := 0, refused := 0 } }).commit x { dst := some (.s rd) } fun t =>
          .ofS (x.w.thr t).mbox.query))

/-- R28, R29, R339, R340, R342, R366: a message that is the first of its way arrives: into its mailbox or run queue
where the target takes it, which is its completion, else it turns back as a refusal; the target is the sender's workgroup
on its own cluster, the one that R268 names on another. A refusal that returns counts, posts the error REFUSED and is the
completion; a task that has ended hears nothing of it. The first entry of a pipe's run queue starts a task in the lowest
dormant slot: its PC in the role's text, s4 and s5 the message, in the level of its context. -/
def Obligations.MessageEvents : Prop :=
  (∀ (s : State) (m : MsgFlight) (pre post : List MsgFlight), s.flights = pre ++ m :: post →
    (∀ k ∈ pre ++ post, k.id ≠ m.id) →
    let s' : State := { s with flights := pre ++ post }
    let target := (sendTarget m.src m.desc).bind fun c =>
      if c = m.src then (s.wg? m.wg).filter fun w => w.cluster == c else s.target? m.launch c
    let takes := fun w => s.msgRefused w m.desc = false
    (m.refused = false → (∀ k ∈ pre, k.refused = true ∨ k.sameWay m = false) →
      ((∀ w, target = some w → ¬takes w) →
        exec (.messageArrive m.id) s = .next { s with flights := pre ++ { m with refused := true } :: post }) ∧
      (∀ w, target = some w → takes w → msgTask m.desc = false →
        exec (.messageArrive m.id) s = .next ((s'.modThr w.id (32 * msgCol m.desc + msgPipe m.desc) fun th =>
          { th with mbox := { th.mbox with
            msgs := th.mbox.msgs ++ [⟨m.body, m.hdr, sendScope m.src m.desc⟩] } }).flagDone m.flag)) ∧
      (∀ w, target = some w → takes w → msgTask m.desc = true →
        exec (.messageArrive m.id) s = .next ((s'.modCl w.cluster fun cl => { cl with
          runq := cl.runq ++ [⟨w.id, msgPipe m.desc, msgHoff m.desc, msgCol m.desc, m.body, m.hdr⟩] }).flagDone m.flag))) ∧
    (m.refused = true → s.saved? m.wg = none →
      exec (.sendRefusal m.id) s = .next (((s'.modWg m.wg fun w => if !w.sameTask m.t m.taskAt || w.mute m.t then w
        else w.modThr m.t fun th => { th with
          mbox := { th.mbox with refused := min (th.mbox.refused + 1) 65535 } }).postErrorTo m.wg m.t m.taskAt 3
            m.desc).flagDone m.flag))) ∧
  (∀ (s : State) (c p t : Nat) (e : RunEnt) (pre post : List RunEnt) (w : Workgroup) (r : Role),
    (s.cl c).runq = pre ++ e :: post → e.pipe = p → (∀ k ∈ pre, k.pipe ≠ p) → s.wg? e.wg = some w → s.saving w = false →
    w.dormant p = some t → s.wgRole w e.col = some r →
      ∃ s' w', exec (.taskActivate c p) s = .next s' ∧ (s'.cl c).runq = pre ++ post ∧ s'.wg? e.wg = some w' ∧
        (r.textVa % 4 = 0 → (w'.thr t).u.pc = w64 (r.textVa + 4 * e.hoff)) ∧ (w'.thr t).u.sh.priv = (if w.ctx = 0 then .s else .u) ∧
        (w'.thr t).r = (({} : LaneRegs).sset 4 e.body).sset 5 e.hdr ∧ (w'.thr t).task = some (s.clock, e.col) ∧
        s'.mem = s.mem)

/-- R334, R343 to R347: the hardware-barrier instructions of a thread of the workgroup, outside a transaction, on a
barrier that the workgroup has: HBINIT makes the barrier with the members of its masks; HBARV arrives, as a release, and
gives the phase; HBWAIT and HBSYNC return when the barrier lets every active lane go; HBINV releases the waiters of
every member workgroup; HBQRY answers. A barrier number that the workgroup has not traps 0x0E with subcode 1 in each of
the six. In a task they trap with subcode 8, or a lower one that holds too: HBARV and HBSYNC with 3, since a task is no
member. That HBINIT takes the masks of the lowest active lane, and checks the barrier at once after it, is the model's
choice (log entry 48). A phase is over when all members have arrived or exited; of an ensemble barrier, when every
member workgroup has made it one and its members have, and then on all of them at once. -/
def Obligations.HardwareBarriers : Prop :=
  (∀ (s : State) (x : Issuer) (ens : Bool) (hb : BitVec 4) (rd ra rb : R5), s.Issues x → x.u.tx = none →
    let h := hb.toNat
    let b := mget {} x.w.hbs h
    let fi : Fields := { a := some (.s ra), b := some (.s rb) }
    let fd : Fields := { dst := some (.s rd) }
    let fw : Fields := { b := some (.s rb), dst := some (.s rd) }
    let v := (x.w.thr x.lead).vals fi
    let arrives := (∀ t ∈ x.active, b.valid = true ∧ b.member.getLsbD t = true ∧ b.arrived.getLsbD t = false) ∧
      ((∃ v ∈ s.hbPeers x.w h, v.hbEns h = true) → b.ens = true)
    let free := s.releaseWaits x x.active b.scope = false
    (h < x.w.cfg.hb → x.isTask = false →
      (s.OperandsReady x fi → x.hbInitTrap ens h (hbMask v.sa v.sb) = none →
        exec (.hbinit ens hb ra rb) s = .next (((s.modWg x.id.wg fun w => w.hbMod h fun b =>
          { member := hbMask v.sa v.sb, valid := true, ens := ens, released := b.released }).commit x fi fun _ => {}).hbCheck
            x.id.wg h)) ∧
      (s.OperandsReady x fd → arrives → free →
        exec (.hbarv hb rd) s = .next ((s.hbArrive x h x.active).commit x fd fun _ =>
          .ofS (if b.phase then 1 else 0))) ∧
      (s.OperandsReady x fw → (∀ t ∈ x.active, b.open t ((((x.w.thr t).vals fw).sb).getLsbD 0) = true) →
        exec (.hbwait hb rd rb) s = .next (s.hbReturn x h fw)) ∧
      (s.OperandsReady x fd → arrives → free → x.active ≠ [] → (∀ t ∈ x.active, (x.w.thr t).hbsync = none) →
        let s' := (s.hbArrive x h x.active).modThrs x.id.wg x.active fun _ th =>
          { th with hbsync := some ⟨h, b.phase, rd⟩ }
        (∀ w, s'.wg? x.id.wg = some w → ∀ t ∈ x.active, (mget {} w.hbs h).open t b.phase = true) →
          exec (.hbsync hb rd) s = .next (s'.hbReturn x h fd)) ∧
      (s.OperandsReady x fd →
        (∀ t ∈ x.active, ∃ y, (x.w.thr t).hbsync = some y ∧ y.hb = h ∧ b.open t y.token = true) →
          exec (.hbsync hb rd) s = .next (s.hbReturn x h fd)) ∧
      exec (.hbinv hb) s =
        .next (((s.hbPeers x.w h).foldl (fun s v => s.modWg v.id fun v => v.hbInv h) s).setPc x (x.pc + 4)) ∧
      (s.OperandsReady x fd → exec (.hbqry hb rd) s = .next (s.commit x fd fun _ => .ofS (x.w.hbWord h)))) ∧
    (x.w.cfg.hb ≤ h → x.active ≠ [] →
      (s.OperandsReady x fi → exec (.hbinit ens hb ra rb) s = .next (s.trapAll x 0x0E 1)) ∧
      exec (.hbinv hb) s = .next (s.trapAll x 0x0E 1) ∧
      (s.OperandsReady x fd → ∀ i ∈ [Instr.hbarv hb rd, .hbsync hb rd, .hbqry hb rd],
        exec i s = .next (s.trapAll x 0x0E 1)) ∧
      (s.OperandsReady x fw → exec (.hbwait hb rd rb) s = .next (s.trapAll x 0x0E 1))) ∧
    (h < x.w.cfg.hb → x.isTask = true → x.active ≠ [] → (∀ t ∈ x.active, 128 ≤ t) →
      (s.OperandsReady x fi → x.hbInitTrap ens h (hbMask v.sa v.sb) = none →
        exec (.hbinit ens hb ra rb) s = .next (s.trapAll x 0x0E 8)) ∧
      exec (.hbinv hb) s = .next (s.trapAll x 0x0E 8) ∧
      (s.OperandsReady x fd → exec (.hbqry hb rd) s = .next (s.trapAll x 0x0E 8) ∧
        exec (.hbarv hb rd) s = .next (s.trapAll x 0x0E 3) ∧
        ((∀ t ∈ x.active, (x.w.thr t).hbsync = none) → exec (.hbsync hb rd) s = .next (s.trapAll x 0x0E 3))) ∧
      (s.OperandsReady x fw → exec (.hbwait hb rd rb) s = .next (s.trapAll x 0x0E 8)))) ∧
  (∀ (s : State) (w : Workgroup) (h : Nat), s.wg? w.id = some w → (mget {} w.hbs h).valid = true →
    (mget {} w.hbs h).member ≠ 0 →
    let ps := s.wgs.filter fun v => v.unit == w.unit
    let full := ∀ t, t < 128 → (mget {} w.hbs h).member.getLsbD t = true →
      (mget {} w.hbs h).arrived.getLsbD t = true ∨ (w.thr t).exited = true
    ((∀ v ∈ ps, v.hbEns h = false) →
      (full → ∃ w', (s.hbCheck w.id h).wg? w.id = some w' ∧ mget {} w'.hbs h = { mget {} w.hbs h with
        phase := !(mget {} w.hbs h).phase, arrived := 0 } ∧ w'.threads = w.threads) ∧
      (¬full → s.hbCheck w.id h = s)) ∧
    ((∃ v ∈ ps, v.hbEns h = true) →
      ((∀ v ∈ ps, v.hbEns h = true ∧ v.hbFull h = true) →
        s.hbCheck w.id h = ps.foldl (fun s v => s.modWg v.id fun v => v.hbFlip h) s) ∧
      ((∃ v ∈ ps, v.hbEns h = false ∨ v.hbFull h = false) → s.hbCheck w.id h = s)))

-- Launches, faults and the device.

/-- R355, R365, R368 to R370: LAUNCH reads its record after a release at DEVICE and gives the decision on it; JOINWAIT
with no child left gives the completed children, as an acquire at SYSTEM, and of a task traps 0x02 with subcode 0x0A;
DEPALLOC takes a free slot, DEPSIG signals once per active lane, DEPFREE frees. A decision of 0 has published one
launch. A record in another cluster's window traps 0x08, whatever runs there.

R371, R372: YIELD goes on with four clocks to yield. EXIT, once the active lanes' FIFOs, ports, remote stores and flags
have drained, releases at SYSTEM and ends them; it leaves them exited as long as the workgroup stands.

Which free slot DEPALLOC takes is left free: it is the one that `Config.slotPick` names (log entry 28). -/
def Obligations.Launching : Prop :=
  ((∀ (s : State) (x : Issuer) (rd ra : R5) (rs : List (LaneAcc × Probe)), s.Issues x → x.u.tx = none →
    let f := fSS rd ra
    let fd : Fields := { dst := some (.s rd) }
    let fa : Fields := { a := some (.s ra) }
    let va := ((x.w.thr x.lead).vals f).sa
    let own := x.w.thr x.id.t
    (s.OperandsReady x f → va.toNat % 128 = 0 →
      s.AccessReady x .load true ((List.range 4).map fun i => ⟨x.lead, va + w64 (32 * i), 32⟩) rs →
      x.farWindow va = false → s.releaseWaits x x.live .device = false →
        let p := ((s.release x.cl x.live .device).dropReqs x).loads x true rs
        let q := p.1.launchRecord x (p.2.flatMap (·.2))
        exec (.launch rd ra) s = .next (q.1.commit x f fun _ => .ofS q.2)) ∧
    (s.OperandsReady x f → va.toNat % 128 = 0 → x.farWindow va = true →
      exec (.launch rd ra) s = .next (s.trapAll x 8 va)) ∧
    (s.OperandsReady x fd → x.isTask = false → own.children = 0 →
      exec (.joinwait rd) s = .next (((s.modThr x.id.wg x.id.t fun th => { th with childDone := 0 }).acquire x.cl x.live
        .system).commit x fd fun _ => .ofS (w64 own.childDone))) ∧
    (x.isTask = true → exec (.joinwait rd) s = .next (s.trapAll x 2 0x0A)) ∧
    (s.OperandsReady x f →
      (s.deps.length < 16384 →
        let i := nthFree s.deps (Config.slotPick s.free % (16384 - s.deps.length)) 1
        exec (.depalloc rd ra) s = .next (({ s with
          free := s.free + 1, deps := mput s.deps i ⟨x.w.ctx, sint 32 va.toNat⟩ } : State).reeval.commit x f fun _ =>
            .ofS (w64 i))) ∧
      (16384 ≤ s.deps.length → exec (.depalloc rd ra) s = .next (s.commit x f fun _ => .ofS 0)) ∧
      exec (.depfree rd ra) s = .next ((s.depFree x.w.ctx va).1.commit x f fun _ => .ofS (s.depFree x.w.ctx va).2)) ∧
    (s.OperandsReady x fa → s.releaseWaits x x.active .device = false →
      exec (.depsig ra) s = .next ((x.active.foldl (fun s t => s.depSignal x ((x.w.thr t).vals fa).sa)
        (s.release x.cl x.active .device)).commit x fa fun _ => {}))) ∧
  (∀ (s : State) (x : Issuer) (b : List Byte), (s.launchRecord x b).2 = 0 →
    (s.launchRecord x b).1.launches.length = s.launches.length + 1) ∧
  (∀ (ds : Map Dep) (k : Nat), (ds.map (·.1)).Pairwise (· < ·) → (∀ d ∈ ds, 1 ≤ d.1 ∧ d.1 ≤ 16384) →
    k < 16384 - ds.length →
    let i := nthFree ds k 1
    1 ≤ i ∧ i ≤ 16384 ∧ mfind ds i = none)) ∧
  (∀ (s : State) (x : Issuer), s.Issues x → x.u.tx = none →
    exec .yield s = .next ((s.modU x fun u => { u with yieldLeft := 4 }).setPc x (x.pc + 4)) ∧
    (x.exitWaits = false → s.releaseWaits x x.active .system = false → ∃ t, exec .exit s = .next t ∧
      t = (s.release x.cl x.active .system).endThreads x.id.wg x.active ∧
      ∀ w, t.wg? x.id.wg = some w → ∀ u ∈ x.active, u < 128 → (w.thr u).exited = true))

/-- R382 to R385, R387 to R389: a walk that finds a leaf puts it into the cluster's TLB, by which every pipe then
translates the address, and gives it to the joined accesses that still wait, which go on; nothing else of a workgroup and
no memory changes. A walk that fails for a split thread outside a transaction takes the next ticket, queues one fault
record, and parks the thread at its instruction; for a group it waits until the group issues again and every lane's cause
is known (R51); where no joined access waits any more its entry goes. The first record is written to the ring when it has
room, TAIL rises, and the semaphore is signalled. What the walk reads of other dies' memory is counted (R274).

R390, R392: the answers to a ticket that one thread is parked under: RETRY unparks it, KILL ends it, DELIVER enters its
trap at S with the parked cause and address. The entry of the ticket is free then. A ticket that is not waiting logs the
error 0x05. -/
def Obligations.PageFaults : Prop :=
  ((∀ (s : State) (c n : Nat) (m : MergeEnt), (s.cl c).merge[n]? = some m → m.ticket = none →
    let va := w64 (m.vpn * 4096)
    let plain := fun (w : Workgroup) => { w with
      threads := w.threads.map fun (t : Nat × Thread) => (t.1, { t.2 with u := { t.2.u with walked := [] } })
      groups := w.groups.map fun (g : Group) => { g with u := { g.u with walked := [] } } }
    (∀ level e, s.walk m.ctx va = .leaf level e →
      let k : TlbEnt := ⟨m.ctx, level, vpnOf va level, e⟩
      ∃ t, exec (.translationWalk c n) s = .next t ∧ k ∈ (t.cl c).tlb ∧ (∀ p, (t.cl c).tlbFind p m.ctx va = some k) ∧
        (t.cl c).merge = (s.cl c).merge.eraseIdx n ∧ t.wgs.map plain = s.wgs.map plain ∧ t.mem = s.mem ∧
        ∀ v ∈ m.waiters, ∀ w, s.wg? v.wg = some w → w.waits v = true →
          ∃ w', t.wg? v.wg = some w' ∧ k ∈ (w'.ust v.t).walked) ∧
    (∀ mal, s.walk m.ctx va = .fail mal →
      let s1 := s.walkSeen (clDie c) m.ctx va
      let failed := fun (v : Waiter) => s1.modCl c fun cl => { cl with
        merge := cl.merge.set n { m with waiters := [v], failed := some mal } }
      ((∀ v ∈ m.waiters, ∀ w, s.wg? v.wg = some w → w.waits v = false) →
        exec (.translationWalk c n) s = .next (s1.modCl c fun cl => { cl with merge := cl.merge.eraseIdx n })) ∧
      (∀ v w, m.waiters = [v] → s.wg? v.wg = some w → w.waits v = true → (w.ust v.t).tx = none →
        (∀ g, w.groupOf v.t = some g → exec (.translationWalk c n) s = .next (failed v)) ∧
        (w.groupOf v.t = none → w.cluster = c → w.ctx = m.ctx → vpnOf v.va 0 = m.vpn → 5 ≤ v.cause → v.cause ≤ 7 →
          (∀ i e, i < n → (s.cl c).merge[i]? = some e → ¬(e.ctx = m.ctx ∧ e.vpn = m.vpn)) →
          ∃ t w', exec (.translationWalk c n) s = .next t ∧ t.wg? v.wg = some w' ∧
            (w'.thr v.t).park = some ⟨s.nextTicket, v.cause, v.va, false⟩ ∧ (w'.ust v.t).pc = v.pc ∧
            (w'.thr v.t).r = (w.thr v.t).r ∧ t.nextTicket = (s.nextTicket + 1) % 2 ^ 32 ∧
            t.faults = s.faults ++ [w.faultRec v s.nextTicket false mal] ∧ t.mem = s.mem)))) ∧
  (∀ (s : State) (r : FaultRec) (rest : List FaultRec), s.faults = r :: rest → s.fqEn = true →
    (s.fqTail - s.fqHead).toNat < 2 ^ s.fqLog2n →
    let at' := s.fqbase.toNat + 32 * (s.fqTail.toNat % 2 ^ s.fqLog2n)
    exec .faultRecordPost s = .next (({ s.homeWrite .dev at' r.bytes with
      fqTail := s.fqTail + 1, faults := rest } : State).semAdd (((s.ctx 0).semBase + s.fqSem) % 4096) 1) ∧
    r.bytes.length = 32)) ∧
  (∀ (s : State) (k : BitVec 32) (w : Workgroup) (t : Nat) (f : Park),
    (s.ticketOpen k.toNat = true → s.parkedUnder k.toNat = [(w.id, t)] → s.wg? w.id = some w →
      (w.thr t).park = some f →
      let s' := (s.closeTicket k.toNat).modThr w.id t fun th => { th with park := none }
      exec (.frespRetry k) s = .next s' ∧ exec (.frespKill k) s = .next (s'.killThread w.id t) ∧
      exec (.frespDeliver k) s = .next ((s'.modThr w.id t fun th => { th with hbWait := none, hbsync := none }).enterS w.id t f.fused f.cause f.va (w.ust t).pc (s.ctx w.ctx).stvec) ∧
      (∀ c, ∀ m ∈ (s'.cl c).merge, m.ticket ≠ some k.toNat)) ∧
    (s.ticketOpen k.toNat = false →
      exec (.frespRetry k) s = .next (s.logError 5 0 k.toNat 0) ∧
      exec (.frespKill k) s = .next (s.logError 5 0 k.toNat 0) ∧
      exec (.frespDeliver k) s = .next (s.logError 5 0 k.toNat 0)))

/-- R72, R170, R305, R309, R311: the oldest store of a thread completes its flag once none of its stores is on its way
or in an open transaction (R295) and the lines that it wrote have gone home, which the event asks of them; an engine
accepts the head command of the FIFO whose turn it is, and a command that charges no barrier, opens no window and joins
no collective then waits in it; a workgroup that has only waited for the FIFO ends (R314). A command whose work is done
leaves its engine: its stage barrier's pending count falls, its semaphore rises by 1, and its completion message, or
without one the error ENGINE for a status other than OK, is posted, unless its task has ended. -/
def Obligations.EngineEvents : Prop :=
  (∀ (s : State) (w : Workgroup) (t : Nat) (r : StoreFlag) (rest : List StoreFlag), s.wg? w.id = some w →
    (w.thr t).storeFlags = r :: rest →
    let done := exec (.completionEvent (.storeDone w.id t)) s
    let s1 := s.linesOut w.cluster (pipeOf t) r.lines
    (r.inTx = true ∨ s.batchLeft w.id t r.batch = true → done = .next s) ∧
    (r.inTx = false → s.batchLeft w.id t r.batch = false →
      (s1.linesWait w.cluster r.lines = true → done = .next s1) ∧
      (s1.linesWait w.cluster r.lines = false → done = .next (s1.modThr w.id t fun th =>
        { th.cfSub r.cf with storeFlags := th.storeFlags.tail }))) ∧
    (∀ l ∈ (s1.cl w.cluster).l1, l.bank = s.bankOf w.cluster (pipeOf t) ∨ l.bank = 32 → (l.sp, l.line) ∈ r.lines →
      l.dirty = 0)) ∧
  (∀ (s : State) (w : Workgroup) (t : Nat) (c : Cmd) (rest : List Cmd), s.wg? w.id = some w → (w.thr t).fifo = c :: rest →
    s.engineNext (s.engineOf w.cluster c) = some (256 * w.id + t) →
    let e : EngCmd := { id := s.nextId, wg := w.id, t := t, cluster := w.cluster, unit := w.unit
                        engine := s.engineOf w.cluster c, ctx := w.ctx, launch := w.launch, cmd := c, since := s.clock
                        run := if c.isStorage then c.queue + 256 * mget 0 s.sqGen c.queue else 0
                        taskAt := (w.thr t).task.map (·.1) }
    let s' := ({ s.modThr w.id t (fun th => { th with fifo := rest }) with
      nextId := s.nextId + 1
      rrEng := mput s.rrEng (s.engineOf w.cluster c) (256 * w.id + t) } : State).flagDone c.flag
    exec (.completionEvent (.accept w.id t)) s = .next ((s'.engineTake e).wgCheck w.id) ∧
    (c.stg = false → c.op ≠ 8 → c.op ≠ 9 → c.isColl = false → s'.engineTake e = { s' with cmds := s'.cmds ++ [e] })) ∧
  (∀ (s : State) (e : EngCmd) (st : Nat) (body : Word), s.eng? e.id = some e → e.result = some (st, body) →
    let s1 : State := { s with cmds := s.cmds.filter fun c => c.id ≠ e.id }
    let s2 := match e.stgGen with
      | some g => s1.pendBy e.wg e.cmd.sboff g (-1)
      | none => s1
    let s3 := if e.cmd.sem then s2.semAdd ((s2.ctx e.ctx).semBase + e.cmd.semn) 1 else s2
    let own := ((s3.thr e.wg e.t).task).map (·.1) = e.taskAt
    (¬own → exec (.commandComplete e.id) s = .next s3) ∧
    (own → e.cmd.mbox = true → exec (.commandComplete e.id) s = .next (s3.postDone e.wg e.t
      { body := body, hdr := w64 (2 ^ 60 + st % 16 * 2 ^ 56 + e.cmd.tag % 65536 * 2 ^ 40), sc := e.cmd.scope })) ∧
    (own → e.cmd.mbox = false → st = 0 → exec (.commandComplete e.id) s = .next s3) ∧
    (own → e.cmd.mbox = false → st ≠ 0 → exec (.commandComplete e.id) s = .next (s3.postError e.wg e.t 4
      (w64 (e.cmd.tag % 65536 + 65536 * (st % 16))))))

/-- R316 to R324: an accepted command of the copy engine that has not run runs, where it needs no link that is down
(R415), and its status and body wait for its completion. COPY within the scratchpad, of ranges that do not meet and
whose sectors pass, moves the bytes and changes no other. WOPEN opens its entry under the next generation and WCLOSE
closes it. MCAST sends every granted member its source in packets of 256 bytes; one that finds its entry open with its
generation is written there, another one is dropped.

The order of a command's pieces, and the moment of WOPEN and WCLOSE, are the model's (log entries 42, 43, 76 and 80). -/
def Obligations.CopyEngine : Prop :=
  (∀ (s : State) (e : EngCmd), s.eng? e.id = some e → e.result = none →
    let run := fun (i : Instr) (op : Nat) (f : EngCmd → ERun → ERun) => e.cmd.op = op →
      (f e { s := s }).waits s e = false →
      exec i s = .next ((f e { s := s }).s.engResult e (f e { s := s }).st (f e { s := s }).body)
    run (.copy e.cluster e.id) 1 runCopy ∧ run (.copyz e.cluster e.id) 2 runCopyz ∧
    run (.tensor e.cluster e.id) 3 runTensor ∧ run (.gather e.cluster e.id) 4 (runIndexed false) ∧
    run (.scatter e.cluster e.id) 5 (runIndexed true) ∧ run (.wopen e.cluster e.id) 8 runWindow ∧
    run (.wclose e.cluster e.id) 9 runWindow ∧
    (let d2 := e.cmd.d2.toNat
     let p := ({ s := s } : ERun).readN e e.cmd.d1 (if nbit d2 5 then 8192 else 2048)
     let there := (s.wgs.filter fun w => w.id == e.wg).map (·.cluster) = [e.cluster]
     let r := ERun.chargeAll e (p.2.length / 256 + 1) p.2.length { p.1 with s := if there then p.1.s.modCl e.cluster (fun cl =>
       cl.fillOb (nbit d2 2) (nbits d2 1 0) (2048 * nbits d2 4 3) p.2) else p.1.s }
     e.cmd.op = 6 → fillWaits (s.cl e.cluster) (nbit d2 2) (nbits d2 1 0) = false → r.waits s e = false →
     (there ∨ s.wg? e.wg = none) →
       exec (.fillob e.cluster e.id) s = .next (r.s.engResult e r.st r.body)) ∧
    (e.cmd.op = 7 → e.submitted = false →
      let p := (s.mcMembers e).foldl (fun (p : State × List Grant) m =>
        ((p.1.mcClaim e m.1 m.2).1, p.2 ++ (p.1.mcClaim e m.1 m.2).2.toList)) (s, [])
      let read := ({ s := p.1 } : ERun).readN e e.cmd.d1 e.cmd.len
      let bs := read.2
      read.1.waits s e = false →
      ∃ t ps, exec (.mcast e.cluster e.id) s = .next t ∧ t.packets = s.packets ++ ps ∧
        ps.map (fun y => (y.cmd, y.grant, y.pos, y.data)) = p.2.flatMap fun g =>
          (List.range ((bs.length + 255) / 256)).map fun k => (e.id, g, 256 * k, (bs.drop (256 * k)).take 256))) ∧
  (∀ (s : State) (e : EngCmd), s.winBad e = false →
    let n := nbits e.cmd.d1.toNat 42 39
    let w := (s.cl e.cluster).window n
    let r := runWindow e { s := s }
    r.st = 0 ∧ ((r.s.cl e.cluster).window n).gen = (w.gen + 1) % 4096 ∧
    (e.cmd.op = 8 → ((r.s.cl e.cluster).window n).st = .opened ∧ ((r.s.cl e.cluster).window n).owner = some e.wg) ∧
    (e.cmd.op = 9 → ((r.s.cl e.cluster).window n).st = .closed)) ∧
  (∀ (s : State) (e : EngCmd) (w : Workgroup) (a b n : Nat), s.eng? e.id = some e → e.result = none → e.cmd.op = 1 →
    e.cmd.crc = 0 → e.stgGen = none → e.cmd.len = n → s.wg? e.wg = some w → w.cluster = e.cluster →
    e.cmd.d1 = ownAddr a → e.cmd.d2 = ownAddr b → a + n ≤ w.cfg.scratch → b + n ≤ w.cfg.scratch →
    w.cfg.scratch ≤ 458752 → (a + n ≤ b ∨ b + n ≤ a) → (∀ o m, s.sramFail w.cluster o m = none) →
    ∃ t, exec (.copy e.cluster e.id) s = .next t ∧
      t.sramBytes w.cluster (w.phys b) n = s.sramBytes w.cluster (w.phys a) n ∧
      (∀ c o, (c ≠ w.cluster ∨ o < w.phys b ∨ w.phys b + n ≤ o) → t.sramBytes c o 1 = s.sramBytes c o 1) ∧
      t.mem = s.mem) ∧
  (∀ (s : State) (p : McPacket) (pre post : List McPacket) (e : EngCmd) (v : Workgroup), s.packets = pre ++ p :: post →
    (∀ q ∈ pre ++ post, q.id ≠ p.id) → s.eng? p.cmd = some e → p.grant.link = none → e.stgGen = none →
    let w := (s.cl p.grant.cluster).window p.entry
    (w.st = .opened → w.gen = p.grant.gen → w.owner = some v.id → s.wg? v.id = some v →
      ∃ t, exec (.mcastPacketArrive p.id) s = .next t ∧ t.packets = pre ++ post ∧
        t.sramBytes v.cluster (v.phys (w.off + p.pos)) p.data.length = p.data) ∧
    (w.st ≠ .opened ∨ w.gen ≠ p.grant.gen →
      ∃ t, exec (.mcastPacketArrive p.id) s = .next t ∧ t.packets = pre ++ post ∧
        ∀ c, (t.cl c).sram = (s.cl c).sram))

/-- R327, R328: when all P ranks have joined, descriptors agree and every source can be read, each local participant
starts with the vectors of all ranks; a participant whose descriptor failed a check completes with its own status and
its peers with PEER; else, where descriptors disagree, all complete with MISMATCH. A started participant writes its
result, once it needs no link that is down or the time of R415 has passed and its status is PEER, and when the last has
written all of them complete. A command waits for its place in the count while one that its engine accepted before has
none. A rank table that no link reaches is waited for, and after 1 ms its collective completes with PEER.

That the sources are read in one step, that a failed check of a descriptor comes before the comparison, and that a
command behind an unread descriptor waits are the model's (log entry 44). Elements of a destination that overlap a source
are undefined (R328): they are the free bytes of log entry 29. -/
def Obligations.Collectives : Prop :=
  (∀ (s : State) (gid seq : Nat) (remote : List RemotePart) (e0 : EngCmd) (c0 : CollPart)
    (rest : List (EngCmd × CollPart)), (s.cmds.map (·.id)).Nodup → s.collNext gid remote = some seq →
    s.collLocal gid seq = (e0, c0) :: rest → (rest.length + 1) + remote.length = collP c0.desc →
    let ps := (e0, c0) :: rest
    let same := (∀ p ∈ ps, collKey p.1.cmd.op p.2 = collKey e0.cmd.op c0) ∧
      (∀ r ∈ remote, remoteKey r = collKey e0.cmd.op c0) ∧
      ∀ r, r < collP c0.desc → (∃ p ∈ ps, p.2.rank = r) ∨ ∃ q ∈ remote, q.rank = r
    let got := fun (p : EngCmd × CollPart) =>
      ({ s := s } : ERun).readN p.1 (w64 (bfield p.2.desc 0 8)) (collSrcLen p.1.cmd.op p.2.desc)
    let sound := (∀ p ∈ ps, p.2.bad = none) ∧ ∀ r ∈ remote, r.failed = false
    (¬sound → ∃ t, exec (.collectiveStart gid remote) s = .next t ∧
      ∀ p ∈ ps, ∃ e, t.eng? p.1.id = some e ∧ e.result = some (p.2.bad.getD (12, 0))) ∧
    (sound → ¬same → ∃ t, exec (.collectiveStart gid remote) s = .next t ∧
      ∀ p ∈ ps, ∃ e, t.eng? p.1.id = some e ∧ e.result = some (10, 0)) ∧
    (sound → same → (∀ p ∈ ps, (got p).1.halt = false) →
      ∃ t, exec (.collectiveStart gid remote) s = .next t ∧
        ∀ p ∈ ps, ∃ e, t.eng? p.1.id = some e ∧ e.result = none ∧ e.coll = some { p.2 with
          started := true
          srcs := ps.map (fun q => (q.2.rank, (got q).2)) ++ remote.map fun r => (r.rank, r.data) })) ∧
  (∀ (s : State) (e : EngCmd) (c : CollPart), s.eng? e.id = some e → e.coll = some c → e.result = none →
    c.started = true → c.written = false →
    let res := fun (i : Instr) (op : Nat) => e.cmd.op = op →
      let bs := collOpen op c s.free (collResult op c)
      let r := ({ s := { s with free := s.free + bs.length } } : ERun).write e (w64 (bfield c.desc 8 8)) bs
      r.waits s e = false →
      exec i s = .next ((r.s.modEng e.id fun k =>
        { k with coll := some { c with written := true }, soFar := if r.far then (12, 0) else (r.st, r.body) }).collEnd c)
    res (.allred e.id) 0x10 ∧ res (.redscat e.id) 0x11 ∧ res (.allgath e.id) 0x12 ∧ res (.bcast e.id) 0x13) ∧
  (∀ (s : State) (e k : EngCmd) (c : CollPart) (pre post : List EngCmd), s.cmds = pre ++ e :: post →
    (∀ d ∈ pre, d.id ≠ e.id) →
    (k ∈ pre → k.unjoined = true → k.engine = e.engine → s.collJoin e = s) ∧
    (let r := (({ s := s } : ERun).readN e (w64 (bfield c.desc 24 8)) (2 * collP c.desc)).1
     e.coll = some c → e.result = none → c.tabled = false →
      (r.waits s e = true → s.collTable e = s) ∧
      (r.waits s e = false → r.far = true → s.collTable e = s.collPeer c)))

/-- R329, R330, R407: a storage command whose turn it is, with an entry free and its buffer in device memory, stands as
an NVM submission entry at the tail of its queue, by the queue-table entry that the queue's run goes by, and the tail
moves on; the engine keeps the pages of its buffer, which make its PRP list. The doorbell takes the tail of each run of
the queue. A new completion entry at the head ends its command, OK or with STORAGE and the status field, the head moves
on, and its doorbell takes it.

The entries' layout is NVMe's (log entry 31); that a queue enabled anew has a run of its own beside one still in use, and
the entry that a run goes by, are the model's choices (log entry 68). -/
def Obligations.Storage : Prop :=
  (∀ (s : State) (e : EngCmd) (ps : List (Nat × Nat)), s.eng? e.id = some e → e.result = none → e.submitted = false →
    s.sqTurn e = true →
    let r := s.sq e.run
    (r.subTail + 1) % r.entries ≠ r.subHead →
    let len := s.storageLen e
    let pages := bufPages (len / 4096 + 2) e.cmd.d1.toNat len
    let st := fun (i : Instr) (op opcode lba nlb fua : Nat) (k : Access) => e.cmd.op = op →
      s.bufPas e k pages = .ok ps →
        ∃ t prp2 e', exec i s = .next t ∧
          t.homeBytes .dev (r.field 0 8 + 64 * r.subTail) 64 =
            sqEntry opcode r.freshCid (r.field 36 4) ((ps.map (·.1)).headD 0) prp2 lba nlb fua ∧
          (ps.length ≤ 1 → prp2 = 0) ∧ (∀ x y, ps = [x, y] → prp2 = y.1) ∧
          (t.sq e.run).subTail = (r.subTail + 1) % r.entries ∧
          (t.sq e.run).inflight = r.inflight ++ [(r.freshCid, e.id)] ∧ t.eng? e.id = some e' ∧ e'.submitted = true ∧
          e'.prps = (pages.zip ps).map fun p => (p.1.1, p.2.1)
    st (.sread e.id) 0x20 2 e.cmd.d2.toNat (nbits e.cmd.d0.toNat 15 0) 0 .store ∧
    st (.swrite e.id) 0x21 1 e.cmd.d2.toNat (nbits e.cmd.d0.toNat 15 0) (nbits e.cmd.d0.toNat 32 32) .load ∧
    st (.sflush e.id) 0x22 0 0 0 0 .load) ∧
  (∀ (s : State) (q : Nat),
    exec (.storageSubmit q) s = .next ((s.runsOf q).foldl (fun s k =>
      let r := s.sq k
      if r.subTail = r.rung then s
      else (s.homeWrite .pcie (r.field 16 8) (leBytes 4 r.subTail)).modSq k fun r => { r with rung := r.subTail }) s) ∧
    exec (.storageCompletion q) s = .next ((s.runsOf q).foldl State.reap s)) ∧
  (∀ (s : State) (k : Nat) (e : EngCmd) (cid : Nat) (pre post : List (Nat × Nat)),
    let r := s.sq k
    let at' := r.field 8 8 + 16 * r.compHead
    let dw3 := leNat (s.homeBytes .dev (at' + 12) 4)
    let status := dw3 / 2 ^ 17
    let head := (r.compHead + 1) % r.entries
    let t := s.reap k
    (nbit dw3 16 ≠ r.phase → t = s) ∧
    (nbit dw3 16 = r.phase → cid = dw3 % 65536 → r.inflight = pre ++ (cid, e.id) :: post → (∀ f ∈ pre, f.1 ≠ cid) →
      s.eng? e.id = some e → e.stgGen = none →
        ∃ e', t.eng? e.id = some e' ∧
          e'.result = some (if nbits status 10 0 = 0 then (0, 0) else (11, w64 (status % 2 ^ 15))) ∧
          (t.sq k).compHead = head ∧ (t.sq k).phase = (if head = 0 then !r.phase else r.phase) ∧
          t.homeBytes .pcie (r.field 24 8) 4 = leBytes 4 head ∧ (∀ f ∈ (t.sq k).inflight, f.1 ≠ cid)))

/-- R30, R275, R347, R352 to R362, R365: the distributor's events. A doorbell in range sets a queue's tail, another one
logs the error 0x04; the queue whose turn it is gives its next record; a ready launch stages its ranges and then
dispatches; the first unit that fits is placed; levels age; GATHER opens a rectangle; JOINSPIN and the two watchdogs act
when their time has passed, the wait watchdog on an instruction that was still found not ready then, with the token of an
HBSYNC delivered.

Ties, first-fit search and the choice of units to move are the model's (log entries 57 to 60). -/
def Obligations.Distribution : Prop :=
  (∀ (s : State) (fn q : Nat) (v : BitVec 32), q < 1024 → fn ≤ 64 →
    let x := s.queue q
    let ok := (fn = 0 ∨ mget 0 s.bindings x.ctx = fn) ∧ (v - x.head).toNat ≤ 2 ^ x.k
    (ok → exec (.doorbell fn q v) s = .next { s with queues := mput s.queues q { x with tail := v } }) ∧
    (¬ok → exec (.doorbell fn q v) s = .next (s.logError 4 x.ctx q (v.setWidth 64))) ∧
    (s.queueNext = some q → (s.launches.filter fun l => l.pool = .host).length < 8192 →
      ∃ t, exec (.launchQueueTake q) s = .next t ∧ t = s.queueTake q ∧ (t.queue q).head = x.head + 1 ∧
        (t.queue q).tail = x.tail ∧ t.wgs = s.wgs)) ∧
  (∀ (s : State) (l : Launch), s.launches.find? (fun k => k.id == l.id) = some l →
    (l.state = .ready → s.stagesNext l = true →
      exec (.rangeListStaging l.id) s = .next (s.modLaunch l.id fun l => { l with state := .staging })) ∧
    (l.state = .staging →
      ∃ t, exec (.rangeListStaging l.id) s = .next t ∧ t.launches = s.launches.map (fun k =>
        if k.id = l.id then { k with state := .dispatching, since := s.clock } else k) ∧ t.wgs.length = s.wgs.length ∧
        ((∃ b, s.rangeEntry l 0 = some b ∧ bfield b 8 4 = 0) → t.wgs = s.wgs ∧ t.mem = s.mem)) ∧
    (∃ t, exec (.levelAging l.id) s = .next t ∧ t.launches = s.launches.map (fun k =>
      if k.id = l.id ∧ k.state = .dispatching then { k with level := s.levelAt k.cfg.priority k.since } else k) ∧
      t.wgs = s.wgs ∧ t.mem = s.mem)) ∧
  (∀ (s : State) (u : DUnit) (p : Nat × Nat × Nat),
    let s' := s.notePassed.preemptTop
    (s'.placeable = some (u, p) → u.saved = none → exec .dispatchPlace s = .next (s'.startUnit u p)) ∧
    (s'.placeable = none → exec .dispatchPlace s = .next s')) ∧
  (∀ (s : State) (u : DUnit) (c : Nat) (pre post : List DUnit), s.ranked = pre ++ u :: post →
    (∀ v ∈ pre, v.l.id ≠ u.l.id) → u.l.cfg.ensW ≠ 0 → u.rect = none → u.passed = some c →
    s.usClocks s.gather.toNat ≤ s.clock - c → s.spotFor u = none →
    (pre = [] → s.prioBusy = false ∧ s.preemptChoice u = none) →
    (s.gatherChoice u = none → exec (.gatherExpiry u.l.id) s = .next (s.setGather u (some s.clock) none)) ∧
    (∀ p us, s.gatherChoice u = some (p, us) →
      exec (.gatherExpiry u.l.id) s = .next ((s.setGather u (some c) (some p)).askSave us .normal))) ∧
  (∀ (s : State) (w : Workgroup) (t c : Nat) (b : Int), s.wg? w.id = some w →
    ((∀ v ∈ s.ofUnits [w.unit], ∃ d, v.joinSince = some d ∧ s.usClocks s.joinspin.toNat ≤ s.clock - d) →
      exec (.joinspinExpiry w.id) s = .next (s.askSave [w.unit] .join)) ∧
    (∀ col, (w.thr t).task = some (c, col) → (w.thr t).wdDone = false → (w.thr t).park = none → (w.ust t).tx = none →
      s.usClocks s.wdtask.toNat ≤ s.clock - c →
      exec (.taskWatchdog w.id t) s = .next ((s.modThr w.id t fun th => { th with wdDone := true }).takeTrap w.id t false
        0x12 1 (w.thr t).u.pc)) ∧
    (let x := w.issuer t
     x.u.waiting = .watched → x.u.waitSince = some b → b + s.usClocks s.wdwait.toNat ≤ x.u.waitSeen →
     ((∀ u ∈ x.active, (w.thr u).hbsync = none) →
       exec (.waitWatchdog w.id t) s = .next (s.trapLanes x false (x.active.map fun u => (u, 0x12, 2)))) ∧
     (∀ h, x.active = [t] → (w.thr t).hbsync = some h →
       exec (.waitWatchdog w.id t) s = .next ((s.modThr w.id t fun th =>
         th.put (some (.s h.rd)) (BitVec.ofNat 256 (bnat h.token)) none).trapLanes x false [(t, 0x12, 2)]))))

/-- R53, R359, R393 to R398: a unit that is to be saved, of one workgroup with everything drained and room in its
context's save region, leaves the device and waits as a saved unit, its workgroup as its drains leave it in an area that
begins as R395 has it and holds the image of each thread; without room it keeps running and the error 0x08 is logged;
while something has still to drain, its open transactions abort, once. A saved unit that is the first to fit resumes:
where its tables can be pinned, none of its workgroups is on the device and each has a thread that has not exited, its
workgroups stand on the clusters of the place, under their WGIDs, with the registers, PC, level, group, waiting state,
arrival and rejoin record of each thread as its image holds them. Where a table cannot be pinned the unit stays saved,
marked, and the error 0x07 is logged with the table and its spill address.

Where areas lie, what is kept beside them, and when a unit whose pins failed is tried again are the model's choices (log
entries 53 to 56 and 92). -/
def Obligations.SaveAndRestore : Prop :=
  (∀ (s : State) (w : Workgroup), s.wg? w.id = some w → s.wgs.filter (fun v => v.unit == w.unit) = [w] →
    s.saving w = true → w.saveReq = some .normal → s.drained w = true →
    let c := s.ctx w.ctx
    let spots := areaSpots c.svbase.toNat c.svsize.toNat [w.cfg.areaSize] s.areas
    let z := ((s.beginSave [w] w.unit).portsFlush w.unit).endDying w.unit
    (∀ a, spots = some [a] → ∃ t, exec (.workgroupSave w.id) s = .next t ∧ (∀ v ∈ t.wgs, v.unit ≠ w.unit) ∧
      ∀ y, z.wg? w.id = some y → ∃ u ∈ t.saved, u.id = w.unit ∧ u.launch = w.launch ∧ u.ctx = w.ctx ∧ u.pinned = w.pinned ∧
        u.since = s.clock ∧ u.joinWait = false ∧ ∃ v, u.wgs = [v] ∧ v.id = w.id ∧ v.area = a ∧ v.size = y.cfg.areaSize ∧
          (v.gx, v.gy, v.gz, v.ex, v.ey) = (y.gx, y.gy, y.gz, y.ex, y.ey)) ∧
    (spots = none → exec (.workgroupSave w.id) s = .next ((s.keepRunning [w]).logError 8 w.ctx 0 0) ∧
      (s.keepRunning [w]).wgs = s.wgs.map fun v => if v.id = w.id then { v with saveReq := none, begun := false } else v)) ∧
  (∀ (s : State) (w : Workgroup), s.wg? w.id = some w → s.wgs.filter (fun v => v.unit == w.unit) = [w] →
    s.saving w = true → w.saveReq = some .normal → s.drained w = false →
    areaSpots (s.ctx w.ctx).svbase.toNat (s.ctx w.ctx).svsize.toNat [w.cfg.areaSize] s.areas ≠ none →
    exec (.workgroupSave w.id) s = .next (if w.begun then s else
      { s.abortAll w with wgs := (s.abortAll w).wgs.map fun v => if v.unit = w.unit then { v with begun := true } else v })) ∧
  (∀ (s : State) (w : Workgroup) (area : Nat),
    let p := s.writeArea w area
    let read := fun (o n : Nat) => p.1.homeBytes .dev (area + o) n
    read 0 32 = w.cfg.areaStart w.wgid ∧
    (∀ i < w.cfg.threads, read (w.cfg.areaImages + 4096 * i) 4096 = s.imageBytes (w.imageSrc i)) ∧
    (∀ a, a < area ∨ area + w.cfg.areaSize ≤ a → p.1.homeByte .dev a = s.homeByte .dev a)) ∧
  (∀ (s : State) (d : DUnit) (u : SavedUnit) (p : Nat × Nat × Nat), s.placeable = some (d, p) → d.saved = some u →
    let r := d.l.cfg
    let image := fun (v : SavedWg) (i : Nat) => s.homeBytes .dev (v.area + r.areaImages + 4096 * i) 4096
    ∃ t, exec (.workgroupRestore u.id) s = .next t ∧
      ((∀ v ∈ u.wgs, ∃ ks, s.tablesOf u.ctx v = .ok ks) → (∀ k ∈ t.saved, k.id ≠ u.id) ∧
        ((u.wgs.map (·.id)).Nodup → (∀ v ∈ u.wgs, s.wg? v.id = none) →
          (∀ v ∈ u.wgs, ∃ i < r.threads, nbit (bfield (image v i) 0x607 1) 0 = false) →
          ∀ v ∈ u.wgs, ∃ w, t.wg? v.id = some w ∧ w.cluster = clusterAt (p.2.1 + v.ex) (p.2.2 + v.ey) ∧
            w.unit = u.id ∧ w.launch = d.l.id ∧ w.ctx = d.l.ctx ∧ w.cfg = r ∧ w.pinned = u.pinned ∧
            (w.gx, w.gy, w.gz, w.ex, w.ey) = (v.gx, v.gy, v.gz, v.ex, v.ey) ∧
            ∀ i < r.threads,
              let f := bfield (image v i)
              let th := w.thr i
              let x := f 0x608 8
              let m := f 0x610 8
              let j := f 0x630 8
              (∀ n, 0 < n → n < 28 → th.r.sget (BitVec.ofNat 5 n) = w64 (f (8 * n) 8) ∧
                th.r.vget (BitVec.ofNat 5 n) = BitVec.ofNat 256 (f (0x100 + 32 * n) 32)) ∧
              th.u.pc = pcOf (f 0x5B0 8) ∧ th.u.sh.priv = (if nbits (f 0x5B8 8) 11 10 = 1 then .s else .u) ∧
              th.exited = nbit (f 0x607 1) 0 ∧
              th.arrival = (if nbit (f 0x607 1) 1 then some (fszOf (nbits (f 0x607 1) 3 2)) else none) ∧
              th.u.waiting = (if f 0x638 4 = 0 then .none else .watched) ∧
              th.rejoin = (if nbit j 41 then some ⟨nbits j 33 32, nbits j 38 34, fszOf (nbits j 40 39), BitVec.ofNat 32 j,
                pcOf (f 0x628 8)⟩ else none) ∧
              (nbits x 1 0 ≠ 0 → nbit x 7 = true → ∃ g ∈ w.groups, g.col = i / 32 ∧ g.base = nbits x 6 2 ∧
                g.f = fszOf (nbits x 1 0) ∧ g.live = BitVec.ofNat 32 (nbits x 39 8) ∧ g.active = BitVec.ofNat 32 m ∧
                g.low = nbits m 47 32 ∧ g.stack.length = nbits m 51 48 ∧ g.u.pc = pcOf (f 0x5B0 8)))) ∧
      ((∃ v ∈ u.wgs, ∃ e, s.tablesOf u.ctx v = .error e) → t.wgs = s.wgs ∧
        t.saved = s.saved.map (fun k => if k.id = u.id then { k with pinFail := true } else k) ∧
        ∃ v ∈ u.wgs, ∃ (e : Nat × Nat) (z : State), s.tablesOf u.ctx v = .error e ∧ t = z.logError 7 u.ctx e.1 (w64 e.2) ∧
          { z with pages := s.pages, saved := s.saved } = s))

/-- R92, R285, R303, R403 to R407, R417 to R419: the mailbox commands with arguments in range have their effect and
complete with OK, others complete with their status and change nothing; the host's writes, reads and AtomicOps of device
memory act at its home, a read of a failing sector is aborted and reported; a write of the storage-queue table stands, but
for reserved bits, save where it would leave an enabled entry enabled; an object that passes every check, its
signature among them, is relocated in its copy, its data pages and then its text pages are mapped where the context's
tables reach them, text executable and read-only, and it may be launched; one that fails a check is reported.

Statuses that R405 leaves open, partial writes of the table, error replies, the handle of an object, and what is mapped
where a table or a congruent place is missing are the model's (log entries 64 to 69); the identity's signature is open
(log entry 32). -/
def Obligations.HostInterface : Prop :=
  (∀ (s : State), s.host.busy = true → s.host.fstage = 0 →
    let arg := s.host.arg
    let k := s.host.payload
    let cmd := fun (i : Instr) (code : Nat) (ok : Prop) (good : State) (bad : Nat) => s.host.code = code →
      (ok → exec i s = .next good) ∧ (¬ok → exec i s = .next (s.mailDone bad []))
    let known := s.keys.any (fun x => keyId x == keyId k) = true
    (s.host.len = 2592 → cmd .regkey 1 (¬known ∧ s.keys.length < 16)
      (({ s with keys := s.keys ++ [k] } : State).mailDone 0 (keyId k)) 3) ∧
    cmd .delkey 2 (s.host.len = 8 ∧ s.keys.any (fun x => keyId x == k) = true)
      (({ s with keys := s.keys.filter fun x => keyId x ≠ k } : State).mailDone 0 []) 2 ∧
    cmd .attest 3 (s.host.len = 64) (s.mailDone 0 (s.reportBody k ++
      (List.range 4627).map (Config.identitySign (sha3_512 (s.reportBody k))) ++ zeroBytes 5)) 2 ∧
    cmd .setdev 4 (nbits arg 7 0 ≤ nbits arg 15 8)
      (({ s with devNum := nbits arg 7 0, domSize := nbits arg 15 8 + 1 } : State).mailDone 0 []) 2 ∧
    cmd .bindvf 5 (nbits arg 23 16 ≤ 64)
      (({ s with bindings := mset 0 s.bindings (nbits arg 11 0) (nbits arg 23 16) } : State).mailDone 0 []) 2 ∧
    cmd .pwrcap 6 (1000 ≤ arg ∧ arg ≤ 2800) (({ s with pwrcap := arg } : State).mailDone 0 []) 2 ∧
    cmd .telem 7 True (({ s with free := s.free + 256 } : State).mailDone 0
      ((List.range 256).map (fun i => Config.telemByte s.eccCount (s.free + i)) ++
        (List.range (min Config.chainLen 7936)).map Config.chainByte)) 2 ∧
    cmd .aperture 8 (arg % 2 ^ 30 = 0 ∧ arg ≤ 343597383680) (({ s with aperture := arg } : State).mailDone 0 []) 2 ∧
    (s.host.code = 0 ∨ 8 < s.host.code → exec .mailboxBadcmd s = .next (s.mailDone 1 []))) ∧
  (∀ (s : State) (off len a : Nat) (bytes : List Byte) (op : HostAtom) (wide : Bool) (x y : Word),
    (off + bytes.length ≤ 2 ^ 36 →
      exec (.hostWrite 0 (.bar2 off) bytes) s = .next (s.homeWrite .dev (s.aperture + off) bytes)) ∧
    (off + len ≤ 2 ^ 36 →
      (s.homeFail (s.aperture + off) len = none → exec (.hostRead 0 (.bar2 off) len) s = .next {
        s.homeSeenAll 8 (s.aperture + off) len with hostReply := some (true, s.homeBytes .dev (s.aperture + off) len) }) ∧
      (s.homeFail (s.aperture + off) len ≠ none → exec (.hostRead 0 (.bar2 off) len) s = .next { s with
        hostReply := some (false, []), reports := s.reports ++ [.completerAbort (s.aperture + off)] })) ∧
    (let n := if wide then 8 else 4
     let at' := s.aperture + off
     let old := leNat (s.homeBytes .dev at' n)
     let new := match op with
       | .fetchAdd => (old + x.toNat) % 256 ^ n
       | .swap => x.toNat % 256 ^ n
       | .cas => if old = y.toNat % 256 ^ n then x.toNat % 256 ^ n else old
     off + n ≤ 2 ^ 36 → off % n = 0 → s.homeFail at' n = none →
       ∃ t, exec (.hostAtomicop 0 (.bar2 off) op wide x y) s = .next t ∧ leNat (t.homeBytes .dev at' n) = new ∧
         t.hostReply = some (true, leBytes n old) ∧
         ((a < at' ∨ at' + n ≤ a) → t.homeByte .dev a = s.homeByte .dev a)) ∧
    (off + bytes.length ≤ 0x4000 →
      let new := msets 0 s.sqTable off bytes
      ∃ t, exec (.storageQueueTableWrite 0 off bytes) s = .next t ∧ t.mem = s.mem ∧
        ∀ n, 64 * n < off + bytes.length → off < 64 * n + 64 → mgets 0 t.sqTable (64 * n) 64 =
          if sqEnabled s.sqTable n = true ∧ sqEnabled new n = true then mgets 0 s.sqTable (64 * n) 64
          else sqMask (mgets 0 new (64 * n) 64))) ∧
  (∀ (s : State) (p : ObjPresent),
    let o := objOfBytes (s.homeBytes .dev p.pa p.size) p.vas
    (o.ok s.keys = false ∨ o.relocated = none →
      exec (.objectVerify p) s = .next { s with reports := s.reports ++ [.objectRefused p.ctx p.pa] }) ∧
    (∀ ps r, o.ok s.keys = true → o.relocate = some (ps, r) →
      let s' := s.patchCopy p.pa ps
      let root := nbits (s.ctx p.ctx).ptroot.toNat 51 21 * 2 ^ 21
      let va := fun (pg : ObjPage) => w64 (4096 * pg.page)
      ∃ t, exec (.objectVerify p) s = .next t ∧ t.objects = s.objects ++ [r.code s.nextId p.ctx o.digest] ∧
        s'.homeBytes .dev p.pa r.b.length = r.b ∧
        (∀ i x perm k, r.sects[i]? = some x → sectPerm x.ty = some perm → r.va i % 4096 = (p.pa + x.off) % 4096 →
          r.va i / 4096 ≤ k → 4096 * k < r.va i + x.size → 0 < x.size →
          ⟨k, p.pa + x.off + 4096 * k - r.va i, perm⟩ ∈ r.pages p.pa) ∧
        ((∀ pg ∈ r.pages p.pa, s'.slotFor (va pg) 4 root = none) → t.mem = s'.mem) ∧
        (∀ pg at', r.pages p.pa = [pg] → nbit (s.ctx p.ctx).ptroot.toNat 0 = true → canonical (va pg) = true →
          isWindow (va pg) = false → s'.slotFor (va pg) 4 root = some (0, at') →
          let old := w64 (leNat (s'.homeBytes .dev at' 8))
          let leaf := objLeaf p.ctx old pg.pa pg.perm
          nbit old.toNat 7 = false → t.homeBytes .dev at' 8 = leBytes 8 leaf.toNat ∧
            (pg.pa % 4096 = 0 → pg.pa < 2 ^ 52 → nbits leaf.toNat 1 0 = 3 ∧ leafPa leaf = pg.pa ∧
              nbits leaf.toNat 4 2 = pg.perm / 4))))

/-- R410 to R415: every flit that a port which is up receives has its effect: a data flit or audit that is the next in
order is accepted and returns its credits, a duplicate of either is discarded, a gap, a bad CRC and a next data flit
without a free buffer are answered with a NAK, and types 4 to 7 are discarded; an acknowledgement frees the held flits up
to it; a NAK sends the held ones again, and the eighth time retrains; an audit sets the credits. An audit that is due goes
out, a port trains or goes down after three failed trainings, a link comes up, and a request that no link carries for 1 ms
ends, a collective that waits for another device with PEER for each rank. R301, R304, R408, R416, R420, R421: power-on
starts the device when all four stages pass and stops the boot otherwise; module reset gives the reset state amid what
stays outside; a joint failure and a power loss stop it; the arithmetic clock changes; each soft error has its effect, and
a flipped byte breaks its sector's check.

The audit's counts, the window of duplicates, the next data flit without a buffer, what a data flit carries, and what a
reset leaves outside are the model's (log entries 33, 70, 72 and 93); the key and the versions are open (log entry 32). -/
def Obligations.LinkAndPower : Prop :=
  (∀ (s : State) (n : Nat) (f : Flit), (s.port n).up = true →
    let p := s.port n
    let quiet := ∀ v < 4, p.waiting.getD v 0 = 0
    let next := flitSeq f = (p.accepted + 1) % 4096
    let dup := (p.accepted + 4096 - flitSeq f) % 4096 < 2048
    let vc := flitVc f
    let a := p.acked (flitAck f)
    let run := fun (i : Instr) (good : LinkPort → Prop) => ∃ t, exec i s = .next t ∧ good (t.port n)
    let nak := fun (q : LinkPort) => q = p.nak ∧ q.out = p.out ++ [mkFlit 0 p.accepted 2 0 0 0 []]
    (flitGood f = false → run (.dataFlit n f) nak ∧ run (.idleFlit n f) nak ∧ run (.nak n f) nak ∧ run (.audit n f) nak) ∧
    (flitGood f = true →
      (flitType f = 0 →
        (p.rxOcc.getD vc 0 < 64 → next → run (.dataFlit n f) fun q => q.accepted = flitSeq f ∧
          q.rxAcc = p.rxAcc.set vc ((p.rxAcc.getD vc 0 + 1) % 65536) ∧
          (quiet → q.out = p.out ∧ q.replay = a.replay ∧ q.rxOcc = p.rxOcc.set vc (p.rxOcc.getD vc 0 + 1) ∧
            q.credits = p.credits.set (flitCvc f) (p.credits.getD (flitCvc f) 0 + flitCcnt f))) ∧
        (¬next → dup → quiet → run (.dataFlit n f) (· = p)) ∧
        ((64 ≤ p.rxOcc.getD vc 0 ∧ next) ∨ (¬next ∧ ¬dup) → quiet → run (.dataFlit n f) nak)) ∧
      (4 ≤ flitType f → exec (.dataFlit n f) s = .next s ∧ exec (.idleFlit n f) s = .next s ∧
        exec (.nak n f) s = .next s ∧ exec (.audit n f) s = .next s) ∧
      (flitType f = 1 → quiet → run (.idleFlit n f) (· = a)) ∧
      (flitType f = 2 → quiet →
        let k := a.replays + if a.replay = [] then 0 else 1
        run (.nak n f) fun q => q.out = p.out ++ a.replay ∧ q.replay = a.replay ∧ q.accepted = p.accepted ∧
          q.replays = k ∧ q.retrain = (p.retrain || decide (8 ≤ k))) ∧
      (flitType f = 3 → ¬next → quiet → (dup → run (.audit n f) (· = p)) ∧ (¬dup → run (.audit n f) nak)) ∧
      (flitType f = 3 → next → quiet →
        let left := fun (v : Nat) => (p.sent.getD v 0 + 65536 - leNat ((f.payload.drop (2 * v)).take 2)) % 65536
        run (.audit n f) fun q => q.accepted = flitSeq f ∧ q.out = p.out ∧
          ((∃ v < 4, 64 < left v) → q.retrain = true) ∧
          ((∀ v < 4, left v ≤ 64) → q.retrain = p.retrain ∧ (p.credits.length = 4 → ∀ v < 4,
            q.credits.getD v 0 = 64 - left v + if v = flitCvc f then flitCcnt f else 0)))) ∧
    (∀ pre g post, p.replay = pre ++ g :: post → (∀ x ∈ pre, flitSeq x ≠ flitAck f) → flitSeq g = flitAck f →
      a.replay = post ∧ a.replays = 0) ∧
    ((∀ x ∈ p.replay, flitSeq x ≠ flitAck f) → a = p) ∧
    (p.replay.length < 1024 → 4096 ≤ p.sinceAudit ∨ s.usClocks 40 ≤ s.clock - p.lastAudit →
      ∃ y, flitGood y = true ∧ run (.auditDue n) fun q => q.out = p.out ++ [y] ∧ q.replay = p.replay ++ [y] ∧
        q.seqNext = (p.seqNext + 1) % 4096 ∧ q.sinceAudit = 0 ∧ q.lastAudit = s.clock ∧
        y.payload.take 8 = (List.range 4).flatMap fun v =>
          leBytes 2 ((p.rxAcc.getD v 0 + 65536 - p.rxOcc.getD v 0) % 65536)) ∧
    (p.retrain = true →
      (run (.portRetrain n true) fun q => q.retrain = false ∧ q.up = true ∧ (quiet → q.out = p.out ++ p.replay)) ∧
      run (.portRetrain n false) fun q => q.up = decide (p.fails + 1 < 3)) ∧
    exec (.linkUp n true) s = .next s) ∧
  (∀ (s : State) (n : Nat) (f : Flit) (full : Bool),
    (16 ≤ n → exec (.linkUp n full) s = .next s) ∧
    ((s.port n).up = false → exec (.dataFlit n f) s = .next s ∧ exec (.idleFlit n f) s = .next s ∧
      exec (.nak n f) s = .next s ∧ exec (.audit n f) s = .next s ∧
      (n < 16 →
        let t := { s with links := mput s.links n { up := true, full := full, lastAudit := s.clock } }.linkServe
        exec (.linkUp n full) s = .next (if s.linkUp then t else t.collRejoin) ∧ (t.port n).up = true ∧
          (t.port n).full = full ∧ t.linkReqs = [] ∧
          (s.linkReqs = [] → (t.port n).credits = [64, 64, 64, 64] ∧ (t.port n).sent = [0, 0, 0, 0])))) ∧
  (∀ (s : State) (q : LinkReq) (pre post : List LinkReq), s.linkReqs = pre ++ q :: post →
    (∀ k ∈ pre ++ post, k.id ≠ q.id) → s.linkUp = false → q.dead = false →
    s.usClocks 1000 ≤ s.clock - max q.since s.linkDownAt →
    (q.store = true → (s.linkEnd q).linkReqs = pre ++ post ∧
      exec (.linkRequestTimeout q.id) s = .next ((s.linkEnd q).postErrorTo q.wg q.t q.taskAt 5 q.va)) ∧
    (q.store = false →
      exec (.linkRequestTimeout q.id) s = .next { s with linkReqs := pre ++ { q with dead := true } :: post })) ∧
  (∀ (s : State) (e : EngCmd), s.linkReqs.find? (fun q => q.id == e.id) = none → s.eng? e.id = some e →
    s.linkUp = false → s.usClocks 1000 ≤ s.clock - max e.since s.linkDownAt →
    (e.unjoined = true → exec (.linkRequestTimeout e.id) s = .next s.collQueue) ∧
    (∀ c, e.coll = some c → c.tabled = false → e.waitsFar s.devNum = false → exec (.linkRequestTimeout e.id) s = .next s.collQueue) ∧
    (∀ c, e.coll = some c → e.waitsFar s.devNum = true → (s.cmds.map (·.id)).Nodup →
      ∃ t k, exec (.linkRequestTimeout e.id) s = .next t ∧ t.eng? e.id = some k ∧ k.result = some (c.bad.getD (12, 0)) ∧
        ∀ p ∈ s.collLocal c.gid c.seq, ∃ k, t.eng? p.1.id = some k ∧ k.result = some (p.2.bad.getD (12, 0)))) ∧
  (∀ (s : State) (stages : List FwStage) (khz : Nat),
    let fs := (List.range 4).map fun i => stages.getD i ⟨[], [], 0⟩
    let fresh := s.afterReset
    { fresh with agenda := [], free := 0, outside := [], peerBad := [], fw := [] } = State.reset ∧
    fresh.outside = s.outside ∧ fresh.peerBad = s.peerBad ∧
    exec .moduleReset s = .next (if s.unbooted = true then s else fresh) ∧
    ((∀ i, i < 4 → stageOk i (stages.getD i ⟨[], [], 0⟩) = true) →
      exec (.powerOn stages) s = .next { fresh with fw := fs.map fun x => sha3_512 x.image }) ∧
    ((∃ i, i < 4 ∧ stageOk i (stages.getD i ⟨[], [], 0⟩) = false) →
      ∃ t, exec (.powerOn stages) s = .next t ∧ t.stopped = true ∧ t.unbooted = true ∧ t.host.busy = true ∧
        t.host.fstage ≠ 0) ∧
    exec .powerLoss s = .next { fresh with fw := [], stopped := true, unbooted := true } ∧
    exec .jointFailure s = .next { s with stopped := true, reports := s.reports ++ [.jointFailure] } ∧
    exec (.arithmeticClockChange khz) s = .next (if 0 < khz ∧ khz ≤ 1700000 then { s with rateKHz := khz } else s)) ∧
  (∀ (s : State) (a c port vc value : Nat) (flip : Byte) (up : Bool),
    let p := s.port port
    let cl := s.cl c
    let here := fun (e : SoftErr) (good : State → Prop) => ∃ t, exec (.softError e) s = .next t ∧ good t
    exec (.softError .corrected) s = .next { s with eccCount := s.eccCount + 1 } ∧
    (here (.credit port vc up) fun t => (t.port port).credits =
      p.credits.set vc (if up then p.credits.getD vc 0 + 1 else p.credits.getD vc 0 - 1)) ∧
    (here (.sent port vc value) fun t => (t.port port).sent = p.sent.set vc (value % 65536)) ∧
    (here (.uncorrectable (a / 32)) fun t => t.mem = s.mem ∧ (a < 412316860416 → t.homeFail a 1 ≠ none)) ∧
    (here (.sramUncorrectable c (a / 32)) fun t => a / 32 ∈ (t.cl c).sramEcc ∧ (t.cl c).sram = cl.sram) ∧
    (here (.sramSilent c a flip) fun t => mget 0 (t.cl c).sram a = mget 0 cl.sram a ^^^ flip ∧
      mget 0 (t.cl c).sramSyn (a / 32) = mget 0 cl.sramSyn (a / 32) ^^^ flipSyn (a % 32) flip ∧
      ∀ b, b ≠ a → mget 0 (t.cl c).sram b = mget 0 cl.sram b) ∧
    (a < 412316860416 → here (.silent a flip) fun t =>
      t.homeByte .dev a = s.homeByte .dev a ^^^ flip ∧ (∀ b, b ≠ a → t.homeByte .dev b = s.homeByte .dev b) ∧
      t.wgs = s.wgs ∧
      (mget 0 s.memSyn (a / 32) ^^^ flipSyn (a % 32) flip ≠ 0 → t.homeFail a 1 = some (a / 32, 9))))
end

