-- ==== Sys2Proof/Laws/Encoding.lean ====
section
/-!
SUPPORT. The fields of encoded words: what each slice of a format's word reads as, and how the decoder goes on from a major.
-/

namespace Sys2Proof

/-- Appended words as a number. -/
theorem cat_toNat {v w : Nat} (a : BitVec v) (b : BitVec w) : (a ++ b).toNat = a.toNat * 2 ^ w + b.toNat := by
  rw [BitVec.toNat_append, Nat.shiftLeft_eq, Nat.mul_comm, Nat.two_pow_add_eq_or_of_lt b.isLt]

/-- A slice from the number that a word is. -/
theorem slice_eq {n l s : Nat} {w : BitVec n} {x : BitVec l} (h : w.toNat / 2 ^ s % 2 ^ l = x.toNat) :
    w.extractLsb' s l = x := by
  apply BitVec.eq_of_toNat_eq
  rw [BitVec.extractLsb'_toNat, Nat.shiftRight_eq_div_pow, h]

/-- One bit is a slice of one bit. -/
theorem bit_eq {n s : Nat} {w : BitVec n} {b : Bool} (h : w.extractLsb' s 1 = bit b) : w.getLsbD s = b := by
  have h0 := congrArg (fun x : BitVec 1 => x.getLsbD 0) h
  simpa [bit] using h0

/-- A word that the fields name and whose values are accepted decodes (R65). -/
theorem decode_of {w : Insn} {i : Instr} (h : decodeFields w = .ok i) (hw : i.wf = true) : decode w = .ok i := by
  simp [decode, h, hw]

theorem rrf_nat (op : BitVec 6) (rd : R5) (ra : R5) (rb : R5) (fn : BitVec 11) :
    (rrf op rd ra rb fn).toNat = op.toNat * 2 ^ 26 + rd.toNat * 2 ^ 21 + ra.toNat * 2 ^ 16 + rb.toNat * 2 ^ 11 + fn.toNat := by
  have h0 := cat_toNat (op) (rd)
  have h1 := cat_toNat (op ++ rd) (ra)
  have h2 := cat_toNat (op ++ rd ++ ra) (rb)
  have h3 := cat_toNat (op ++ rd ++ ra ++ rb) (fn)
  refine h3.trans ?_
  omega

theorem rrf_26_6 (op : BitVec 6) (rd : R5) (ra : R5) (rb : R5) (fn : BitVec 11) :
    (rrf op rd ra rb fn).extractLsb' 26 6 = op :=
  slice_eq (by rw [rrf_nat]; have := (op).isLt; have := (rd).isLt; have := (ra).isLt; have := (rb).isLt; have := (fn).isLt; omega)

theorem rrf_21_5 (op : BitVec 6) (rd : R5) (ra : R5) (rb : R5) (fn : BitVec 11) :
    (rrf op rd ra rb fn).extractLsb' 21 5 = rd :=
  slice_eq (by rw [rrf_nat]; have := (op).isLt; have := (rd).isLt; have := (ra).isLt; have := (rb).isLt; have := (fn).isLt; omega)

theorem rrf_16_5 (op : BitVec 6) (rd : R5) (ra : R5) (rb : R5) (fn : BitVec 11) :
    (rrf op rd ra rb fn).extractLsb' 16 5 = ra :=
  slice_eq (by rw [rrf_nat]; have := (op).isLt; have := (rd).isLt; have := (ra).isLt; have := (rb).isLt; have := (fn).isLt; omega)

theorem rrf_11_5 (op : BitVec 6) (rd : R5) (ra : R5) (rb : R5) (fn : BitVec 11) :
    (rrf op rd ra rb fn).extractLsb' 11 5 = rb :=
  slice_eq (by rw [rrf_nat]; have := (op).isLt; have := (rd).isLt; have := (ra).isLt; have := (rb).isLt; have := (fn).isLt; omega)

theorem rrf_rd (op : BitVec 6) (rd ra rb : R5) (fn : BitVec 11) (s l : Nat) (h : 21 ≤ s) (h' : s + l ≤ 26) :
    (rrf op rd ra rb fn).extractLsb' s l = rd.extractLsb' (s - 21) l :=
  (BitVec.extractLsb'_append_eq_of_le (xhi := op ++ rd ++ ra ++ rb) (xlo := fn) (by omega)).trans
    ((BitVec.extractLsb'_append_eq_of_le (xhi := op ++ rd ++ ra) (xlo := rb) (by omega)).trans
    ((BitVec.extractLsb'_append_eq_of_le (xhi := op ++ rd) (xlo := ra) (by omega)).trans
    ((BitVec.extractLsb'_append_eq_of_add_le (xhi := op) (xlo := rd) (by omega)).trans (by congr 1))))

theorem rrf_ra (op : BitVec 6) (rd ra rb : R5) (fn : BitVec 11) (s l : Nat) (h : 16 ≤ s) (h' : s + l ≤ 21) :
    (rrf op rd ra rb fn).extractLsb' s l = ra.extractLsb' (s - 16) l :=
  (BitVec.extractLsb'_append_eq_of_le (xhi := op ++ rd ++ ra ++ rb) (xlo := fn) (by omega)).trans
    ((BitVec.extractLsb'_append_eq_of_le (xhi := op ++ rd ++ ra) (xlo := rb) (by omega)).trans
    ((BitVec.extractLsb'_append_eq_of_add_le (xhi := op ++ rd) (xlo := ra) (by omega)).trans (by congr 1)))

theorem rrf_rb (op : BitVec 6) (rd ra rb : R5) (fn : BitVec 11) (s l : Nat) (h : 11 ≤ s) (h' : s + l ≤ 16) :
    (rrf op rd ra rb fn).extractLsb' s l = rb.extractLsb' (s - 11) l :=
  (BitVec.extractLsb'_append_eq_of_le (xhi := op ++ rd ++ ra ++ rb) (xlo := fn) (by omega)).trans
    ((BitVec.extractLsb'_append_eq_of_add_le (xhi := op ++ rd ++ ra) (xlo := rb) (by omega)).trans (by congr 1))

theorem rrf_fn (op : BitVec 6) (rd ra rb : R5) (fn : BitVec 11) (s l : Nat) (h : s + l ≤ 11) :
    (rrf op rd ra rb fn).extractLsb' s l = fn.extractLsb' s l :=
  BitVec.extractLsb'_append_eq_of_add_le (xhi := op ++ rd ++ ra ++ rb) (xlo := fn) h

theorem rrf_bit (op : BitVec 6) (rd ra rb : R5) (fn : BitVec 11) (s : Nat) (h : s < 11) :
    (rrf op rd ra rb fn).getLsbD s = fn.getLsbD s := by
  have := BitVec.getLsbD_append (x := op ++ rd ++ ra ++ rb) (y := fn) (i := s)
  exact this.trans (by simp [h])

theorem rrf_rb_bit (op : BitVec 6) (rd ra rb : R5) (fn : BitVec 11) (s : Nat) (h : 11 ≤ s) (h' : s < 16) :
    (rrf op rd ra rb fn).getLsbD s = rb.getLsbD (s - 11) := by
  have h1 := BitVec.getLsbD_append (x := op ++ rd ++ ra ++ rb) (y := fn) (i := s)
  have h2 := BitVec.getLsbD_append (x := op ++ rd ++ ra) (y := rb) (i := s - 11)
  rw [if_neg (by omega)] at h1
  rw [if_pos (by omega)] at h2
  exact h1.trans h2

theorem rrf_ra_bit (op : BitVec 6) (rd ra rb : R5) (fn : BitVec 11) (s : Nat) (h : 16 ≤ s) (h' : s < 21) :
    (rrf op rd ra rb fn).getLsbD s = ra.getLsbD (s - 16) := by
  have h1 := BitVec.getLsbD_append (x := op ++ rd ++ ra ++ rb) (y := fn) (i := s)
  have h2 := BitVec.getLsbD_append (x := op ++ rd ++ ra) (y := rb) (i := s - 11)
  have h3 := BitVec.getLsbD_append (x := op ++ rd) (y := ra) (i := s - 16)
  rw [if_neg (by omega)] at h1 h2
  rw [if_pos (by omega)] at h3
  exact h1.trans (h2.trans ((congrArg _ (by omega)).trans h3))

theorem rrf_rd_bit (op : BitVec 6) (rd ra rb : R5) (fn : BitVec 11) (s : Nat) (h : 21 ≤ s) (h' : s < 26) :
    (rrf op rd ra rb fn).getLsbD s = rd.getLsbD (s - 21) := by
  have h1 := BitVec.getLsbD_append (x := op ++ rd ++ ra ++ rb) (y := fn) (i := s)
  have h2 := BitVec.getLsbD_append (x := op ++ rd ++ ra) (y := rb) (i := s - 11)
  have h3 := BitVec.getLsbD_append (x := op ++ rd) (y := ra) (i := s - 16)
  have h4 := BitVec.getLsbD_append (x := op) (y := rd) (i := s - 21)
  rw [if_neg (by omega)] at h1 h2 h3
  rw [if_pos (by omega)] at h4
  exact h1.trans (h2.trans ((congrArg _ (by omega)).trans (h3.trans ((congrArg _ (by omega)).trans h4))))

theorem i16_nat (op : BitVec 6) (rd : R5) (ra : R5) (imm : BitVec 16) :
    BitVec.toNat (w := 32) (i16 op rd ra imm) =
      op.toNat * 2 ^ 26 + rd.toNat * 2 ^ 21 + ra.toNat * 2 ^ 16 + imm.toNat := by
  have h0 := cat_toNat (op) (rd)
  have h1 := cat_toNat (op ++ rd) (ra)
  have h2 := cat_toNat (op ++ rd ++ ra) (imm)
  refine h2.trans ?_
  omega

theorem i16_26_6 (op : BitVec 6) (rd : R5) (ra : R5) (imm : BitVec 16) :
    BitVec.extractLsb' (n := 32) 26 6 (i16 op rd ra imm) = op :=
  slice_eq (by rw [i16_nat]; have := (op).isLt; have := (rd).isLt; have := (ra).isLt; have := (imm).isLt; omega)

theorem i16_21_5 (op : BitVec 6) (rd : R5) (ra : R5) (imm : BitVec 16) :
    BitVec.extractLsb' (n := 32) 21 5 (i16 op rd ra imm) = rd :=
  slice_eq (by rw [i16_nat]; have := (op).isLt; have := (rd).isLt; have := (ra).isLt; have := (imm).isLt; omega)

theorem i16_16_5 (op : BitVec 6) (rd : R5) (ra : R5) (imm : BitVec 16) :
    BitVec.extractLsb' (n := 32) 16 5 (i16 op rd ra imm) = ra :=
  slice_eq (by rw [i16_nat]; have := (op).isLt; have := (rd).isLt; have := (ra).isLt; have := (imm).isLt; omega)

theorem i16_0_16 (op : BitVec 6) (rd : R5) (ra : R5) (imm : BitVec 16) :
    BitVec.extractLsb' (n := 32) 0 16 (i16 op rd ra imm) = imm :=
  slice_eq (by rw [i16_nat]; have := (op).isLt; have := (rd).isLt; have := (ra).isLt; have := (imm).isLt; omega)

theorem shi_nat (sub : BitVec 2) (w : Bool) (rd : R5) (ra : R5) (c : BitVec 6) :
    BitVec.toNat (w := 32) (shi sub w rd ra c) =
      8 * 2 ^ 26 + rd.toNat * 2 ^ 21 + ra.toNat * 2 ^ 16 + ((sub ++ bit w ++ 0#7 ++ c)).toNat := by
  have h0 := cat_toNat (0x08#6) (rd)
  have h1 := cat_toNat (0x08#6 ++ rd) (ra)
  have h2 := cat_toNat (0x08#6 ++ rd ++ ra) ((sub ++ bit w ++ 0#7 ++ c))
  have l0 : (0x08#6).toNat = 8 := rfl
  refine h2.trans ?_
  omega

theorem shi_26_6 (sub : BitVec 2) (w : Bool) (rd : R5) (ra : R5) (c : BitVec 6) :
    BitVec.extractLsb' (n := 32) 26 6 (shi sub w rd ra c) = 0x08#6 :=
  slice_eq (by rw [shi_nat]; have : (0x08#6).toNat = 8 := rfl; have := (rd).isLt; have := (ra).isLt; have := ((sub ++ bit w ++ 0#7 ++ c)).isLt; omega)

theorem shi_21_5 (sub : BitVec 2) (w : Bool) (rd : R5) (ra : R5) (c : BitVec 6) :
    BitVec.extractLsb' (n := 32) 21 5 (shi sub w rd ra c) = rd :=
  slice_eq (by rw [shi_nat]; have := (rd).isLt; have := (ra).isLt; have := ((sub ++ bit w ++ 0#7 ++ c)).isLt; omega)

theorem shi_16_5 (sub : BitVec 2) (w : Bool) (rd : R5) (ra : R5) (c : BitVec 6) :
    BitVec.extractLsb' (n := 32) 16 5 (shi sub w rd ra c) = ra :=
  slice_eq (by rw [shi_nat]; have := (rd).isLt; have := (ra).isLt; have := ((sub ++ bit w ++ 0#7 ++ c)).isLt; omega)

theorem shiImm_nat (sub : BitVec 2) (w : Bool) (c : BitVec 6) :
    BitVec.toNat (w := 16) (sub ++ bit w ++ 0#7 ++ c) =
      sub.toNat * 2 ^ 14 + (bit w).toNat * 2 ^ 13 + 0 * 2 ^ 6 + c.toNat := by
  have h0 := cat_toNat (sub) (bit w)
  have h1 := cat_toNat (sub ++ bit w) (0#7)
  have h2 := cat_toNat (sub ++ bit w ++ 0#7) (c)
  have l0 : (0#7).toNat = 0 := rfl
  refine h2.trans ?_
  omega

theorem shiImm_14_2 (sub : BitVec 2) (w : Bool) (c : BitVec 6) :
    BitVec.extractLsb' (n := 16) 14 2 (sub ++ bit w ++ 0#7 ++ c) = sub :=
  slice_eq (by rw [shiImm_nat]; have := (sub).isLt; have := (bit w).isLt; have := (c).isLt; omega)

theorem shiImm_13_1 (sub : BitVec 2) (w : Bool) (c : BitVec 6) :
    BitVec.extractLsb' (n := 16) 13 1 (sub ++ bit w ++ 0#7 ++ c) = bit w :=
  slice_eq (by rw [shiImm_nat]; have := (sub).isLt; have := (bit w).isLt; have := (c).isLt; omega)

theorem shiImm_6_7 (sub : BitVec 2) (w : Bool) (c : BitVec 6) :
    BitVec.extractLsb' (n := 16) 6 7 (sub ++ bit w ++ 0#7 ++ c) = 0#7 :=
  slice_eq (by rw [shiImm_nat]; have : (0#7).toNat = 0 := rfl; have := (sub).isLt; have := (bit w).isLt; have := (c).isLt; omega)

theorem shiImm_0_6 (sub : BitVec 2) (w : Bool) (c : BitVec 6) :
    BitVec.extractLsb' (n := 16) 0 6 (sub ++ bit w ++ 0#7 ++ c) = c :=
  slice_eq (by rw [shiImm_nat]; have := (sub).isLt; have := (bit w).isLt; have := (c).isLt; omega)

theorem jal_nat (rd : R5) (o : BitVec 21) :
    BitVec.toNat (w := 32) (0x0C#6 ++ rd ++ o) =
      12 * 2 ^ 26 + rd.toNat * 2 ^ 21 + o.toNat := by
  have h0 := cat_toNat (0x0C#6) (rd)
  have h1 := cat_toNat (0x0C#6 ++ rd) (o)
  have l0 : (0x0C#6).toNat = 12 := rfl
  refine h1.trans ?_
  omega

theorem jal_26_6 (rd : R5) (o : BitVec 21) :
    BitVec.extractLsb' (n := 32) 26 6 (0x0C#6 ++ rd ++ o) = 0x0C#6 :=
  slice_eq (by rw [jal_nat]; have : (0x0C#6).toNat = 12 := rfl; have := (rd).isLt; have := (o).isLt; omega)

theorem jal_21_5 (rd : R5) (o : BitVec 21) :
    BitVec.extractLsb' (n := 32) 21 5 (0x0C#6 ++ rd ++ o) = rd :=
  slice_eq (by rw [jal_nat]; have := (rd).isLt; have := (o).isLt; omega)

theorem jal_0_21 (rd : R5) (o : BitVec 21) :
    BitVec.extractLsb' (n := 32) 0 21 (0x0C#6 ++ rd ++ o) = o :=
  slice_eq (by rw [jal_nat]; have := (rd).isLt; have := (o).isLt; omega)

theorem jpt_nat (o : BitVec 26) :
    BitVec.toNat (w := 32) (0x0E#6 ++ o) =
      14 * 2 ^ 26 + o.toNat := by
  have h0 := cat_toNat (0x0E#6) (o)
  have l0 : (0x0E#6).toNat = 14 := rfl
  refine h0.trans ?_
  omega

theorem jpt_26_6 (o : BitVec 26) :
    BitVec.extractLsb' (n := 32) 26 6 (0x0E#6 ++ o) = 0x0E#6 :=
  slice_eq (by rw [jpt_nat]; have : (0x0E#6).toNat = 14 := rfl; have := (o).isLt; omega)

theorem jpt_0_26 (o : BitVec 26) :
    BitVec.extractLsb' (n := 32) 0 26 (0x0E#6 ++ o) = o :=
  slice_eq (by rw [jpt_nat]; have := (o).isLt; omega)

theorem brw_nat (c : BitVec 3) (ra : R5) (rb : R5) (o : BitVec 13) :
    BitVec.toNat (w := 32) (brw c ra rb o) =
      11 * 2 ^ 26 + ra.toNat * 2 ^ 21 + rb.toNat * 2 ^ 16 + c.toNat * 2 ^ 13 + o.toNat := by
  have h0 := cat_toNat (0x0B#6) (ra)
  have h1 := cat_toNat (0x0B#6 ++ ra) (rb)
  have h2 := cat_toNat (0x0B#6 ++ ra ++ rb) (c)
  have h3 := cat_toNat (0x0B#6 ++ ra ++ rb ++ c) (o)
  have l0 : (0x0B#6).toNat = 11 := rfl
  refine h3.trans ?_
  omega

theorem brw_26_6 (c : BitVec 3) (ra : R5) (rb : R5) (o : BitVec 13) :
    BitVec.extractLsb' (n := 32) 26 6 (brw c ra rb o) = 0x0B#6 :=
  slice_eq (by rw [brw_nat]; have : (0x0B#6).toNat = 11 := rfl; have := (ra).isLt; have := (rb).isLt; have := (c).isLt; have := (o).isLt; omega)

theorem brw_21_5 (c : BitVec 3) (ra : R5) (rb : R5) (o : BitVec 13) :
    BitVec.extractLsb' (n := 32) 21 5 (brw c ra rb o) = ra :=
  slice_eq (by rw [brw_nat]; have := (ra).isLt; have := (rb).isLt; have := (c).isLt; have := (o).isLt; omega)

theorem brw_16_5 (c : BitVec 3) (ra : R5) (rb : R5) (o : BitVec 13) :
    BitVec.extractLsb' (n := 32) 16 5 (brw c ra rb o) = rb :=
  slice_eq (by rw [brw_nat]; have := (ra).isLt; have := (rb).isLt; have := (c).isLt; have := (o).isLt; omega)

theorem brw_13_3 (c : BitVec 3) (ra : R5) (rb : R5) (o : BitVec 13) :
    BitVec.extractLsb' (n := 32) 13 3 (brw c ra rb o) = c :=
  slice_eq (by rw [brw_nat]; have := (ra).isLt; have := (rb).isLt; have := (c).isLt; have := (o).isLt; omega)

theorem brw_0_13 (c : BitVec 3) (ra : R5) (rb : R5) (o : BitVec 13) :
    BitVec.extractLsb' (n := 32) 0 13 (brw c ra rb o) = o :=
  slice_eq (by rw [brw_nat]; have := (ra).isLt; have := (rb).isLt; have := (c).isLt; have := (o).isLt; omega)

theorem mw_nat (op : BitVec 6) (size : BitVec 3) (h : Hint) (rd : R5) (ra : R5) (i : BitVec 11) :
    BitVec.toNat (w := 32) (mw op size h rd ra i) =
      op.toNat * 2 ^ 26 + rd.toNat * 2 ^ 21 + ra.toNat * 2 ^ 16 + size.toNat * 2 ^ 13 + h.code.toNat * 2 ^ 11 + i.toNat := by
  have h0 := cat_toNat (op) (rd)
  have h1 := cat_toNat (op ++ rd) (ra)
  have h2 := cat_toNat (op ++ rd ++ ra) (size)
  have h3 := cat_toNat (op ++ rd ++ ra ++ size) (h.code)
  have h4 := cat_toNat (op ++ rd ++ ra ++ size ++ h.code) (i)
  refine h4.trans ?_
  omega

theorem mw_26_6 (op : BitVec 6) (size : BitVec 3) (h : Hint) (rd : R5) (ra : R5) (i : BitVec 11) :
    BitVec.extractLsb' (n := 32) 26 6 (mw op size h rd ra i) = op :=
  slice_eq (by rw [mw_nat]; have := (op).isLt; have := (rd).isLt; have := (ra).isLt; have := (size).isLt; have := (h.code).isLt; have := (i).isLt; omega)

theorem mw_21_5 (op : BitVec 6) (size : BitVec 3) (h : Hint) (rd : R5) (ra : R5) (i : BitVec 11) :
    BitVec.extractLsb' (n := 32) 21 5 (mw op size h rd ra i) = rd :=
  slice_eq (by rw [mw_nat]; have := (op).isLt; have := (rd).isLt; have := (ra).isLt; have := (size).isLt; have := (h.code).isLt; have := (i).isLt; omega)

theorem mw_16_5 (op : BitVec 6) (size : BitVec 3) (h : Hint) (rd : R5) (ra : R5) (i : BitVec 11) :
    BitVec.extractLsb' (n := 32) 16 5 (mw op size h rd ra i) = ra :=
  slice_eq (by rw [mw_nat]; have := (op).isLt; have := (rd).isLt; have := (ra).isLt; have := (size).isLt; have := (h.code).isLt; have := (i).isLt; omega)

theorem mw_13_3 (op : BitVec 6) (size : BitVec 3) (h : Hint) (rd : R5) (ra : R5) (i : BitVec 11) :
    BitVec.extractLsb' (n := 32) 13 3 (mw op size h rd ra i) = size :=
  slice_eq (by rw [mw_nat]; have := (op).isLt; have := (rd).isLt; have := (ra).isLt; have := (size).isLt; have := (h.code).isLt; have := (i).isLt; omega)

theorem mw_11_2 (op : BitVec 6) (size : BitVec 3) (h : Hint) (rd : R5) (ra : R5) (i : BitVec 11) :
    BitVec.extractLsb' (n := 32) 11 2 (mw op size h rd ra i) = h.code :=
  slice_eq (by rw [mw_nat]; have := (op).isLt; have := (rd).isLt; have := (ra).isLt; have := (size).isLt; have := (h.code).isLt; have := (i).isLt; omega)

theorem mw_0_11 (op : BitVec 6) (size : BitVec 3) (h : Hint) (rd : R5) (ra : R5) (i : BitVec 11) :
    BitVec.extractLsb' (n := 32) 0 11 (mw op size h rd ra i) = i :=
  slice_eq (by rw [mw_nat]; have := (op).isLt; have := (rd).isLt; have := (ra).isLt; have := (size).isLt; have := (h.code).isLt; have := (i).isLt; omega)

theorem aw_nat (aop : BitVec 4) (sz : Bool) (sc : Scope) (o : BitVec 2) (rd : R5) (ra : R5) (rb : R5) :
    BitVec.toNat (w := 32) (aw aop sz sc o rd ra rb) =
      17 * 2 ^ 26 + rd.toNat * 2 ^ 21 + ra.toNat * 2 ^ 16 + rb.toNat * 2 ^ 11 + aop.toNat * 2 ^ 7 + sc.code.toNat * 2 ^ 4 + o.toNat * 2 ^ 2 + (bit sz).toNat * 2 ^ 1 + 0 := by
  have h0 := cat_toNat (0x11#6) (rd)
  have h1 := cat_toNat (0x11#6 ++ rd) (ra)
  have h2 := cat_toNat (0x11#6 ++ rd ++ ra) (rb)
  have h3 := cat_toNat (0x11#6 ++ rd ++ ra ++ rb) (aop)
  have h4 := cat_toNat (0x11#6 ++ rd ++ ra ++ rb ++ aop) (sc.code)
  have h5 := cat_toNat (0x11#6 ++ rd ++ ra ++ rb ++ aop ++ sc.code) (o)
  have h6 := cat_toNat (0x11#6 ++ rd ++ ra ++ rb ++ aop ++ sc.code ++ o) (bit sz)
  have h7 := cat_toNat (0x11#6 ++ rd ++ ra ++ rb ++ aop ++ sc.code ++ o ++ bit sz) (0#1)
  have l0 : (0x11#6).toNat = 17 := rfl
  have l1 : (0#1).toNat = 0 := rfl
  refine h7.trans ?_
  omega

theorem aw_26_6 (aop : BitVec 4) (sz : Bool) (sc : Scope) (o : BitVec 2) (rd : R5) (ra : R5) (rb : R5) :
    BitVec.extractLsb' (n := 32) 26 6 (aw aop sz sc o rd ra rb) = 0x11#6 :=
  slice_eq (by rw [aw_nat]; have : (0x11#6).toNat = 17 := rfl; have := (rd).isLt; have := (ra).isLt; have := (rb).isLt; have := (aop).isLt; have := (sc.code).isLt; have := (o).isLt; have := (bit sz).isLt; omega)

theorem aw_21_5 (aop : BitVec 4) (sz : Bool) (sc : Scope) (o : BitVec 2) (rd : R5) (ra : R5) (rb : R5) :
    BitVec.extractLsb' (n := 32) 21 5 (aw aop sz sc o rd ra rb) = rd :=
  slice_eq (by rw [aw_nat]; have := (rd).isLt; have := (ra).isLt; have := (rb).isLt; have := (aop).isLt; have := (sc.code).isLt; have := (o).isLt; have := (bit sz).isLt; omega)

theorem aw_16_5 (aop : BitVec 4) (sz : Bool) (sc : Scope) (o : BitVec 2) (rd : R5) (ra : R5) (rb : R5) :
    BitVec.extractLsb' (n := 32) 16 5 (aw aop sz sc o rd ra rb) = ra :=
  slice_eq (by rw [aw_nat]; have := (rd).isLt; have := (ra).isLt; have := (rb).isLt; have := (aop).isLt; have := (sc.code).isLt; have := (o).isLt; have := (bit sz).isLt; omega)

theorem aw_11_5 (aop : BitVec 4) (sz : Bool) (sc : Scope) (o : BitVec 2) (rd : R5) (ra : R5) (rb : R5) :
    BitVec.extractLsb' (n := 32) 11 5 (aw aop sz sc o rd ra rb) = rb :=
  slice_eq (by rw [aw_nat]; have := (rd).isLt; have := (ra).isLt; have := (rb).isLt; have := (aop).isLt; have := (sc.code).isLt; have := (o).isLt; have := (bit sz).isLt; omega)

theorem aw_7_4 (aop : BitVec 4) (sz : Bool) (sc : Scope) (o : BitVec 2) (rd : R5) (ra : R5) (rb : R5) :
    BitVec.extractLsb' (n := 32) 7 4 (aw aop sz sc o rd ra rb) = aop :=
  slice_eq (by rw [aw_nat]; have := (rd).isLt; have := (ra).isLt; have := (rb).isLt; have := (aop).isLt; have := (sc.code).isLt; have := (o).isLt; have := (bit sz).isLt; omega)

theorem aw_4_3 (aop : BitVec 4) (sz : Bool) (sc : Scope) (o : BitVec 2) (rd : R5) (ra : R5) (rb : R5) :
    BitVec.extractLsb' (n := 32) 4 3 (aw aop sz sc o rd ra rb) = sc.code :=
  slice_eq (by rw [aw_nat]; have := (rd).isLt; have := (ra).isLt; have := (rb).isLt; have := (aop).isLt; have := (sc.code).isLt; have := (o).isLt; have := (bit sz).isLt; omega)

theorem aw_2_2 (aop : BitVec 4) (sz : Bool) (sc : Scope) (o : BitVec 2) (rd : R5) (ra : R5) (rb : R5) :
    BitVec.extractLsb' (n := 32) 2 2 (aw aop sz sc o rd ra rb) = o :=
  slice_eq (by rw [aw_nat]; have := (rd).isLt; have := (ra).isLt; have := (rb).isLt; have := (aop).isLt; have := (sc.code).isLt; have := (o).isLt; have := (bit sz).isLt; omega)

theorem aw_1_1 (aop : BitVec 4) (sz : Bool) (sc : Scope) (o : BitVec 2) (rd : R5) (ra : R5) (rb : R5) :
    BitVec.extractLsb' (n := 32) 1 1 (aw aop sz sc o rd ra rb) = bit sz :=
  slice_eq (by rw [aw_nat]; have := (rd).isLt; have := (ra).isLt; have := (rb).isLt; have := (aop).isLt; have := (sc.code).isLt; have := (o).isLt; have := (bit sz).isLt; omega)

theorem aw_0_1 (aop : BitVec 4) (sz : Bool) (sc : Scope) (o : BitVec 2) (rd : R5) (ra : R5) (rb : R5) :
    BitVec.extractLsb' (n := 32) 0 1 (aw aop sz sc o rd ra rb) = bit false :=
  slice_eq (by rw [aw_nat]; have : (bit false).toNat = 0 := rfl; have := (rd).isLt; have := (ra).isLt; have := (rb).isLt; have := (aop).isLt; have := (sc.code).isLt; have := (o).isLt; have := (bit sz).isLt; omega)

theorem aw_b1 (aop : BitVec 4) (sz : Bool) (sc : Scope) (o : BitVec 2) (rd : R5) (ra : R5) (rb : R5) : BitVec.getLsbD (w := 32) (aw aop sz sc o rd ra rb) 1 = sz :=
  bit_eq (aw_1_1 aop sz sc o rd ra rb)

theorem aw_b0 (aop : BitVec 4) (sz : Bool) (sc : Scope) (o : BitVec 2) (rd : R5) (ra : R5) (rb : R5) : BitVec.getLsbD (w := 32) (aw aop sz sc o rd ra rb) 0 = false :=
  bit_eq (aw_0_1 aop sz sc o rd ra rb)

theorem rrrr_nat (op : BitVec 6) (p : Bool) (n1 : Bool) (n0 : Bool) (rm : Rm) (rd : R5) (ra : R5) (rb : R5) (rc : R5) :
    BitVec.toNat (w := 32) (rrrr op p n1 n0 rm rd ra rb rc) =
      op.toNat * 2 ^ 26 + rd.toNat * 2 ^ 21 + ra.toNat * 2 ^ 16 + rb.toNat * 2 ^ 11 + rc.toNat * 2 ^ 6 + (bit p).toNat * 2 ^ 5 + (bit n1).toNat * 2 ^ 4 + (bit n0).toNat * 2 ^ 3 + rm.code.toNat := by
  have h0 := cat_toNat (op) (rd)
  have h1 := cat_toNat (op ++ rd) (ra)
  have h2 := cat_toNat (op ++ rd ++ ra) (rb)
  have h3 := cat_toNat (op ++ rd ++ ra ++ rb) (rc)
  have h4 := cat_toNat (op ++ rd ++ ra ++ rb ++ rc) (bit p)
  have h5 := cat_toNat (op ++ rd ++ ra ++ rb ++ rc ++ bit p) (bit n1)
  have h6 := cat_toNat (op ++ rd ++ ra ++ rb ++ rc ++ bit p ++ bit n1) (bit n0)
  have h7 := cat_toNat (op ++ rd ++ ra ++ rb ++ rc ++ bit p ++ bit n1 ++ bit n0) (rm.code)
  refine h7.trans ?_
  omega

theorem rrrr_26_6 (op : BitVec 6) (p : Bool) (n1 : Bool) (n0 : Bool) (rm : Rm) (rd : R5) (ra : R5) (rb : R5) (rc : R5) :
    BitVec.extractLsb' (n := 32) 26 6 (rrrr op p n1 n0 rm rd ra rb rc) = op :=
  slice_eq (by rw [rrrr_nat]; have := (op).isLt; have := (rd).isLt; have := (ra).isLt; have := (rb).isLt; have := (rc).isLt; have := (bit p).isLt; have := (bit n1).isLt; have := (bit n0).isLt; have := (rm.code).isLt; omega)

theorem rrrr_21_5 (op : BitVec 6) (p : Bool) (n1 : Bool) (n0 : Bool) (rm : Rm) (rd : R5) (ra : R5) (rb : R5) (rc : R5) :
    BitVec.extractLsb' (n := 32) 21 5 (rrrr op p n1 n0 rm rd ra rb rc) = rd :=
  slice_eq (by rw [rrrr_nat]; have := (op).isLt; have := (rd).isLt; have := (ra).isLt; have := (rb).isLt; have := (rc).isLt; have := (bit p).isLt; have := (bit n1).isLt; have := (bit n0).isLt; have := (rm.code).isLt; omega)

theorem rrrr_16_5 (op : BitVec 6) (p : Bool) (n1 : Bool) (n0 : Bool) (rm : Rm) (rd : R5) (ra : R5) (rb : R5) (rc : R5) :
    BitVec.extractLsb' (n := 32) 16 5 (rrrr op p n1 n0 rm rd ra rb rc) = ra :=
  slice_eq (by rw [rrrr_nat]; have := (op).isLt; have := (rd).isLt; have := (ra).isLt; have := (rb).isLt; have := (rc).isLt; have := (bit p).isLt; have := (bit n1).isLt; have := (bit n0).isLt; have := (rm.code).isLt; omega)

theorem rrrr_11_5 (op : BitVec 6) (p : Bool) (n1 : Bool) (n0 : Bool) (rm : Rm) (rd : R5) (ra : R5) (rb : R5) (rc : R5) :
    BitVec.extractLsb' (n := 32) 11 5 (rrrr op p n1 n0 rm rd ra rb rc) = rb :=
  slice_eq (by rw [rrrr_nat]; have := (op).isLt; have := (rd).isLt; have := (ra).isLt; have := (rb).isLt; have := (rc).isLt; have := (bit p).isLt; have := (bit n1).isLt; have := (bit n0).isLt; have := (rm.code).isLt; omega)

theorem rrrr_6_5 (op : BitVec 6) (p : Bool) (n1 : Bool) (n0 : Bool) (rm : Rm) (rd : R5) (ra : R5) (rb : R5) (rc : R5) :
    BitVec.extractLsb' (n := 32) 6 5 (rrrr op p n1 n0 rm rd ra rb rc) = rc :=
  slice_eq (by rw [rrrr_nat]; have := (op).isLt; have := (rd).isLt; have := (ra).isLt; have := (rb).isLt; have := (rc).isLt; have := (bit p).isLt; have := (bit n1).isLt; have := (bit n0).isLt; have := (rm.code).isLt; omega)

theorem rrrr_5_1 (op : BitVec 6) (p : Bool) (n1 : Bool) (n0 : Bool) (rm : Rm) (rd : R5) (ra : R5) (rb : R5) (rc : R5) :
    BitVec.extractLsb' (n := 32) 5 1 (rrrr op p n1 n0 rm rd ra rb rc) = bit p :=
  slice_eq (by rw [rrrr_nat]; have := (op).isLt; have := (rd).isLt; have := (ra).isLt; have := (rb).isLt; have := (rc).isLt; have := (bit p).isLt; have := (bit n1).isLt; have := (bit n0).isLt; have := (rm.code).isLt; omega)

theorem rrrr_4_1 (op : BitVec 6) (p : Bool) (n1 : Bool) (n0 : Bool) (rm : Rm) (rd : R5) (ra : R5) (rb : R5) (rc : R5) :
    BitVec.extractLsb' (n := 32) 4 1 (rrrr op p n1 n0 rm rd ra rb rc) = bit n1 :=
  slice_eq (by rw [rrrr_nat]; have := (op).isLt; have := (rd).isLt; have := (ra).isLt; have := (rb).isLt; have := (rc).isLt; have := (bit p).isLt; have := (bit n1).isLt; have := (bit n0).isLt; have := (rm.code).isLt; omega)

theorem rrrr_3_1 (op : BitVec 6) (p : Bool) (n1 : Bool) (n0 : Bool) (rm : Rm) (rd : R5) (ra : R5) (rb : R5) (rc : R5) :
    BitVec.extractLsb' (n := 32) 3 1 (rrrr op p n1 n0 rm rd ra rb rc) = bit n0 :=
  slice_eq (by rw [rrrr_nat]; have := (op).isLt; have := (rd).isLt; have := (ra).isLt; have := (rb).isLt; have := (rc).isLt; have := (bit p).isLt; have := (bit n1).isLt; have := (bit n0).isLt; have := (rm.code).isLt; omega)

theorem rrrr_0_3 (op : BitVec 6) (p : Bool) (n1 : Bool) (n0 : Bool) (rm : Rm) (rd : R5) (ra : R5) (rb : R5) (rc : R5) :
    BitVec.extractLsb' (n := 32) 0 3 (rrrr op p n1 n0 rm rd ra rb rc) = rm.code :=
  slice_eq (by rw [rrrr_nat]; have := (op).isLt; have := (rd).isLt; have := (ra).isLt; have := (rb).isLt; have := (rc).isLt; have := (bit p).isLt; have := (bit n1).isLt; have := (bit n0).isLt; have := (rm.code).isLt; omega)

theorem rrrr_b5 (op : BitVec 6) (p : Bool) (n1 : Bool) (n0 : Bool) (rm : Rm) (rd : R5) (ra : R5) (rb : R5) (rc : R5) : BitVec.getLsbD (w := 32) (rrrr op p n1 n0 rm rd ra rb rc) 5 = p :=
  bit_eq (rrrr_5_1 op p n1 n0 rm rd ra rb rc)

theorem rrrr_b4 (op : BitVec 6) (p : Bool) (n1 : Bool) (n0 : Bool) (rm : Rm) (rd : R5) (ra : R5) (rb : R5) (rc : R5) : BitVec.getLsbD (w := 32) (rrrr op p n1 n0 rm rd ra rb rc) 4 = n1 :=
  bit_eq (rrrr_4_1 op p n1 n0 rm rd ra rb rc)

theorem rrrr_b3 (op : BitVec 6) (p : Bool) (n1 : Bool) (n0 : Bool) (rm : Rm) (rd : R5) (ra : R5) (rb : R5) (rc : R5) : BitVec.getLsbD (w := 32) (rrrr op p n1 n0 rm rd ra rb rc) 3 = n0 :=
  bit_eq (rrrr_3_1 op p n1 n0 rm rd ra rb rc)

theorem waitf_nat (m : BitVec 12) :
    BitVec.toNat (w := 32) (0x12#6 ++ m ++ 0#3 ++ 2#6 ++ 0#5) =
      18 * 2 ^ 26 + m.toNat * 2 ^ 14 + 0 * 2 ^ 11 + 2 * 2 ^ 5 + 0 := by
  have h0 := cat_toNat (0x12#6) (m)
  have h1 := cat_toNat (0x12#6 ++ m) (0#3)
  have h2 := cat_toNat (0x12#6 ++ m ++ 0#3) (2#6)
  have h3 := cat_toNat (0x12#6 ++ m ++ 0#3 ++ 2#6) (0#5)
  have l0 : (0x12#6).toNat = 18 := rfl
  have l1 : (0#3).toNat = 0 := rfl
  have l2 : (2#6).toNat = 2 := rfl
  have l3 : (0#5).toNat = 0 := rfl
  refine h3.trans ?_
  omega

theorem waitf_26_6 (m : BitVec 12) :
    BitVec.extractLsb' (n := 32) 26 6 (0x12#6 ++ m ++ 0#3 ++ 2#6 ++ 0#5) = 0x12#6 :=
  slice_eq (by rw [waitf_nat]; have : (0x12#6).toNat = 18 := rfl; have := (m).isLt; omega)

theorem waitf_14_12 (m : BitVec 12) :
    BitVec.extractLsb' (n := 32) 14 12 (0x12#6 ++ m ++ 0#3 ++ 2#6 ++ 0#5) = m :=
  slice_eq (by rw [waitf_nat]; have := (m).isLt; omega)

theorem waitf_11_3 (m : BitVec 12) :
    BitVec.extractLsb' (n := 32) 11 3 (0x12#6 ++ m ++ 0#3 ++ 2#6 ++ 0#5) = 0#3 :=
  slice_eq (by rw [waitf_nat]; have : (0#3).toNat = 0 := rfl; have := (m).isLt; omega)

theorem waitf_5_6 (m : BitVec 12) :
    BitVec.extractLsb' (n := 32) 5 6 (0x12#6 ++ m ++ 0#3 ++ 2#6 ++ 0#5) = 2#6 :=
  slice_eq (by rw [waitf_nat]; have : (2#6).toNat = 2 := rfl; have := (m).isLt; omega)

theorem waitf_0_5 (m : BitVec 12) :
    BitVec.extractLsb' (n := 32) 0 5 (0x12#6 ++ m ++ 0#3 ++ 2#6 ++ 0#5) = 0#5 :=
  slice_eq (by rw [waitf_nat]; have : (0#5).toNat = 0 := rfl; have := (m).isLt; omega)

theorem txabort_nat (c : BitVec 8) :
    BitVec.toNat (w := 32) (0x12#6 ++ c ++ 0#7 ++ 5#6 ++ 0#5) =
      18 * 2 ^ 26 + c.toNat * 2 ^ 18 + 0 * 2 ^ 11 + 5 * 2 ^ 5 + 0 := by
  have h0 := cat_toNat (0x12#6) (c)
  have h1 := cat_toNat (0x12#6 ++ c) (0#7)
  have h2 := cat_toNat (0x12#6 ++ c ++ 0#7) (5#6)
  have h3 := cat_toNat (0x12#6 ++ c ++ 0#7 ++ 5#6) (0#5)
  have l0 : (0x12#6).toNat = 18 := rfl
  have l1 : (0#7).toNat = 0 := rfl
  have l2 : (5#6).toNat = 5 := rfl
  have l3 : (0#5).toNat = 0 := rfl
  refine h3.trans ?_
  omega

theorem txabort_26_6 (c : BitVec 8) :
    BitVec.extractLsb' (n := 32) 26 6 (0x12#6 ++ c ++ 0#7 ++ 5#6 ++ 0#5) = 0x12#6 :=
  slice_eq (by rw [txabort_nat]; have : (0x12#6).toNat = 18 := rfl; have := (c).isLt; omega)

theorem txabort_18_8 (c : BitVec 8) :
    BitVec.extractLsb' (n := 32) 18 8 (0x12#6 ++ c ++ 0#7 ++ 5#6 ++ 0#5) = c :=
  slice_eq (by rw [txabort_nat]; have := (c).isLt; omega)

theorem txabort_11_7 (c : BitVec 8) :
    BitVec.extractLsb' (n := 32) 11 7 (0x12#6 ++ c ++ 0#7 ++ 5#6 ++ 0#5) = 0#7 :=
  slice_eq (by rw [txabort_nat]; have : (0#7).toNat = 0 := rfl; have := (c).isLt; omega)

theorem txabort_5_6 (c : BitVec 8) :
    BitVec.extractLsb' (n := 32) 5 6 (0x12#6 ++ c ++ 0#7 ++ 5#6 ++ 0#5) = 5#6 :=
  slice_eq (by rw [txabort_nat]; have : (5#6).toNat = 5 := rfl; have := (c).isLt; omega)

theorem txabort_0_5 (c : BitVec 8) :
    BitVec.extractLsb' (n := 32) 0 5 (0x12#6 ++ c ++ 0#7 ++ 5#6 ++ 0#5) = 0#5 :=
  slice_eq (by rw [txabort_nat]; have : (0#5).toNat = 0 := rfl; have := (c).isLt; omega)

theorem kli_nat (kd : BitVec 4) (i : BitVec 18) :
    BitVec.toNat (w := 32) (0x1D#6 ++ 0#1 ++ kd ++ i ++ 1#3) =
      29 * 2 ^ 26 + 0 * 2 ^ 25 + kd.toNat * 2 ^ 21 + i.toNat * 2 ^ 3 + 1 := by
  have h0 := cat_toNat (0x1D#6) (0#1)
  have h1 := cat_toNat (0x1D#6 ++ 0#1) (kd)
  have h2 := cat_toNat (0x1D#6 ++ 0#1 ++ kd) (i)
  have h3 := cat_toNat (0x1D#6 ++ 0#1 ++ kd ++ i) (1#3)
  have l0 : (0x1D#6).toNat = 29 := rfl
  have l1 : (0#1).toNat = 0 := rfl
  have l2 : (1#3).toNat = 1 := rfl
  refine h3.trans ?_
  omega

theorem kli_26_6 (kd : BitVec 4) (i : BitVec 18) :
    BitVec.extractLsb' (n := 32) 26 6 (0x1D#6 ++ 0#1 ++ kd ++ i ++ 1#3) = 0x1D#6 :=
  slice_eq (by rw [kli_nat]; have : (0x1D#6).toNat = 29 := rfl; have := (kd).isLt; have := (i).isLt; omega)

theorem kli_25_1 (kd : BitVec 4) (i : BitVec 18) :
    BitVec.extractLsb' (n := 32) 25 1 (0x1D#6 ++ 0#1 ++ kd ++ i ++ 1#3) = bit false :=
  slice_eq (by rw [kli_nat]; have : (bit false).toNat = 0 := rfl; have := (kd).isLt; have := (i).isLt; omega)

theorem kli_21_4 (kd : BitVec 4) (i : BitVec 18) :
    BitVec.extractLsb' (n := 32) 21 4 (0x1D#6 ++ 0#1 ++ kd ++ i ++ 1#3) = kd :=
  slice_eq (by rw [kli_nat]; have := (kd).isLt; have := (i).isLt; omega)

theorem kli_3_18 (kd : BitVec 4) (i : BitVec 18) :
    BitVec.extractLsb' (n := 32) 3 18 (0x1D#6 ++ 0#1 ++ kd ++ i ++ 1#3) = i :=
  slice_eq (by rw [kli_nat]; have := (kd).isLt; have := (i).isLt; omega)

theorem kli_0_3 (kd : BitVec 4) (i : BitVec 18) :
    BitVec.extractLsb' (n := 32) 0 3 (0x1D#6 ++ 0#1 ++ kd ++ i ++ 1#3) = 1#3 :=
  slice_eq (by rw [kli_nat]; have : (1#3).toNat = 1 := rfl; have := (kd).isLt; have := (i).isLt; omega)

theorem kli_b25 (kd : BitVec 4) (i : BitVec 18) : BitVec.getLsbD (w := 32) (0x1D#6 ++ 0#1 ++ kd ++ i ++ 1#3) 25 = false :=
  bit_eq (kli_25_1 kd i)

theorem kbr_nat (c : KCond) (ka : BitVec 4) (o : BitVec 15) :
    BitVec.toNat (w := 32) (0x1D#6 ++ 0#1 ++ ka ++ c.code ++ o ++ 4#3) =
      29 * 2 ^ 26 + 0 * 2 ^ 25 + ka.toNat * 2 ^ 21 + c.code.toNat * 2 ^ 18 + o.toNat * 2 ^ 3 + 4 := by
  have h0 := cat_toNat (0x1D#6) (0#1)
  have h1 := cat_toNat (0x1D#6 ++ 0#1) (ka)
  have h2 := cat_toNat (0x1D#6 ++ 0#1 ++ ka) (c.code)
  have h3 := cat_toNat (0x1D#6 ++ 0#1 ++ ka ++ c.code) (o)
  have h4 := cat_toNat (0x1D#6 ++ 0#1 ++ ka ++ c.code ++ o) (4#3)
  have l0 : (0x1D#6).toNat = 29 := rfl
  have l1 : (0#1).toNat = 0 := rfl
  have l2 : (4#3).toNat = 4 := rfl
  refine h4.trans ?_
  omega

theorem kbr_26_6 (c : KCond) (ka : BitVec 4) (o : BitVec 15) :
    BitVec.extractLsb' (n := 32) 26 6 (0x1D#6 ++ 0#1 ++ ka ++ c.code ++ o ++ 4#3) = 0x1D#6 :=
  slice_eq (by rw [kbr_nat]; have : (0x1D#6).toNat = 29 := rfl; have := (ka).isLt; have := (c.code).isLt; have := (o).isLt; omega)

theorem kbr_25_1 (c : KCond) (ka : BitVec 4) (o : BitVec 15) :
    BitVec.extractLsb' (n := 32) 25 1 (0x1D#6 ++ 0#1 ++ ka ++ c.code ++ o ++ 4#3) = bit false :=
  slice_eq (by rw [kbr_nat]; have : (bit false).toNat = 0 := rfl; have := (ka).isLt; have := (c.code).isLt; have := (o).isLt; omega)

theorem kbr_21_4 (c : KCond) (ka : BitVec 4) (o : BitVec 15) :
    BitVec.extractLsb' (n := 32) 21 4 (0x1D#6 ++ 0#1 ++ ka ++ c.code ++ o ++ 4#3) = ka :=
  slice_eq (by rw [kbr_nat]; have := (ka).isLt; have := (c.code).isLt; have := (o).isLt; omega)

theorem kbr_18_3 (c : KCond) (ka : BitVec 4) (o : BitVec 15) :
    BitVec.extractLsb' (n := 32) 18 3 (0x1D#6 ++ 0#1 ++ ka ++ c.code ++ o ++ 4#3) = c.code :=
  slice_eq (by rw [kbr_nat]; have := (ka).isLt; have := (c.code).isLt; have := (o).isLt; omega)

theorem kbr_3_15 (c : KCond) (ka : BitVec 4) (o : BitVec 15) :
    BitVec.extractLsb' (n := 32) 3 15 (0x1D#6 ++ 0#1 ++ ka ++ c.code ++ o ++ 4#3) = o :=
  slice_eq (by rw [kbr_nat]; have := (ka).isLt; have := (c.code).isLt; have := (o).isLt; omega)

theorem kbr_0_3 (c : KCond) (ka : BitVec 4) (o : BitVec 15) :
    BitVec.extractLsb' (n := 32) 0 3 (0x1D#6 ++ 0#1 ++ ka ++ c.code ++ o ++ 4#3) = 4#3 :=
  slice_eq (by rw [kbr_nat]; have : (4#3).toNat = 4 := rfl; have := (ka).isLt; have := (c.code).isLt; have := (o).isLt; omega)

theorem kbr_b25 (c : KCond) (ka : BitVec 4) (o : BitVec 15) : BitVec.getLsbD (w := 32) (0x1D#6 ++ 0#1 ++ ka ++ c.code ++ o ++ 4#3) 25 = false :=
  bit_eq (kbr_25_1 c ka o)

theorem qfrom_nat (et : ElemTy) (st : BitVec 5) (qd : BitVec 3) (ra : R5) :
    BitVec.toNat (w := 32) (0x1D#6 ++ 0#2 ++ qd ++ ra ++ et.code ++ st ++ 0#4 ++ 6#3) =
      29 * 2 ^ 26 + 0 * 2 ^ 24 + qd.toNat * 2 ^ 21 + ra.toNat * 2 ^ 16 + et.code.toNat * 2 ^ 12 + st.toNat * 2 ^ 7 + 0 * 2 ^ 3 + 6 := by
  have h0 := cat_toNat (0x1D#6) (0#2)
  have h1 := cat_toNat (0x1D#6 ++ 0#2) (qd)
  have h2 := cat_toNat (0x1D#6 ++ 0#2 ++ qd) (ra)
  have h3 := cat_toNat (0x1D#6 ++ 0#2 ++ qd ++ ra) (et.code)
  have h4 := cat_toNat (0x1D#6 ++ 0#2 ++ qd ++ ra ++ et.code) (st)
  have h5 := cat_toNat (0x1D#6 ++ 0#2 ++ qd ++ ra ++ et.code ++ st) (0#4)
  have h6 := cat_toNat (0x1D#6 ++ 0#2 ++ qd ++ ra ++ et.code ++ st ++ 0#4) (6#3)
  have l0 : (0x1D#6).toNat = 29 := rfl
  have l1 : (0#2).toNat = 0 := rfl
  have l2 : (0#4).toNat = 0 := rfl
  have l3 : (6#3).toNat = 6 := rfl
  refine h6.trans ?_
  omega

theorem qfrom_26_6 (et : ElemTy) (st : BitVec 5) (qd : BitVec 3) (ra : R5) :
    BitVec.extractLsb' (n := 32) 26 6 (0x1D#6 ++ 0#2 ++ qd ++ ra ++ et.code ++ st ++ 0#4 ++ 6#3) = 0x1D#6 :=
  slice_eq (by rw [qfrom_nat]; have : (0x1D#6).toNat = 29 := rfl; have := (qd).isLt; have := (ra).isLt; have := (et.code).isLt; have := (st).isLt; omega)

theorem qfrom_24_2 (et : ElemTy) (st : BitVec 5) (qd : BitVec 3) (ra : R5) :
    BitVec.extractLsb' (n := 32) 24 2 (0x1D#6 ++ 0#2 ++ qd ++ ra ++ et.code ++ st ++ 0#4 ++ 6#3) = 0#2 :=
  slice_eq (by rw [qfrom_nat]; have : (0#2).toNat = 0 := rfl; have := (qd).isLt; have := (ra).isLt; have := (et.code).isLt; have := (st).isLt; omega)

theorem qfrom_21_3 (et : ElemTy) (st : BitVec 5) (qd : BitVec 3) (ra : R5) :
    BitVec.extractLsb' (n := 32) 21 3 (0x1D#6 ++ 0#2 ++ qd ++ ra ++ et.code ++ st ++ 0#4 ++ 6#3) = qd :=
  slice_eq (by rw [qfrom_nat]; have := (qd).isLt; have := (ra).isLt; have := (et.code).isLt; have := (st).isLt; omega)

theorem qfrom_16_5 (et : ElemTy) (st : BitVec 5) (qd : BitVec 3) (ra : R5) :
    BitVec.extractLsb' (n := 32) 16 5 (0x1D#6 ++ 0#2 ++ qd ++ ra ++ et.code ++ st ++ 0#4 ++ 6#3) = ra :=
  slice_eq (by rw [qfrom_nat]; have := (qd).isLt; have := (ra).isLt; have := (et.code).isLt; have := (st).isLt; omega)

theorem qfrom_12_4 (et : ElemTy) (st : BitVec 5) (qd : BitVec 3) (ra : R5) :
    BitVec.extractLsb' (n := 32) 12 4 (0x1D#6 ++ 0#2 ++ qd ++ ra ++ et.code ++ st ++ 0#4 ++ 6#3) = et.code :=
  slice_eq (by rw [qfrom_nat]; have := (qd).isLt; have := (ra).isLt; have := (et.code).isLt; have := (st).isLt; omega)

theorem qfrom_7_5 (et : ElemTy) (st : BitVec 5) (qd : BitVec 3) (ra : R5) :
    BitVec.extractLsb' (n := 32) 7 5 (0x1D#6 ++ 0#2 ++ qd ++ ra ++ et.code ++ st ++ 0#4 ++ 6#3) = st :=
  slice_eq (by rw [qfrom_nat]; have := (qd).isLt; have := (ra).isLt; have := (et.code).isLt; have := (st).isLt; omega)

theorem qfrom_6_1 (et : ElemTy) (st : BitVec 5) (qd : BitVec 3) (ra : R5) :
    BitVec.extractLsb' (n := 32) 6 1 (0x1D#6 ++ 0#2 ++ qd ++ ra ++ et.code ++ st ++ 0#4 ++ 6#3) = bit false :=
  slice_eq (by rw [qfrom_nat]; have : (bit false).toNat = 0 := rfl; have := (qd).isLt; have := (ra).isLt; have := (et.code).isLt; have := (st).isLt; omega)

theorem qfrom_3_3 (et : ElemTy) (st : BitVec 5) (qd : BitVec 3) (ra : R5) :
    BitVec.extractLsb' (n := 32) 3 3 (0x1D#6 ++ 0#2 ++ qd ++ ra ++ et.code ++ st ++ 0#4 ++ 6#3) = 0#3 :=
  slice_eq (by rw [qfrom_nat]; have : (0#3).toNat = 0 := rfl; have := (qd).isLt; have := (ra).isLt; have := (et.code).isLt; have := (st).isLt; omega)

theorem qfrom_0_3 (et : ElemTy) (st : BitVec 5) (qd : BitVec 3) (ra : R5) :
    BitVec.extractLsb' (n := 32) 0 3 (0x1D#6 ++ 0#2 ++ qd ++ ra ++ et.code ++ st ++ 0#4 ++ 6#3) = 6#3 :=
  slice_eq (by rw [qfrom_nat]; have : (6#3).toNat = 6 := rfl; have := (qd).isLt; have := (ra).isLt; have := (et.code).isLt; have := (st).isLt; omega)

theorem qfrom_b6 (et : ElemTy) (st : BitVec 5) (qd : BitVec 3) (ra : R5) : BitVec.getLsbD (w := 32) (0x1D#6 ++ 0#2 ++ qd ++ ra ++ et.code ++ st ++ 0#4 ++ 6#3) 6 = false :=
  bit_eq (qfrom_6_1 et st qd ra)

theorem qfromS_nat (qd : BitVec 3) (ra : R5) :
    BitVec.toNat (w := 32) (0x1D#6 ++ 0#2 ++ qd ++ ra ++ 0#9 ++ 1#1 ++ 0#3 ++ 6#3) =
      29 * 2 ^ 26 + 0 * 2 ^ 24 + qd.toNat * 2 ^ 21 + ra.toNat * 2 ^ 16 + 0 * 2 ^ 7 + 1 * 2 ^ 6 + 0 * 2 ^ 3 + 6 := by
  have h0 := cat_toNat (0x1D#6) (0#2)
  have h1 := cat_toNat (0x1D#6 ++ 0#2) (qd)
  have h2 := cat_toNat (0x1D#6 ++ 0#2 ++ qd) (ra)
  have h3 := cat_toNat (0x1D#6 ++ 0#2 ++ qd ++ ra) (0#9)
  have h4 := cat_toNat (0x1D#6 ++ 0#2 ++ qd ++ ra ++ 0#9) (1#1)
  have h5 := cat_toNat (0x1D#6 ++ 0#2 ++ qd ++ ra ++ 0#9 ++ 1#1) (0#3)
  have h6 := cat_toNat (0x1D#6 ++ 0#2 ++ qd ++ ra ++ 0#9 ++ 1#1 ++ 0#3) (6#3)
  have l0 : (0x1D#6).toNat = 29 := rfl
  have l1 : (0#2).toNat = 0 := rfl
  have l2 : (0#9).toNat = 0 := rfl
  have l3 : (1#1).toNat = 1 := rfl
  have l4 : (0#3).toNat = 0 := rfl
  have l5 : (6#3).toNat = 6 := rfl
  refine h6.trans ?_
  omega

theorem qfromS_26_6 (qd : BitVec 3) (ra : R5) :
    BitVec.extractLsb' (n := 32) 26 6 (0x1D#6 ++ 0#2 ++ qd ++ ra ++ 0#9 ++ 1#1 ++ 0#3 ++ 6#3) = 0x1D#6 :=
  slice_eq (by rw [qfromS_nat]; have : (0x1D#6).toNat = 29 := rfl; have := (qd).isLt; have := (ra).isLt; omega)

theorem qfromS_24_2 (qd : BitVec 3) (ra : R5) :
    BitVec.extractLsb' (n := 32) 24 2 (0x1D#6 ++ 0#2 ++ qd ++ ra ++ 0#9 ++ 1#1 ++ 0#3 ++ 6#3) = 0#2 :=
  slice_eq (by rw [qfromS_nat]; have : (0#2).toNat = 0 := rfl; have := (qd).isLt; have := (ra).isLt; omega)

theorem qfromS_21_3 (qd : BitVec 3) (ra : R5) :
    BitVec.extractLsb' (n := 32) 21 3 (0x1D#6 ++ 0#2 ++ qd ++ ra ++ 0#9 ++ 1#1 ++ 0#3 ++ 6#3) = qd :=
  slice_eq (by rw [qfromS_nat]; have := (qd).isLt; have := (ra).isLt; omega)

theorem qfromS_16_5 (qd : BitVec 3) (ra : R5) :
    BitVec.extractLsb' (n := 32) 16 5 (0x1D#6 ++ 0#2 ++ qd ++ ra ++ 0#9 ++ 1#1 ++ 0#3 ++ 6#3) = ra :=
  slice_eq (by rw [qfromS_nat]; have := (qd).isLt; have := (ra).isLt; omega)

theorem qfromS_7_9 (qd : BitVec 3) (ra : R5) :
    BitVec.extractLsb' (n := 32) 7 9 (0x1D#6 ++ 0#2 ++ qd ++ ra ++ 0#9 ++ 1#1 ++ 0#3 ++ 6#3) = 0#9 :=
  slice_eq (by rw [qfromS_nat]; have : (0#9).toNat = 0 := rfl; have := (qd).isLt; have := (ra).isLt; omega)

theorem qfromS_6_1 (qd : BitVec 3) (ra : R5) :
    BitVec.extractLsb' (n := 32) 6 1 (0x1D#6 ++ 0#2 ++ qd ++ ra ++ 0#9 ++ 1#1 ++ 0#3 ++ 6#3) = bit true :=
  slice_eq (by rw [qfromS_nat]; have : (bit true).toNat = 1 := rfl; have := (qd).isLt; have := (ra).isLt; omega)

theorem qfromS_3_3 (qd : BitVec 3) (ra : R5) :
    BitVec.extractLsb' (n := 32) 3 3 (0x1D#6 ++ 0#2 ++ qd ++ ra ++ 0#9 ++ 1#1 ++ 0#3 ++ 6#3) = 0#3 :=
  slice_eq (by rw [qfromS_nat]; have : (0#3).toNat = 0 := rfl; have := (qd).isLt; have := (ra).isLt; omega)

theorem qfromS_0_3 (qd : BitVec 3) (ra : R5) :
    BitVec.extractLsb' (n := 32) 0 3 (0x1D#6 ++ 0#2 ++ qd ++ ra ++ 0#9 ++ 1#1 ++ 0#3 ++ 6#3) = 6#3 :=
  slice_eq (by rw [qfromS_nat]; have : (6#3).toNat = 6 := rfl; have := (qd).isLt; have := (ra).isLt; omega)

theorem qfromS_b6 (qd : BitVec 3) (ra : R5) : BitVec.getLsbD (w := 32) (0x1D#6 ++ 0#2 ++ qd ++ ra ++ 0#9 ++ 1#1 ++ 0#3 ++ 6#3) 6 = true :=
  bit_eq (qfromS_6_1 qd ra)

theorem sysw_nat (sub : BitVec 4) (rd : R5) (ra : R5) (n : BitVec 12) :
    BitVec.toNat (w := 32) (sysw sub rd ra n) =
      37 * 2 ^ 26 + rd.toNat * 2 ^ 21 + ra.toNat * 2 ^ 16 + n.toNat * 2 ^ 4 + sub.toNat := by
  have h0 := cat_toNat (0x25#6) (rd)
  have h1 := cat_toNat (0x25#6 ++ rd) (ra)
  have h2 := cat_toNat (0x25#6 ++ rd ++ ra) (n)
  have h3 := cat_toNat (0x25#6 ++ rd ++ ra ++ n) (sub)
  have l0 : (0x25#6).toNat = 37 := rfl
  refine h3.trans ?_
  omega

theorem sysw_26_6 (sub : BitVec 4) (rd : R5) (ra : R5) (n : BitVec 12) :
    BitVec.extractLsb' (n := 32) 26 6 (sysw sub rd ra n) = 0x25#6 :=
  slice_eq (by rw [sysw_nat]; have : (0x25#6).toNat = 37 := rfl; have := (rd).isLt; have := (ra).isLt; have := (n).isLt; have := (sub).isLt; omega)

theorem sysw_21_5 (sub : BitVec 4) (rd : R5) (ra : R5) (n : BitVec 12) :
    BitVec.extractLsb' (n := 32) 21 5 (sysw sub rd ra n) = rd :=
  slice_eq (by rw [sysw_nat]; have := (rd).isLt; have := (ra).isLt; have := (n).isLt; have := (sub).isLt; omega)

theorem sysw_16_5 (sub : BitVec 4) (rd : R5) (ra : R5) (n : BitVec 12) :
    BitVec.extractLsb' (n := 32) 16 5 (sysw sub rd ra n) = ra :=
  slice_eq (by rw [sysw_nat]; have := (rd).isLt; have := (ra).isLt; have := (n).isLt; have := (sub).isLt; omega)

theorem sysw_4_12 (sub : BitVec 4) (rd : R5) (ra : R5) (n : BitVec 12) :
    BitVec.extractLsb' (n := 32) 4 12 (sysw sub rd ra n) = n :=
  slice_eq (by rw [sysw_nat]; have := (rd).isLt; have := (ra).isLt; have := (n).isLt; have := (sub).isLt; omega)

theorem sysw_0_4 (sub : BitVec 4) (rd : R5) (ra : R5) (n : BitVec 12) :
    BitVec.extractLsb' (n := 32) 0 4 (sysw sub rd ra n) = sub :=
  slice_eq (by rw [sysw_nat]; have := (rd).isLt; have := (ra).isLt; have := (n).isLt; have := (sub).isLt; omega)

theorem sysw_n (sub : BitVec 4) (rd ra : R5) (n : BitVec 12) (s l : Nat) (h : 4 ≤ s) (h' : s + l ≤ 16) :
    (sysw sub rd ra n).extractLsb' s l = n.extractLsb' (s - 4) l :=
  (BitVec.extractLsb'_append_eq_of_le (xhi := 0x25#6 ++ rd ++ ra ++ n) (xlo := sub) (by omega)).trans
    (BitVec.extractLsb'_append_eq_of_add_le (xhi := 0x25#6 ++ rd ++ ra) (xlo := n) (by omega))

theorem shi_imm (sub : BitVec 2) (w : Bool) (rd ra : R5) (c : BitVec 6) (s l : Nat) (h : s + l ≤ 16) :
    (shi sub w rd ra c).extractLsb' s l = BitVec.extractLsb' (n := 16) s l (sub ++ bit w ++ 0#7 ++ c) :=
  BitVec.extractLsb'_append_eq_of_add_le (xhi := 0x08#6 ++ rd ++ ra) (xlo := (sub ++ bit w ++ 0#7 ++ c)) (by omega)

theorem shi_b13 (sub : BitVec 2) (w : Bool) (rd ra : R5) (c : BitVec 6) : (shi sub w rd ra c).getLsbD 13 = w :=
  bit_eq ((shi_imm sub w rd ra c 13 1 (by omega)).trans (shiImm_13_1 sub w c))

theorem tlbN_nat (rb : R5) :
    BitVec.toNat (w := 12) (rb ++ 0#7) =
      rb.toNat * 2 ^ 7 + 0 := by
  have h0 := cat_toNat (rb) (0#7)
  have l0 : (0#7).toNat = 0 := rfl
  refine h0.trans ?_
  omega

theorem tlbN_7_5 (rb : R5) :
    BitVec.extractLsb' (n := 12) 7 5 (rb ++ 0#7) = rb :=
  slice_eq (by rw [tlbN_nat]; have := (rb).isLt; omega)

theorem tlbN_0_7 (rb : R5) :
    BitVec.extractLsb' (n := 12) 0 7 (rb ++ 0#7) = 0#7 :=
  slice_eq (by rw [tlbN_nat]; have : (0#7).toNat = 0 := rfl; have := (rb).isLt; omega)

theorem featN_nat (c : BitVec 4) (i : BitVec 8) :
    BitVec.toNat (w := 12) (c ++ i) =
      c.toNat * 2 ^ 8 + i.toNat := by
  have h0 := cat_toNat (c) (i)
  refine h0.trans ?_
  omega

theorem featN_8_4 (c : BitVec 4) (i : BitVec 8) :
    BitVec.extractLsb' (n := 12) 8 4 (c ++ i) = c :=
  slice_eq (by rw [featN_nat]; have := (c).isLt; have := (i).isLt; omega)

theorem featN_0_8 (c : BitVec 4) (i : BitVec 8) :
    BitVec.extractLsb' (n := 12) 0 8 (c ++ i) = i :=
  slice_eq (by rw [featN_nat]; have := (c).isLt; have := (i).isLt; omega)

theorem clause_nat (wt : BitVec 12) (f1 : BitVec 4) (f2 : BitVec 4) (l : BitVec 3) :
    BitVec.toNat (w := 32) (0x3E#6 ++ wt ++ f1 ++ f2 ++ l ++ 0#3) =
      62 * 2 ^ 26 + wt.toNat * 2 ^ 14 + f1.toNat * 2 ^ 10 + f2.toNat * 2 ^ 6 + l.toNat * 2 ^ 3 + 0 := by
  have h0 := cat_toNat (0x3E#6) (wt)
  have h1 := cat_toNat (0x3E#6 ++ wt) (f1)
  have h2 := cat_toNat (0x3E#6 ++ wt ++ f1) (f2)
  have h3 := cat_toNat (0x3E#6 ++ wt ++ f1 ++ f2) (l)
  have h4 := cat_toNat (0x3E#6 ++ wt ++ f1 ++ f2 ++ l) (0#3)
  have l0 : (0x3E#6).toNat = 62 := rfl
  have l1 : (0#3).toNat = 0 := rfl
  refine h4.trans ?_
  omega

theorem clause_26_6 (wt : BitVec 12) (f1 : BitVec 4) (f2 : BitVec 4) (l : BitVec 3) :
    BitVec.extractLsb' (n := 32) 26 6 (0x3E#6 ++ wt ++ f1 ++ f2 ++ l ++ 0#3) = 0x3E#6 :=
  slice_eq (by rw [clause_nat]; have : (0x3E#6).toNat = 62 := rfl; have := (wt).isLt; have := (f1).isLt; have := (f2).isLt; have := (l).isLt; omega)

theorem clause_14_12 (wt : BitVec 12) (f1 : BitVec 4) (f2 : BitVec 4) (l : BitVec 3) :
    BitVec.extractLsb' (n := 32) 14 12 (0x3E#6 ++ wt ++ f1 ++ f2 ++ l ++ 0#3) = wt :=
  slice_eq (by rw [clause_nat]; have := (wt).isLt; have := (f1).isLt; have := (f2).isLt; have := (l).isLt; omega)

theorem clause_10_4 (wt : BitVec 12) (f1 : BitVec 4) (f2 : BitVec 4) (l : BitVec 3) :
    BitVec.extractLsb' (n := 32) 10 4 (0x3E#6 ++ wt ++ f1 ++ f2 ++ l ++ 0#3) = f1 :=
  slice_eq (by rw [clause_nat]; have := (wt).isLt; have := (f1).isLt; have := (f2).isLt; have := (l).isLt; omega)

theorem clause_6_4 (wt : BitVec 12) (f1 : BitVec 4) (f2 : BitVec 4) (l : BitVec 3) :
    BitVec.extractLsb' (n := 32) 6 4 (0x3E#6 ++ wt ++ f1 ++ f2 ++ l ++ 0#3) = f2 :=
  slice_eq (by rw [clause_nat]; have := (wt).isLt; have := (f1).isLt; have := (f2).isLt; have := (l).isLt; omega)

theorem clause_3_3 (wt : BitVec 12) (f1 : BitVec 4) (f2 : BitVec 4) (l : BitVec 3) :
    BitVec.extractLsb' (n := 32) 3 3 (0x3E#6 ++ wt ++ f1 ++ f2 ++ l ++ 0#3) = l :=
  slice_eq (by rw [clause_nat]; have := (wt).isLt; have := (f1).isLt; have := (f2).isLt; have := (l).isLt; omega)

theorem clause_0_3 (wt : BitVec 12) (f1 : BitVec 4) (f2 : BitVec 4) (l : BitVec 3) :
    BitVec.extractLsb' (n := 32) 0 3 (0x3E#6 ++ wt ++ f1 ++ f2 ++ l ++ 0#3) = 0#3 :=
  slice_eq (by rw [clause_nat]; have : (0#3).toNat = 0 := rfl; have := (wt).isLt; have := (f1).isLt; have := (f2).isLt; have := (l).isLt; omega)

theorem vfn_nat (a : BitVec 4) (b : BitVec 4) (c : BitVec 3) :
    BitVec.toNat (w := 11) (a ++ b ++ c) =
      a.toNat * 2 ^ 7 + b.toNat * 2 ^ 3 + c.toNat := by
  have h0 := cat_toNat (a) (b)
  have h1 := cat_toNat (a ++ b) (c)
  refine h1.trans ?_
  omega

theorem vfn_7_4 (a : BitVec 4) (b : BitVec 4) (c : BitVec 3) :
    BitVec.extractLsb' (n := 11) 7 4 (a ++ b ++ c) = a :=
  slice_eq (by rw [vfn_nat]; have := (a).isLt; have := (b).isLt; have := (c).isLt; omega)

theorem vfn_3_4 (a : BitVec 4) (b : BitVec 4) (c : BitVec 3) :
    BitVec.extractLsb' (n := 11) 3 4 (a ++ b ++ c) = b :=
  slice_eq (by rw [vfn_nat]; have := (a).isLt; have := (b).isLt; have := (c).isLt; omega)

theorem vfn_0_3 (a : BitVec 4) (b : BitVec 4) (c : BitVec 3) :
    BitVec.extractLsb' (n := 11) 0 3 (a ++ b ++ c) = c :=
  slice_eq (by rw [vfn_nat]; have := (a).isLt; have := (b).isLt; have := (c).isLt; omega)

theorem ffn_nat (a : BitVec 5) (b : BitVec 2) (c : BitVec 3) :
    BitVec.toNat (w := 11) (a ++ b ++ c ++ 0#1) =
      a.toNat * 2 ^ 6 + b.toNat * 2 ^ 4 + c.toNat * 2 ^ 1 + 0 := by
  have h0 := cat_toNat (a) (b)
  have h1 := cat_toNat (a ++ b) (c)
  have h2 := cat_toNat (a ++ b ++ c) (0#1)
  have l0 : (0#1).toNat = 0 := rfl
  refine h2.trans ?_
  omega

theorem ffn_6_5 (a : BitVec 5) (b : BitVec 2) (c : BitVec 3) :
    BitVec.extractLsb' (n := 11) 6 5 (a ++ b ++ c ++ 0#1) = a :=
  slice_eq (by rw [ffn_nat]; have := (a).isLt; have := (b).isLt; have := (c).isLt; omega)

theorem ffn_4_2 (a : BitVec 5) (b : BitVec 2) (c : BitVec 3) :
    BitVec.extractLsb' (n := 11) 4 2 (a ++ b ++ c ++ 0#1) = b :=
  slice_eq (by rw [ffn_nat]; have := (a).isLt; have := (b).isLt; have := (c).isLt; omega)

theorem ffn_1_3 (a : BitVec 5) (b : BitVec 2) (c : BitVec 3) :
    BitVec.extractLsb' (n := 11) 1 3 (a ++ b ++ c ++ 0#1) = c :=
  slice_eq (by rw [ffn_nat]; have := (a).isLt; have := (b).isLt; have := (c).isLt; omega)

theorem ffn_0_1 (a : BitVec 5) (b : BitVec 2) (c : BitVec 3) :
    BitVec.extractLsb' (n := 11) 0 1 (a ++ b ++ c ++ 0#1) = bit false :=
  slice_eq (by rw [ffn_nat]; have : (bit false).toNat = 0 := rfl; have := (a).isLt; have := (b).isLt; have := (c).isLt; omega)

theorem ffn_b0 (a : BitVec 5) (b : BitVec 2) (c : BitVec 3) : BitVec.getLsbD (w := 11) (a ++ b ++ c ++ 0#1) 0 = false :=
  bit_eq (ffn_0_1 a b c)

theorem afn_nat (a : BitVec 6) (m : BitVec 5) :
    BitVec.toNat (w := 11) (a ++ m) =
      a.toNat * 2 ^ 5 + m.toNat := by
  have h0 := cat_toNat (a) (m)
  refine h0.trans ?_
  omega

theorem afn_5_6 (a : BitVec 6) (m : BitVec 5) :
    BitVec.extractLsb' (n := 11) 5 6 (a ++ m) = a :=
  slice_eq (by rw [afn_nat]; have := (a).isLt; have := (m).isLt; omega)

theorem afn_0_5 (a : BitVec 6) (m : BitVec 5) :
    BitVec.extractLsb' (n := 11) 0 5 (a ++ m) = m :=
  slice_eq (by rw [afn_nat]; have := (a).isLt; have := (m).isLt; omega)

theorem afn_mod (a : BitVec 6) (m : BitVec 5) (s l : Nat) (h : s + l ≤ 5) :
    BitVec.extractLsb' (n := 11) s l (a ++ m) = m.extractLsb' s l :=
  BitVec.extractLsb'_append_eq_of_add_le (xhi := a) (xlo := m) h

theorem afn_bit (a : BitVec 6) (m : BitVec 5) (s : Nat) (h : s < 5) : BitVec.getLsbD (w := 11) (a ++ m) s = m.getLsbD s :=
  (BitVec.getLsbD_append (x := a) (y := m) (i := s)).trans (by simp [h])

theorem hbM_nat (e : Bool) (x : BitVec 4) :
    BitVec.toNat (w := 5) (bit e ++ x) =
      (bit e).toNat * 2 ^ 4 + x.toNat := by
  have h0 := cat_toNat (bit e) (x)
  refine h0.trans ?_
  omega

theorem hbM_0_4 (e : Bool) (x : BitVec 4) :
    BitVec.extractLsb' (n := 5) 0 4 (bit e ++ x) = x :=
  slice_eq (by rw [hbM_nat]; have := (bit e).isLt; have := (x).isLt; omega)

theorem hbM_4_1 (e : Bool) (x : BitVec 4) :
    BitVec.extractLsb' (n := 5) 4 1 (bit e ++ x) = bit e :=
  slice_eq (by rw [hbM_nat]; have := (bit e).isLt; have := (x).isLt; omega)

theorem hbM_b4 (e : Bool) (x : BitVec 4) : BitVec.getLsbD (w := 5) (bit e ++ x) 4 = e :=
  bit_eq (hbM_4_1 e x)

theorem z14_nat (x : BitVec 4) :
    BitVec.toNat (w := 5) (0#1 ++ x) =
      0 * 2 ^ 4 + x.toNat := by
  have h0 := cat_toNat (0#1) (x)
  have l0 : (0#1).toNat = 0 := rfl
  refine h0.trans ?_
  omega

theorem z14_0_4 (x : BitVec 4) :
    BitVec.extractLsb' (n := 5) 0 4 (0#1 ++ x) = x :=
  slice_eq (by rw [z14_nat]; have := (x).isLt; omega)

theorem z14_4_1 (x : BitVec 4) :
    BitVec.extractLsb' (n := 5) 4 1 (0#1 ++ x) = bit false :=
  slice_eq (by rw [z14_nat]; have : (bit false).toNat = 0 := rfl; have := (x).isLt; omega)

theorem z14_b4 (x : BitVec 4) : BitVec.getLsbD (w := 5) (0#1 ++ x) 4 = false :=
  bit_eq (z14_4_1 x)

theorem z23_nat (x : BitVec 3) :
    BitVec.toNat (w := 5) (0#2 ++ x) =
      0 * 2 ^ 3 + x.toNat := by
  have h0 := cat_toNat (0#2) (x)
  have l0 : (0#2).toNat = 0 := rfl
  refine h0.trans ?_
  omega

theorem z23_0_3 (x : BitVec 3) :
    BitVec.extractLsb' (n := 5) 0 3 (0#2 ++ x) = x :=
  slice_eq (by rw [z23_nat]; have := (x).isLt; omega)

theorem z23_3_2 (x : BitVec 3) :
    BitVec.extractLsb' (n := 5) 3 2 (0#2 ++ x) = 0#2 :=
  slice_eq (by rw [z23_nat]; have : (0#2).toNat = 0 := rfl; have := (x).isLt; omega)

theorem z32_nat (x : BitVec 2) :
    BitVec.toNat (w := 5) (0#3 ++ x) =
      0 * 2 ^ 2 + x.toNat := by
  have h0 := cat_toNat (0#3) (x)
  have l0 : (0#3).toNat = 0 := rfl
  refine h0.trans ?_
  omega

theorem z32_0_2 (x : BitVec 2) :
    BitVec.extractLsb' (n := 5) 0 2 (0#3 ++ x) = x :=
  slice_eq (by rw [z32_nat]; have := (x).isLt; omega)

theorem z32_3_2 (x : BitVec 2) :
    BitVec.extractLsb' (n := 5) 3 2 (0#3 ++ x) = 0#2 :=
  slice_eq (by rw [z32_nat]; have : (0#2).toNat = 0 := rfl; have := (x).isLt; omega)

theorem z32_2_3 (x : BitVec 2) :
    BitVec.extractLsb' (n := 5) 2 3 (0#3 ++ x) = 0#3 :=
  slice_eq (by rw [z32_nat]; have : (0#3).toNat = 0 := rfl; have := (x).isLt; omega)

theorem z32_2_1 (x : BitVec 2) :
    BitVec.extractLsb' (n := 5) 2 1 (0#3 ++ x) = bit false :=
  slice_eq (by rw [z32_nat]; have : (bit false).toNat = 0 := rfl; have := (x).isLt; omega)

theorem z32_b2 (x : BitVec 2) : BitVec.getLsbD (w := 5) (0#3 ++ x) 2 = false :=
  bit_eq (z32_2_1 x)

theorem ktM_nat (c : Bool) (x : BitVec 2) :
    BitVec.toNat (w := 5) (0#2 ++ bit c ++ x) =
      0 * 2 ^ 3 + (bit c).toNat * 2 ^ 2 + x.toNat := by
  have h0 := cat_toNat (0#2) (bit c)
  have h1 := cat_toNat (0#2 ++ bit c) (x)
  have l0 : (0#2).toNat = 0 := rfl
  refine h1.trans ?_
  omega

theorem ktM_0_2 (c : Bool) (x : BitVec 2) :
    BitVec.extractLsb' (n := 5) 0 2 (0#2 ++ bit c ++ x) = x :=
  slice_eq (by rw [ktM_nat]; have := (bit c).isLt; have := (x).isLt; omega)

theorem ktM_3_2 (c : Bool) (x : BitVec 2) :
    BitVec.extractLsb' (n := 5) 3 2 (0#2 ++ bit c ++ x) = 0#2 :=
  slice_eq (by rw [ktM_nat]; have : (0#2).toNat = 0 := rfl; have := (bit c).isLt; have := (x).isLt; omega)

theorem ktM_2_1 (c : Bool) (x : BitVec 2) :
    BitVec.extractLsb' (n := 5) 2 1 (0#2 ++ bit c ++ x) = bit c :=
  slice_eq (by rw [ktM_nat]; have := (bit c).isLt; have := (x).isLt; omega)

theorem ktM_b2 (c : Bool) (x : BitVec 2) : BitVec.getLsbD (w := 5) (0#2 ++ bit c ++ x) 2 = c :=
  bit_eq (ktM_2_1 c x)

theorem rc23_nat (a : BitVec 2) (b : BitVec 3) :
    BitVec.toNat (w := 5) (a ++ b) =
      a.toNat * 2 ^ 3 + b.toNat := by
  have h0 := cat_toNat (a) (b)
  refine h0.trans ?_
  omega

theorem rc23_3_2 (a : BitVec 2) (b : BitVec 3) :
    BitVec.extractLsb' (n := 5) 3 2 (a ++ b) = a :=
  slice_eq (by rw [rc23_nat]; have := (a).isLt; have := (b).isLt; omega)

theorem rc23_0_3 (a : BitVec 2) (b : BitVec 3) :
    BitVec.extractLsb' (n := 5) 0 3 (a ++ b) = b :=
  slice_eq (by rw [rc23_nat]; have := (a).isLt; have := (b).isLt; omega)

theorem rc32_nat (a : BitVec 3) (b : BitVec 2) :
    BitVec.toNat (w := 5) (a ++ b) =
      a.toNat * 2 ^ 2 + b.toNat := by
  have h0 := cat_toNat (a) (b)
  refine h0.trans ?_
  omega

theorem rc32_2_3 (a : BitVec 3) (b : BitVec 2) :
    BitVec.extractLsb' (n := 5) 2 3 (a ++ b) = a :=
  slice_eq (by rw [rc32_nat]; have := (a).isLt; have := (b).isLt; omega)

theorem rc32_0_2 (a : BitVec 3) (b : BitVec 2) :
    BitVec.extractLsb' (n := 5) 0 2 (a ++ b) = b :=
  slice_eq (by rw [rc32_nat]; have := (a).isLt; have := (b).isLt; omega)

theorem obM_nat (k : Bool) (n : BitVec 2) :
    BitVec.toNat (w := 5) (0#1 ++ bit k ++ 0#1 ++ n) =
      0 * 2 ^ 4 + (bit k).toNat * 2 ^ 3 + 0 * 2 ^ 2 + n.toNat := by
  have h0 := cat_toNat (0#1) (bit k)
  have h1 := cat_toNat (0#1 ++ bit k) (0#1)
  have h2 := cat_toNat (0#1 ++ bit k ++ 0#1) (n)
  have l0 : (0#1).toNat = 0 := rfl
  refine h2.trans ?_
  omega

theorem obM_0_2 (k : Bool) (n : BitVec 2) :
    BitVec.extractLsb' (n := 5) 0 2 (0#1 ++ bit k ++ 0#1 ++ n) = n :=
  slice_eq (by rw [obM_nat]; have := (bit k).isLt; have := (n).isLt; omega)

theorem obM_2_1 (k : Bool) (n : BitVec 2) :
    BitVec.extractLsb' (n := 5) 2 1 (0#1 ++ bit k ++ 0#1 ++ n) = bit false :=
  slice_eq (by rw [obM_nat]; have : (bit false).toNat = 0 := rfl; have := (bit k).isLt; have := (n).isLt; omega)

theorem obM_3_1 (k : Bool) (n : BitVec 2) :
    BitVec.extractLsb' (n := 5) 3 1 (0#1 ++ bit k ++ 0#1 ++ n) = bit k :=
  slice_eq (by rw [obM_nat]; have := (bit k).isLt; have := (n).isLt; omega)

theorem obM_4_1 (k : Bool) (n : BitVec 2) :
    BitVec.extractLsb' (n := 5) 4 1 (0#1 ++ bit k ++ 0#1 ++ n) = bit false :=
  slice_eq (by rw [obM_nat]; have : (bit false).toNat = 0 := rfl; have := (bit k).isLt; have := (n).isLt; omega)

theorem obM_b2 (k : Bool) (n : BitVec 2) : BitVec.getLsbD (w := 5) (0#1 ++ bit k ++ 0#1 ++ n) 2 = false :=
  bit_eq (obM_2_1 k n)

theorem obM_b3 (k : Bool) (n : BitVec 2) : BitVec.getLsbD (w := 5) (0#1 ++ bit k ++ 0#1 ++ n) 3 = k :=
  bit_eq (obM_3_1 k n)

theorem obM_b4 (k : Bool) (n : BitVec 2) : BitVec.getLsbD (w := 5) (0#1 ++ bit k ++ 0#1 ++ n) 4 = false :=
  bit_eq (obM_4_1 k n)

theorem cvtF_nat (a : BitVec 2) (b : BitVec 4) (c : BitVec 3) (d : BitVec 2) :
    BitVec.toNat (w := 11) (a ++ b ++ c ++ d) =
      a.toNat * 2 ^ 9 + b.toNat * 2 ^ 5 + c.toNat * 2 ^ 2 + d.toNat := by
  have h0 := cat_toNat (a) (b)
  have h1 := cat_toNat (a ++ b) (c)
  have h2 := cat_toNat (a ++ b ++ c) (d)
  refine h2.trans ?_
  omega

theorem cvtF_9_2 (a : BitVec 2) (b : BitVec 4) (c : BitVec 3) (d : BitVec 2) :
    BitVec.extractLsb' (n := 11) 9 2 (a ++ b ++ c ++ d) = a :=
  slice_eq (by rw [cvtF_nat]; have := (a).isLt; have := (b).isLt; have := (c).isLt; have := (d).isLt; omega)

theorem cvtF_5_4 (a : BitVec 2) (b : BitVec 4) (c : BitVec 3) (d : BitVec 2) :
    BitVec.extractLsb' (n := 11) 5 4 (a ++ b ++ c ++ d) = b :=
  slice_eq (by rw [cvtF_nat]; have := (a).isLt; have := (b).isLt; have := (c).isLt; have := (d).isLt; omega)

theorem cvtF_2_3 (a : BitVec 2) (b : BitVec 4) (c : BitVec 3) (d : BitVec 2) :
    BitVec.extractLsb' (n := 11) 2 3 (a ++ b ++ c ++ d) = c :=
  slice_eq (by rw [cvtF_nat]; have := (a).isLt; have := (b).isLt; have := (c).isLt; have := (d).isLt; omega)

theorem cvtF_0_2 (a : BitVec 2) (b : BitVec 4) (c : BitVec 3) (d : BitVec 2) :
    BitVec.extractLsb' (n := 11) 0 2 (a ++ b ++ c ++ d) = d :=
  slice_eq (by rw [cvtF_nat]; have := (a).isLt; have := (b).isLt; have := (c).isLt; have := (d).isLt; omega)

theorem vcvtF_nat (a : BitVec 2) (b : BitVec 3) (c : BitVec 3) (d : BitVec 3) :
    BitVec.toNat (w := 11) (a ++ b ++ c ++ d) =
      a.toNat * 2 ^ 9 + b.toNat * 2 ^ 6 + c.toNat * 2 ^ 3 + d.toNat := by
  have h0 := cat_toNat (a) (b)
  have h1 := cat_toNat (a ++ b) (c)
  have h2 := cat_toNat (a ++ b ++ c) (d)
  refine h2.trans ?_
  omega

theorem vcvtF_9_2 (a : BitVec 2) (b : BitVec 3) (c : BitVec 3) (d : BitVec 3) :
    BitVec.extractLsb' (n := 11) 9 2 (a ++ b ++ c ++ d) = a :=
  slice_eq (by rw [vcvtF_nat]; have := (a).isLt; have := (b).isLt; have := (c).isLt; have := (d).isLt; omega)

theorem vcvtF_6_3 (a : BitVec 2) (b : BitVec 3) (c : BitVec 3) (d : BitVec 3) :
    BitVec.extractLsb' (n := 11) 6 3 (a ++ b ++ c ++ d) = b :=
  slice_eq (by rw [vcvtF_nat]; have := (a).isLt; have := (b).isLt; have := (c).isLt; have := (d).isLt; omega)

theorem vcvtF_3_3 (a : BitVec 2) (b : BitVec 3) (c : BitVec 3) (d : BitVec 3) :
    BitVec.extractLsb' (n := 11) 3 3 (a ++ b ++ c ++ d) = c :=
  slice_eq (by rw [vcvtF_nat]; have := (a).isLt; have := (b).isLt; have := (c).isLt; have := (d).isLt; omega)

theorem vcvtF_0_3 (a : BitVec 2) (b : BitVec 3) (c : BitVec 3) (d : BitVec 3) :
    BitVec.extractLsb' (n := 11) 0 3 (a ++ b ++ c ++ d) = d :=
  slice_eq (by rw [vcvtF_nat]; have := (a).isLt; have := (b).isLt; have := (c).isLt; have := (d).isLt; omega)

theorem vscF_nat (a : BitVec 2) (b : BitVec 2) (c : BitVec 2) (d : BitVec 3) (e : BitVec 2) :
    BitVec.toNat (w := 11) (a ++ b ++ c ++ d ++ e) =
      a.toNat * 2 ^ 9 + b.toNat * 2 ^ 7 + c.toNat * 2 ^ 5 + d.toNat * 2 ^ 2 + e.toNat := by
  have h0 := cat_toNat (a) (b)
  have h1 := cat_toNat (a ++ b) (c)
  have h2 := cat_toNat (a ++ b ++ c) (d)
  have h3 := cat_toNat (a ++ b ++ c ++ d) (e)
  refine h3.trans ?_
  omega

theorem vscF_9_2 (a : BitVec 2) (b : BitVec 2) (c : BitVec 2) (d : BitVec 3) (e : BitVec 2) :
    BitVec.extractLsb' (n := 11) 9 2 (a ++ b ++ c ++ d ++ e) = a :=
  slice_eq (by rw [vscF_nat]; have := (a).isLt; have := (b).isLt; have := (c).isLt; have := (d).isLt; have := (e).isLt; omega)

theorem vscF_7_2 (a : BitVec 2) (b : BitVec 2) (c : BitVec 2) (d : BitVec 3) (e : BitVec 2) :
    BitVec.extractLsb' (n := 11) 7 2 (a ++ b ++ c ++ d ++ e) = b :=
  slice_eq (by rw [vscF_nat]; have := (a).isLt; have := (b).isLt; have := (c).isLt; have := (d).isLt; have := (e).isLt; omega)

theorem vscF_5_2 (a : BitVec 2) (b : BitVec 2) (c : BitVec 2) (d : BitVec 3) (e : BitVec 2) :
    BitVec.extractLsb' (n := 11) 5 2 (a ++ b ++ c ++ d ++ e) = c :=
  slice_eq (by rw [vscF_nat]; have := (a).isLt; have := (b).isLt; have := (c).isLt; have := (d).isLt; have := (e).isLt; omega)

theorem vscF_2_3 (a : BitVec 2) (b : BitVec 2) (c : BitVec 2) (d : BitVec 3) (e : BitVec 2) :
    BitVec.extractLsb' (n := 11) 2 3 (a ++ b ++ c ++ d ++ e) = d :=
  slice_eq (by rw [vscF_nat]; have := (a).isLt; have := (b).isLt; have := (c).isLt; have := (d).isLt; have := (e).isLt; omega)

theorem vscF_0_2 (a : BitVec 2) (b : BitVec 2) (c : BitVec 2) (d : BitVec 3) (e : BitVec 2) :
    BitVec.extractLsb' (n := 11) 0 2 (a ++ b ++ c ++ d ++ e) = e :=
  slice_eq (by rw [vscF_nat]; have := (a).isLt; have := (b).isLt; have := (c).isLt; have := (d).isLt; have := (e).isLt; omega)

theorem sfuF_nat (a : BitVec 3) (v : Bool) (b : BitVec 4) (c : BitVec 3) :
    BitVec.toNat (w := 11) (a ++ bit v ++ b ++ c) =
      a.toNat * 2 ^ 8 + (bit v).toNat * 2 ^ 7 + b.toNat * 2 ^ 3 + c.toNat := by
  have h0 := cat_toNat (a) (bit v)
  have h1 := cat_toNat (a ++ bit v) (b)
  have h2 := cat_toNat (a ++ bit v ++ b) (c)
  refine h2.trans ?_
  omega

theorem sfuF_8_3 (a : BitVec 3) (v : Bool) (b : BitVec 4) (c : BitVec 3) :
    BitVec.extractLsb' (n := 11) 8 3 (a ++ bit v ++ b ++ c) = a :=
  slice_eq (by rw [sfuF_nat]; have := (a).isLt; have := (bit v).isLt; have := (b).isLt; have := (c).isLt; omega)

theorem sfuF_7_1 (a : BitVec 3) (v : Bool) (b : BitVec 4) (c : BitVec 3) :
    BitVec.extractLsb' (n := 11) 7 1 (a ++ bit v ++ b ++ c) = bit v :=
  slice_eq (by rw [sfuF_nat]; have := (a).isLt; have := (bit v).isLt; have := (b).isLt; have := (c).isLt; omega)

theorem sfuF_3_4 (a : BitVec 3) (v : Bool) (b : BitVec 4) (c : BitVec 3) :
    BitVec.extractLsb' (n := 11) 3 4 (a ++ bit v ++ b ++ c) = b :=
  slice_eq (by rw [sfuF_nat]; have := (a).isLt; have := (bit v).isLt; have := (b).isLt; have := (c).isLt; omega)

theorem sfuF_0_3 (a : BitVec 3) (v : Bool) (b : BitVec 4) (c : BitVec 3) :
    BitVec.extractLsb' (n := 11) 0 3 (a ++ bit v ++ b ++ c) = c :=
  slice_eq (by rw [sfuF_nat]; have := (a).isLt; have := (bit v).isLt; have := (b).isLt; have := (c).isLt; omega)

theorem sfuF_b7 (a : BitVec 3) (v : Bool) (b : BitVec 4) (c : BitVec 3) : BitVec.getLsbD (w := 11) (a ++ bit v ++ b ++ c) 7 = v :=
  bit_eq (sfuF_7_1 a v b c)

/-- Bits [15:3] of a word without rb and with a small function. -/
theorem rrf_z15 (op : BitVec 6) (rd ra : R5) (fn : BitVec 11) (h : fn.toNat < 8) :
    (rrf op rd ra 0 fn).extractLsb' 3 13 = 0 :=
  slice_eq (by
    rw [rrf_nat]
    have h0 : (0 : R5).toNat = 0 := rfl
    have h1 : (0 : BitVec 13).toNat = 0 := rfl
    have := op.isLt; have := rd.isLt; have := ra.isLt
    omega)

theorem rrf_z10 (op : BitVec 6) (rd : R5) (fn : BitVec 11) : (rrf op rd 0 0 fn).extractLsb' 11 10 = 0 :=
  slice_eq (by
    rw [rrf_nat]
    have h0 : (0 : R5).toNat = 0 := rfl
    have h1 : (0 : BitVec 10).toNat = 0 := rfl
    have := op.isLt; have := rd.isLt; have := fn.isLt
    omega)

theorem vfn_3_2 (a b : BitVec 4) (c : BitVec 3) :
    BitVec.extractLsb' (n := 11) 3 2 (a ++ b ++ c) = b.extractLsb' 0 2 :=
  slice_eq (by rw [vfn_nat, BitVec.extractLsb'_toNat, Nat.shiftRight_eq_div_pow]; have := c.isLt; omega)

theorem z32_lt (x : BitVec 2) : BitVec.toNat (w := 5) (0#3 ++ x) < 4 := by
  revert x; decide

end Sys2Proof
end

