-- ==== Sys2Proof/Laws/Sparse.lean ====
section
/-!
SUPPORT. Sparse storage: what a read gives after a write, and that writes keep the canonical form.
-/

namespace Sys2Proof.Machine

variable {α : Type}

@[simp] theorem mget_nil (d : α) (i : Nat) : mget d [] i = d := rfl

theorem mget_cons (d : α) (k : Nat) (v : α) (m : Map α) (i : Nat) :
    mget d ((k, v) :: m) i = if k = i then v else mget d m i := rfl

/-- A listed value is read back, and every other index reads as before. -/
theorem mget_mput (d : α) (m : Map α) (i : Nat) (v : α) (j : Nat) :
    mget d (mput m i v) j = if j = i then v else mget d m j := by
  induction m with
  | nil => simp [mput, mget, eq_comm]
  | cons e m ih =>
    obtain ⟨k, w⟩ := e
    have hs : (j = i) = (i = j) := propext eq_comm
    simp only [hs] at ih ⊢
    unfold mput
    split
    · rw [mget_cons]
    · split
      · next h => subst h; simp only [mget_cons]; split <;> rfl
      · next h =>
        simp only [mget_cons, ih]
        by_cases h1 : k = j
        · have : ¬i = j := fun h2 => h (h2.trans h1.symm)
          simp [h1, this]
        · simp [h1]

@[simp] theorem mget_mput_self (d : α) (m : Map α) (i : Nat) (v : α) : mget d (mput m i v) i = v := by
  simp [mget_mput]

theorem mget_mput_ne (d : α) (m : Map α) {i j : Nat} (v : α) (h : j ≠ i) : mget d (mput m i v) j = mget d m j := by
  simp [mget_mput, h]

/-- An index that is unlisted reads as the default. -/
theorem mget_mdel (d : α) (m : Map α) (i j : Nat) : mget d (mdel m i) j = if j = i then d else mget d m j := by
  induction m with
  | nil => simp [mdel, mget]
  | cons e m ih =>
    obtain ⟨k, w⟩ := e
    unfold mdel at ih ⊢
    by_cases h1 : k = i
    · rw [List.filter_cons_of_neg (by simp [h1]), ih, mget_cons]
      by_cases h2 : j = i
      · simp [h2]
      · have : ¬k = j := fun h => h2 (h.symm.trans h1)
        simp [h2, this]
    · rw [List.filter_cons_of_pos (by simp [h1]), mget_cons, mget_cons, ih]
      by_cases h2 : k = j
      · have : ¬j = i := fun h => h1 (h2.trans h)
        simp [h2, this]
      · simp [h2]

/-- Read after write. -/
theorem mget_mset [DecidableEq α] (d : α) (m : Map α) (i : Nat) (v : α) (j : Nat) :
    mget d (mset d m i v) j = if j = i then v else mget d m j := by
  unfold mset
  split
  · next h => rw [mget_mdel, h]
  · exact mget_mput d m i v j

@[simp] theorem mget_mset_self [DecidableEq α] (d : α) (m : Map α) (i : Nat) (v : α) : mget d (mset d m i v) i = v := by
  simp [mget_mset]

theorem mget_mset_ne [DecidableEq α] (d : α) (m : Map α) {i j : Nat} (v : α) (h : j ≠ i) :
    mget d (mset d m i v) j = mget d m j := by
  simp [mget_mset, h]

/-- Reading after a list was written. -/
theorem mget_msets [DecidableEq α] (d : α) (vs : List α) : ∀ (m : Map α) (i j : Nat),
    mget d (msets d m i vs) j = if i ≤ j then (vs[j - i]?).getD (mget d m j) else mget d m j := by
  induction vs with
  | nil => intro m i j; simp [msets]
  | cons v vs ih =>
    intro m i j
    rw [msets, ih, mget_mset]
    by_cases h0 : j = i
    · subst h0
      have : ¬j + 1 ≤ j := by omega
      simp [this]
    · by_cases h1 : i + 1 ≤ j
      · have h2 : i ≤ j := by omega
        have h3 : j - i = (j - (i + 1)) + 1 := by omega
        simp [h0, h1, h2, h3]
      · have h2 : ¬i ≤ j := by omega
        simp [h0, h1, h2]

/-- A longer start bound is a weaker form. -/
theorem mwfFrom_mono [DecidableEq α] (d : α) (m : Map α) {lo lo' : Nat} (h : lo' ≤ lo) (hw : mwfFrom d lo m = true) :
    mwfFrom d lo' m = true := by
  cases m with
  | nil => rfl
  | cons e m =>
    obtain ⟨k, v⟩ := e
    simp only [mwfFrom, Bool.and_eq_true, decide_eq_true_eq] at hw ⊢
    exact ⟨⟨by omega, hw.1.2⟩, hw.2⟩

theorem mwfFrom_mput [DecidableEq α] (d : α) {i : Nat} {v : α} (hv : v ≠ d) (m : Map α) :
    ∀ {lo : Nat}, lo ≤ i → mwfFrom d lo m = true → mwfFrom d lo (mput m i v) = true := by
  induction m with
  | nil => intro lo hl _; simp [mput, mwfFrom, hl, hv]
  | cons e m ih =>
    intro lo hl hw
    obtain ⟨k, w⟩ := e
    simp only [mwfFrom, Bool.and_eq_true, decide_eq_true_eq] at hw
    obtain ⟨⟨h1, h2⟩, h3⟩ := hw
    simp only [mput]
    split
    · next h => simp only [mwfFrom, Bool.and_eq_true, decide_eq_true_eq]; exact ⟨⟨hl, hv⟩, ⟨by omega, h2⟩, h3⟩
    · split
      · next h => subst h; simp only [mwfFrom, Bool.and_eq_true, decide_eq_true_eq]; exact ⟨⟨hl, hv⟩, h3⟩
      · next h h' =>
        simp only [mwfFrom, Bool.and_eq_true, decide_eq_true_eq]
        exact ⟨⟨h1, h2⟩, ih (by omega) h3⟩

theorem mwfFrom_mdel [DecidableEq α] (d : α) (i : Nat) (m : Map α) :
    ∀ {lo : Nat}, mwfFrom d lo m = true → mwfFrom d lo (mdel m i) = true := by
  induction m with
  | nil => intro lo _; rfl
  | cons e m ih =>
    intro lo hw
    obtain ⟨k, w⟩ := e
    simp only [mwfFrom, Bool.and_eq_true, decide_eq_true_eq] at hw
    obtain ⟨⟨h1, h2⟩, h3⟩ := hw
    have h4 := ih h3
    unfold mdel at h4 ⊢
    by_cases h : k = i
    · simp only [List.filter_cons, h, ne_eq, not_true_eq_false, decide_false, Bool.false_eq_true, if_false]
      subst h
      exact mwfFrom_mono d _ (by omega) h4
    · simp only [List.filter_cons, h, ne_eq, not_false_eq_true, decide_true, if_true, mwfFrom, Bool.and_eq_true,
        decide_eq_true_eq]
      exact ⟨⟨h1, h2⟩, h4⟩

/-- A write keeps the canonical form. -/
theorem mwf_mset [DecidableEq α] (d : α) {m : Map α} (i : Nat) (v : α) (h : mwf d m = true) :
    mwf d (mset d m i v) = true := by
  unfold mset mwf at *
  split
  · exact mwfFrom_mdel d i m h
  · next hv => exact mwfFrom_mput d hv m (Nat.zero_le _) h

/-- Writing a list keeps the canonical form. -/
theorem mwf_msets [DecidableEq α] (d : α) (vs : List α) : ∀ {m : Map α} (i : Nat), mwf d m = true →
    mwf d (msets d m i vs) = true := by
  induction vs with
  | nil => intro m i h; exact h
  | cons v vs ih => intro m i h; exact ih (i + 1) (mwf_mset d i v h)

-- Numbers as bytes.

@[simp] theorem leBytes_length (n x : Nat) : (leBytes n x).length = n := by
  induction n generalizing x with
  | zero => rfl
  | succ n ih => simp [leBytes, ih]

end Sys2Proof.Machine
end

