-- ==== Sys2Proof/Laws/State.lean ====
section
/-!
SUPPORT. What each update of the state leaves as it was: one lemma per field and update, so that no proof unfolds a record.
-/

namespace Sys2Proof.Machine

variable (s : State) (i t : Nat) (x : Issuer)

-- modWg
@[simp] theorem State.modWg_agenda (f : Workgroup → Workgroup) : (s.modWg i f).agenda = s.agenda := rfl
@[simp] theorem State.modWg_cur (f : Workgroup → Workgroup) : (s.modWg i f).cur = s.cur := rfl
@[simp] theorem State.modWg_stalled (f : Workgroup → Workgroup) : (s.modWg i f).stalled = s.stalled := rfl
@[simp] theorem State.modWg_curFlag (f : Workgroup → Workgroup) : (s.modWg i f).curFlag = s.curFlag := rfl
@[simp] theorem State.modWg_free (f : Workgroup → Workgroup) : (s.modWg i f).free = s.free := rfl
@[simp] theorem State.modWg_nextId (f : Workgroup → Workgroup) : (s.modWg i f).nextId = s.nextId := rfl
@[simp] theorem State.modWg_clock (f : Workgroup → Workgroup) : (s.modWg i f).clock = s.clock := rfl
@[simp] theorem State.modWg_rateKHz (f : Workgroup → Workgroup) : (s.modWg i f).rateKHz = s.rateKHz := rfl
@[simp] theorem State.modWg_mem (f : Workgroup → Workgroup) : (s.modWg i f).mem = s.mem := rfl
@[simp] theorem State.modWg_memSyn (f : Workgroup → Workgroup) : (s.modWg i f).memSyn = s.memSyn := rfl
@[simp] theorem State.modWg_memEcc (f : Workgroup → Workgroup) : (s.modWg i f).memEcc = s.memEcc := rfl
@[simp] theorem State.modWg_outside (f : Workgroup → Workgroup) : (s.modWg i f).outside = s.outside := rfl
@[simp] theorem State.modWg_peerBad (f : Workgroup → Workgroup) : (s.modWg i f).peerBad = s.peerBad := rfl
@[simp] theorem State.modWg_pages (f : Workgroup → Workgroup) : (s.modWg i f).pages = s.pages := rfl
@[simp] theorem State.modWg_eccCount (f : Workgroup → Workgroup) : (s.modWg i f).eccCount = s.eccCount := rfl
@[simp] theorem State.modWg_clusters (f : Workgroup → Workgroup) : (s.modWg i f).clusters = s.clusters := rfl
@[simp] theorem State.modWg_launches (f : Workgroup → Workgroup) : (s.modWg i f).launches = s.launches := rfl
@[simp] theorem State.modWg_saved (f : Workgroup → Workgroup) : (s.modWg i f).saved = s.saved := rfl
@[simp] theorem State.modWg_incoming (f : Workgroup → Workgroup) : (s.modWg i f).incoming = s.incoming := rfl
@[simp] theorem State.modWg_lastDie (f : Workgroup → Workgroup) : (s.modWg i f).lastDie = s.lastDie := rfl
@[simp] theorem State.modWg_rrQueue (f : Workgroup → Workgroup) : (s.modWg i f).rrQueue = s.rrQueue := rfl
@[simp] theorem State.modWg_rrPipe (f : Workgroup → Workgroup) : (s.modWg i f).rrPipe = s.rrPipe := rfl
@[simp] theorem State.modWg_epochAt (f : Workgroup → Workgroup) : (s.modWg i f).epochAt = s.epochAt := rfl
@[simp] theorem State.modWg_remote (f : Workgroup → Workgroup) : (s.modWg i f).remote = s.remote := rfl
@[simp] theorem State.modWg_flights (f : Workgroup → Workgroup) : (s.modWg i f).flights = s.flights := rfl
@[simp] theorem State.modWg_packets (f : Workgroup → Workgroup) : (s.modWg i f).packets = s.packets := rfl
@[simp] theorem State.modWg_cmds (f : Workgroup → Workgroup) : (s.modWg i f).cmds = s.cmds := rfl
@[simp] theorem State.modWg_collSeq (f : Workgroup → Workgroup) : (s.modWg i f).collSeq = s.collSeq := rfl
@[simp] theorem State.modWg_collGone (f : Workgroup → Workgroup) : (s.modWg i f).collGone = s.collGone := rfl
@[simp] theorem State.modWg_rrEng (f : Workgroup → Workgroup) : (s.modWg i f).rrEng = s.rrEng := rfl
@[simp] theorem State.modWg_ioTlb (f : Workgroup → Workgroup) : (s.modWg i f).ioTlb = s.ioTlb := rfl
@[simp] theorem State.modWg_linkReqs (f : Workgroup → Workgroup) : (s.modWg i f).linkReqs = s.linkReqs := rfl
@[simp] theorem State.modWg_sems (f : Workgroup → Workgroup) : (s.modWg i f).sems = s.sems := rfl
@[simp] theorem State.modWg_deps (f : Workgroup → Workgroup) : (s.modWg i f).deps = s.deps := rfl
@[simp] theorem State.modWg_ctxs (f : Workgroup → Workgroup) : (s.modWg i f).ctxs = s.ctxs := rfl
@[simp] theorem State.modWg_wdtask (f : Workgroup → Workgroup) : (s.modWg i f).wdtask = s.wdtask := rfl
@[simp] theorem State.modWg_wdwait (f : Workgroup → Workgroup) : (s.modWg i f).wdwait = s.wdwait := rfl
@[simp] theorem State.modWg_ageq (f : Workgroup → Workgroup) : (s.modWg i f).ageq = s.ageq := rfl
@[simp] theorem State.modWg_gather (f : Workgroup → Workgroup) : (s.modWg i f).gather = s.gather := rfl
@[simp] theorem State.modWg_joinspin (f : Workgroup → Workgroup) : (s.modWg i f).joinspin = s.joinspin := rfl
@[simp] theorem State.modWg_fqbase (f : Workgroup → Workgroup) : (s.modWg i f).fqbase = s.fqbase := rfl
@[simp] theorem State.modWg_fqEn (f : Workgroup → Workgroup) : (s.modWg i f).fqEn = s.fqEn := rfl
@[simp] theorem State.modWg_fqLog2n (f : Workgroup → Workgroup) : (s.modWg i f).fqLog2n = s.fqLog2n := rfl
@[simp] theorem State.modWg_fqSem (f : Workgroup → Workgroup) : (s.modWg i f).fqSem = s.fqSem := rfl
@[simp] theorem State.modWg_fqTail (f : Workgroup → Workgroup) : (s.modWg i f).fqTail = s.fqTail := rfl
@[simp] theorem State.modWg_fqHead (f : Workgroup → Workgroup) : (s.modWg i f).fqHead = s.fqHead := rfl
@[simp] theorem State.modWg_eqbase (f : Workgroup → Workgroup) : (s.modWg i f).eqbase = s.eqbase := rfl
@[simp] theorem State.modWg_eqEn (f : Workgroup → Workgroup) : (s.modWg i f).eqEn = s.eqEn := rfl
@[simp] theorem State.modWg_eqLog2n (f : Workgroup → Workgroup) : (s.modWg i f).eqLog2n = s.eqLog2n := rfl
@[simp] theorem State.modWg_eqDrop (f : Workgroup → Workgroup) : (s.modWg i f).eqDrop = s.eqDrop := rfl
@[simp] theorem State.modWg_eqTail (f : Workgroup → Workgroup) : (s.modWg i f).eqTail = s.eqTail := rfl
@[simp] theorem State.modWg_eqHead (f : Workgroup → Workgroup) : (s.modWg i f).eqHead = s.eqHead := rfl
@[simp] theorem State.modWg_trIdx (f : Workgroup → Workgroup) : (s.modWg i f).trIdx = s.trIdx := rfl
@[simp] theorem State.modWg_trX (f : Workgroup → Workgroup) : (s.modWg i f).trX = s.trX := rfl
@[simp] theorem State.modWg_trY (f : Workgroup → Workgroup) : (s.modWg i f).trY = s.trY := rfl
@[simp] theorem State.modWg_semidx (f : Workgroup → Workgroup) : (s.modWg i f).semidx = s.semidx := rfl
@[simp] theorem State.modWg_depidx (f : Workgroup → Workgroup) : (s.modWg i f).depidx = s.depidx := rfl
@[simp] theorem State.modWg_lqsel (f : Workgroup → Workgroup) : (s.modWg i f).lqsel = s.lqsel := rfl
@[simp] theorem State.modWg_queues (f : Workgroup → Workgroup) : (s.modWg i f).queues = s.queues := rfl
@[simp] theorem State.modWg_faults (f : Workgroup → Workgroup) : (s.modWg i f).faults = s.faults := rfl
@[simp] theorem State.modWg_nextTicket (f : Workgroup → Workgroup) : (s.modWg i f).nextTicket = s.nextTicket := rfl
@[simp] theorem State.modWg_objects (f : Workgroup → Workgroup) : (s.modWg i f).objects = s.objects := rfl
@[simp] theorem State.modWg_keys (f : Workgroup → Workgroup) : (s.modWg i f).keys = s.keys := rfl
@[simp] theorem State.modWg_fw (f : Workgroup → Workgroup) : (s.modWg i f).fw = s.fw := rfl
@[simp] theorem State.modWg_host (f : Workgroup → Workgroup) : (s.modWg i f).host = s.host := rfl
@[simp] theorem State.modWg_aperture (f : Workgroup → Workgroup) : (s.modWg i f).aperture = s.aperture := rfl
@[simp] theorem State.modWg_devNum (f : Workgroup → Workgroup) : (s.modWg i f).devNum = s.devNum := rfl
@[simp] theorem State.modWg_domSize (f : Workgroup → Workgroup) : (s.modWg i f).domSize = s.domSize := rfl
@[simp] theorem State.modWg_bindings (f : Workgroup → Workgroup) : (s.modWg i f).bindings = s.bindings := rfl
@[simp] theorem State.modWg_pwrcap (f : Workgroup → Workgroup) : (s.modWg i f).pwrcap = s.pwrcap := rfl
@[simp] theorem State.modWg_sqTable (f : Workgroup → Workgroup) : (s.modWg i f).sqTable = s.sqTable := rfl
@[simp] theorem State.modWg_sqRun (f : Workgroup → Workgroup) : (s.modWg i f).sqRun = s.sqRun := rfl
@[simp] theorem State.modWg_sqGen (f : Workgroup → Workgroup) : (s.modWg i f).sqGen = s.sqGen := rfl
@[simp] theorem State.modWg_hostReply (f : Workgroup → Workgroup) : (s.modWg i f).hostReply = s.hostReply := rfl
@[simp] theorem State.modWg_reports (f : Workgroup → Workgroup) : (s.modWg i f).reports = s.reports := rfl
@[simp] theorem State.modWg_links (f : Workgroup → Workgroup) : (s.modWg i f).links = s.links := rfl
@[simp] theorem State.modWg_linkDownAt (f : Workgroup → Workgroup) : (s.modWg i f).linkDownAt = s.linkDownAt := rfl
@[simp] theorem State.modWg_stopped (f : Workgroup → Workgroup) : (s.modWg i f).stopped = s.stopped := rfl
@[simp] theorem State.modWg_unbooted (f : Workgroup → Workgroup) : (s.modWg i f).unbooted = s.unbooted := rfl

-- modThr
@[simp] theorem State.modThr_agenda (f : Thread → Thread) : (s.modThr i t f).agenda = s.agenda := rfl
@[simp] theorem State.modThr_cur (f : Thread → Thread) : (s.modThr i t f).cur = s.cur := rfl
@[simp] theorem State.modThr_stalled (f : Thread → Thread) : (s.modThr i t f).stalled = s.stalled := rfl
@[simp] theorem State.modThr_curFlag (f : Thread → Thread) : (s.modThr i t f).curFlag = s.curFlag := rfl
@[simp] theorem State.modThr_free (f : Thread → Thread) : (s.modThr i t f).free = s.free := rfl
@[simp] theorem State.modThr_nextId (f : Thread → Thread) : (s.modThr i t f).nextId = s.nextId := rfl
@[simp] theorem State.modThr_clock (f : Thread → Thread) : (s.modThr i t f).clock = s.clock := rfl
@[simp] theorem State.modThr_rateKHz (f : Thread → Thread) : (s.modThr i t f).rateKHz = s.rateKHz := rfl
@[simp] theorem State.modThr_mem (f : Thread → Thread) : (s.modThr i t f).mem = s.mem := rfl
@[simp] theorem State.modThr_memSyn (f : Thread → Thread) : (s.modThr i t f).memSyn = s.memSyn := rfl
@[simp] theorem State.modThr_memEcc (f : Thread → Thread) : (s.modThr i t f).memEcc = s.memEcc := rfl
@[simp] theorem State.modThr_outside (f : Thread → Thread) : (s.modThr i t f).outside = s.outside := rfl
@[simp] theorem State.modThr_peerBad (f : Thread → Thread) : (s.modThr i t f).peerBad = s.peerBad := rfl
@[simp] theorem State.modThr_pages (f : Thread → Thread) : (s.modThr i t f).pages = s.pages := rfl
@[simp] theorem State.modThr_eccCount (f : Thread → Thread) : (s.modThr i t f).eccCount = s.eccCount := rfl
@[simp] theorem State.modThr_clusters (f : Thread → Thread) : (s.modThr i t f).clusters = s.clusters := rfl
@[simp] theorem State.modThr_launches (f : Thread → Thread) : (s.modThr i t f).launches = s.launches := rfl
@[simp] theorem State.modThr_saved (f : Thread → Thread) : (s.modThr i t f).saved = s.saved := rfl
@[simp] theorem State.modThr_incoming (f : Thread → Thread) : (s.modThr i t f).incoming = s.incoming := rfl
@[simp] theorem State.modThr_lastDie (f : Thread → Thread) : (s.modThr i t f).lastDie = s.lastDie := rfl
@[simp] theorem State.modThr_rrQueue (f : Thread → Thread) : (s.modThr i t f).rrQueue = s.rrQueue := rfl
@[simp] theorem State.modThr_rrPipe (f : Thread → Thread) : (s.modThr i t f).rrPipe = s.rrPipe := rfl
@[simp] theorem State.modThr_epochAt (f : Thread → Thread) : (s.modThr i t f).epochAt = s.epochAt := rfl
@[simp] theorem State.modThr_remote (f : Thread → Thread) : (s.modThr i t f).remote = s.remote := rfl
@[simp] theorem State.modThr_flights (f : Thread → Thread) : (s.modThr i t f).flights = s.flights := rfl
@[simp] theorem State.modThr_packets (f : Thread → Thread) : (s.modThr i t f).packets = s.packets := rfl
@[simp] theorem State.modThr_cmds (f : Thread → Thread) : (s.modThr i t f).cmds = s.cmds := rfl
@[simp] theorem State.modThr_collSeq (f : Thread → Thread) : (s.modThr i t f).collSeq = s.collSeq := rfl
@[simp] theorem State.modThr_collGone (f : Thread → Thread) : (s.modThr i t f).collGone = s.collGone := rfl
@[simp] theorem State.modThr_rrEng (f : Thread → Thread) : (s.modThr i t f).rrEng = s.rrEng := rfl
@[simp] theorem State.modThr_ioTlb (f : Thread → Thread) : (s.modThr i t f).ioTlb = s.ioTlb := rfl
@[simp] theorem State.modThr_linkReqs (f : Thread → Thread) : (s.modThr i t f).linkReqs = s.linkReqs := rfl
@[simp] theorem State.modThr_sems (f : Thread → Thread) : (s.modThr i t f).sems = s.sems := rfl
@[simp] theorem State.modThr_deps (f : Thread → Thread) : (s.modThr i t f).deps = s.deps := rfl
@[simp] theorem State.modThr_ctxs (f : Thread → Thread) : (s.modThr i t f).ctxs = s.ctxs := rfl
@[simp] theorem State.modThr_wdtask (f : Thread → Thread) : (s.modThr i t f).wdtask = s.wdtask := rfl
@[simp] theorem State.modThr_wdwait (f : Thread → Thread) : (s.modThr i t f).wdwait = s.wdwait := rfl
@[simp] theorem State.modThr_ageq (f : Thread → Thread) : (s.modThr i t f).ageq = s.ageq := rfl
@[simp] theorem State.modThr_gather (f : Thread → Thread) : (s.modThr i t f).gather = s.gather := rfl
@[simp] theorem State.modThr_joinspin (f : Thread → Thread) : (s.modThr i t f).joinspin = s.joinspin := rfl
@[simp] theorem State.modThr_fqbase (f : Thread → Thread) : (s.modThr i t f).fqbase = s.fqbase := rfl
@[simp] theorem State.modThr_fqEn (f : Thread → Thread) : (s.modThr i t f).fqEn = s.fqEn := rfl
@[simp] theorem State.modThr_fqLog2n (f : Thread → Thread) : (s.modThr i t f).fqLog2n = s.fqLog2n := rfl
@[simp] theorem State.modThr_fqSem (f : Thread → Thread) : (s.modThr i t f).fqSem = s.fqSem := rfl
@[simp] theorem State.modThr_fqTail (f : Thread → Thread) : (s.modThr i t f).fqTail = s.fqTail := rfl
@[simp] theorem State.modThr_fqHead (f : Thread → Thread) : (s.modThr i t f).fqHead = s.fqHead := rfl
@[simp] theorem State.modThr_eqbase (f : Thread → Thread) : (s.modThr i t f).eqbase = s.eqbase := rfl
@[simp] theorem State.modThr_eqEn (f : Thread → Thread) : (s.modThr i t f).eqEn = s.eqEn := rfl
@[simp] theorem State.modThr_eqLog2n (f : Thread → Thread) : (s.modThr i t f).eqLog2n = s.eqLog2n := rfl
@[simp] theorem State.modThr_eqDrop (f : Thread → Thread) : (s.modThr i t f).eqDrop = s.eqDrop := rfl
@[simp] theorem State.modThr_eqTail (f : Thread → Thread) : (s.modThr i t f).eqTail = s.eqTail := rfl
@[simp] theorem State.modThr_eqHead (f : Thread → Thread) : (s.modThr i t f).eqHead = s.eqHead := rfl
@[simp] theorem State.modThr_trIdx (f : Thread → Thread) : (s.modThr i t f).trIdx = s.trIdx := rfl
@[simp] theorem State.modThr_trX (f : Thread → Thread) : (s.modThr i t f).trX = s.trX := rfl
@[simp] theorem State.modThr_trY (f : Thread → Thread) : (s.modThr i t f).trY = s.trY := rfl
@[simp] theorem State.modThr_semidx (f : Thread → Thread) : (s.modThr i t f).semidx = s.semidx := rfl
@[simp] theorem State.modThr_depidx (f : Thread → Thread) : (s.modThr i t f).depidx = s.depidx := rfl
@[simp] theorem State.modThr_lqsel (f : Thread → Thread) : (s.modThr i t f).lqsel = s.lqsel := rfl
@[simp] theorem State.modThr_queues (f : Thread → Thread) : (s.modThr i t f).queues = s.queues := rfl
@[simp] theorem State.modThr_faults (f : Thread → Thread) : (s.modThr i t f).faults = s.faults := rfl
@[simp] theorem State.modThr_nextTicket (f : Thread → Thread) : (s.modThr i t f).nextTicket = s.nextTicket := rfl
@[simp] theorem State.modThr_objects (f : Thread → Thread) : (s.modThr i t f).objects = s.objects := rfl
@[simp] theorem State.modThr_keys (f : Thread → Thread) : (s.modThr i t f).keys = s.keys := rfl
@[simp] theorem State.modThr_fw (f : Thread → Thread) : (s.modThr i t f).fw = s.fw := rfl
@[simp] theorem State.modThr_host (f : Thread → Thread) : (s.modThr i t f).host = s.host := rfl
@[simp] theorem State.modThr_aperture (f : Thread → Thread) : (s.modThr i t f).aperture = s.aperture := rfl
@[simp] theorem State.modThr_devNum (f : Thread → Thread) : (s.modThr i t f).devNum = s.devNum := rfl
@[simp] theorem State.modThr_domSize (f : Thread → Thread) : (s.modThr i t f).domSize = s.domSize := rfl
@[simp] theorem State.modThr_bindings (f : Thread → Thread) : (s.modThr i t f).bindings = s.bindings := rfl
@[simp] theorem State.modThr_pwrcap (f : Thread → Thread) : (s.modThr i t f).pwrcap = s.pwrcap := rfl
@[simp] theorem State.modThr_sqTable (f : Thread → Thread) : (s.modThr i t f).sqTable = s.sqTable := rfl
@[simp] theorem State.modThr_sqRun (f : Thread → Thread) : (s.modThr i t f).sqRun = s.sqRun := rfl
@[simp] theorem State.modThr_sqGen (f : Thread → Thread) : (s.modThr i t f).sqGen = s.sqGen := rfl
@[simp] theorem State.modThr_hostReply (f : Thread → Thread) : (s.modThr i t f).hostReply = s.hostReply := rfl
@[simp] theorem State.modThr_reports (f : Thread → Thread) : (s.modThr i t f).reports = s.reports := rfl
@[simp] theorem State.modThr_links (f : Thread → Thread) : (s.modThr i t f).links = s.links := rfl
@[simp] theorem State.modThr_linkDownAt (f : Thread → Thread) : (s.modThr i t f).linkDownAt = s.linkDownAt := rfl
@[simp] theorem State.modThr_stopped (f : Thread → Thread) : (s.modThr i t f).stopped = s.stopped := rfl
@[simp] theorem State.modThr_unbooted (f : Thread → Thread) : (s.modThr i t f).unbooted = s.unbooted := rfl

-- modUnit
@[simp] theorem State.modUnit_agenda (f : UState → UState) : (s.modUnit i t f).agenda = s.agenda := rfl
@[simp] theorem State.modUnit_cur (f : UState → UState) : (s.modUnit i t f).cur = s.cur := rfl
@[simp] theorem State.modUnit_stalled (f : UState → UState) : (s.modUnit i t f).stalled = s.stalled := rfl
@[simp] theorem State.modUnit_curFlag (f : UState → UState) : (s.modUnit i t f).curFlag = s.curFlag := rfl
@[simp] theorem State.modUnit_free (f : UState → UState) : (s.modUnit i t f).free = s.free := rfl
@[simp] theorem State.modUnit_nextId (f : UState → UState) : (s.modUnit i t f).nextId = s.nextId := rfl
@[simp] theorem State.modUnit_clock (f : UState → UState) : (s.modUnit i t f).clock = s.clock := rfl
@[simp] theorem State.modUnit_mem (f : UState → UState) : (s.modUnit i t f).mem = s.mem := rfl
@[simp] theorem State.modUnit_memSyn (f : UState → UState) : (s.modUnit i t f).memSyn = s.memSyn := rfl
@[simp] theorem State.modUnit_memEcc (f : UState → UState) : (s.modUnit i t f).memEcc = s.memEcc := rfl
@[simp] theorem State.modUnit_outside (f : UState → UState) : (s.modUnit i t f).outside = s.outside := rfl
@[simp] theorem State.modUnit_clusters (f : UState → UState) : (s.modUnit i t f).clusters = s.clusters := rfl
@[simp] theorem State.modUnit_launches (f : UState → UState) : (s.modUnit i t f).launches = s.launches := rfl
@[simp] theorem State.modUnit_saved (f : UState → UState) : (s.modUnit i t f).saved = s.saved := rfl
@[simp] theorem State.modUnit_incoming (f : UState → UState) : (s.modUnit i t f).incoming = s.incoming := rfl
@[simp] theorem State.modUnit_remote (f : UState → UState) : (s.modUnit i t f).remote = s.remote := rfl
@[simp] theorem State.modUnit_flights (f : UState → UState) : (s.modUnit i t f).flights = s.flights := rfl
@[simp] theorem State.modUnit_packets (f : UState → UState) : (s.modUnit i t f).packets = s.packets := rfl
@[simp] theorem State.modUnit_cmds (f : UState → UState) : (s.modUnit i t f).cmds = s.cmds := rfl
@[simp] theorem State.modUnit_linkReqs (f : UState → UState) : (s.modUnit i t f).linkReqs = s.linkReqs := rfl
@[simp] theorem State.modUnit_sems (f : UState → UState) : (s.modUnit i t f).sems = s.sems := rfl
@[simp] theorem State.modUnit_deps (f : UState → UState) : (s.modUnit i t f).deps = s.deps := rfl
@[simp] theorem State.modUnit_ctxs (f : UState → UState) : (s.modUnit i t f).ctxs = s.ctxs := rfl
@[simp] theorem State.modUnit_queues (f : UState → UState) : (s.modUnit i t f).queues = s.queues := rfl
@[simp] theorem State.modUnit_faults (f : UState → UState) : (s.modUnit i t f).faults = s.faults := rfl
@[simp] theorem State.modUnit_objects (f : UState → UState) : (s.modUnit i t f).objects = s.objects := rfl
@[simp] theorem State.modUnit_host (f : UState → UState) : (s.modUnit i t f).host = s.host := rfl
@[simp] theorem State.modUnit_sqTable (f : UState → UState) : (s.modUnit i t f).sqTable = s.sqTable := rfl
@[simp] theorem State.modUnit_sqRun (f : UState → UState) : (s.modUnit i t f).sqRun = s.sqRun := rfl
@[simp] theorem State.modUnit_links (f : UState → UState) : (s.modUnit i t f).links = s.links := rfl

-- modU
@[simp] theorem State.modU_agenda (f : UState → UState) : (s.modU x f).agenda = s.agenda := rfl
@[simp] theorem State.modU_cur (f : UState → UState) : (s.modU x f).cur = s.cur := rfl
@[simp] theorem State.modU_stalled (f : UState → UState) : (s.modU x f).stalled = s.stalled := rfl
@[simp] theorem State.modU_curFlag (f : UState → UState) : (s.modU x f).curFlag = s.curFlag := rfl
@[simp] theorem State.modU_free (f : UState → UState) : (s.modU x f).free = s.free := rfl
@[simp] theorem State.modU_nextId (f : UState → UState) : (s.modU x f).nextId = s.nextId := rfl
@[simp] theorem State.modU_clock (f : UState → UState) : (s.modU x f).clock = s.clock := rfl
@[simp] theorem State.modU_rateKHz (f : UState → UState) : (s.modU x f).rateKHz = s.rateKHz := rfl
@[simp] theorem State.modU_mem (f : UState → UState) : (s.modU x f).mem = s.mem := rfl
@[simp] theorem State.modU_memSyn (f : UState → UState) : (s.modU x f).memSyn = s.memSyn := rfl
@[simp] theorem State.modU_memEcc (f : UState → UState) : (s.modU x f).memEcc = s.memEcc := rfl
@[simp] theorem State.modU_outside (f : UState → UState) : (s.modU x f).outside = s.outside := rfl
@[simp] theorem State.modU_peerBad (f : UState → UState) : (s.modU x f).peerBad = s.peerBad := rfl
@[simp] theorem State.modU_pages (f : UState → UState) : (s.modU x f).pages = s.pages := rfl
@[simp] theorem State.modU_eccCount (f : UState → UState) : (s.modU x f).eccCount = s.eccCount := rfl
@[simp] theorem State.modU_clusters (f : UState → UState) : (s.modU x f).clusters = s.clusters := rfl
@[simp] theorem State.modU_launches (f : UState → UState) : (s.modU x f).launches = s.launches := rfl
@[simp] theorem State.modU_saved (f : UState → UState) : (s.modU x f).saved = s.saved := rfl
@[simp] theorem State.modU_incoming (f : UState → UState) : (s.modU x f).incoming = s.incoming := rfl
@[simp] theorem State.modU_lastDie (f : UState → UState) : (s.modU x f).lastDie = s.lastDie := rfl
@[simp] theorem State.modU_rrQueue (f : UState → UState) : (s.modU x f).rrQueue = s.rrQueue := rfl
@[simp] theorem State.modU_rrPipe (f : UState → UState) : (s.modU x f).rrPipe = s.rrPipe := rfl
@[simp] theorem State.modU_epochAt (f : UState → UState) : (s.modU x f).epochAt = s.epochAt := rfl
@[simp] theorem State.modU_remote (f : UState → UState) : (s.modU x f).remote = s.remote := rfl
@[simp] theorem State.modU_flights (f : UState → UState) : (s.modU x f).flights = s.flights := rfl
@[simp] theorem State.modU_packets (f : UState → UState) : (s.modU x f).packets = s.packets := rfl
@[simp] theorem State.modU_cmds (f : UState → UState) : (s.modU x f).cmds = s.cmds := rfl
@[simp] theorem State.modU_collSeq (f : UState → UState) : (s.modU x f).collSeq = s.collSeq := rfl
@[simp] theorem State.modU_collGone (f : UState → UState) : (s.modU x f).collGone = s.collGone := rfl
@[simp] theorem State.modU_rrEng (f : UState → UState) : (s.modU x f).rrEng = s.rrEng := rfl
@[simp] theorem State.modU_ioTlb (f : UState → UState) : (s.modU x f).ioTlb = s.ioTlb := rfl
@[simp] theorem State.modU_linkReqs (f : UState → UState) : (s.modU x f).linkReqs = s.linkReqs := rfl
@[simp] theorem State.modU_sems (f : UState → UState) : (s.modU x f).sems = s.sems := rfl
@[simp] theorem State.modU_deps (f : UState → UState) : (s.modU x f).deps = s.deps := rfl
@[simp] theorem State.modU_ctxs (f : UState → UState) : (s.modU x f).ctxs = s.ctxs := rfl
@[simp] theorem State.modU_wdtask (f : UState → UState) : (s.modU x f).wdtask = s.wdtask := rfl
@[simp] theorem State.modU_wdwait (f : UState → UState) : (s.modU x f).wdwait = s.wdwait := rfl
@[simp] theorem State.modU_ageq (f : UState → UState) : (s.modU x f).ageq = s.ageq := rfl
@[simp] theorem State.modU_gather (f : UState → UState) : (s.modU x f).gather = s.gather := rfl
@[simp] theorem State.modU_joinspin (f : UState → UState) : (s.modU x f).joinspin = s.joinspin := rfl
@[simp] theorem State.modU_fqbase (f : UState → UState) : (s.modU x f).fqbase = s.fqbase := rfl
@[simp] theorem State.modU_fqEn (f : UState → UState) : (s.modU x f).fqEn = s.fqEn := rfl
@[simp] theorem State.modU_fqLog2n (f : UState → UState) : (s.modU x f).fqLog2n = s.fqLog2n := rfl
@[simp] theorem State.modU_fqSem (f : UState → UState) : (s.modU x f).fqSem = s.fqSem := rfl
@[simp] theorem State.modU_fqTail (f : UState → UState) : (s.modU x f).fqTail = s.fqTail := rfl
@[simp] theorem State.modU_fqHead (f : UState → UState) : (s.modU x f).fqHead = s.fqHead := rfl
@[simp] theorem State.modU_eqbase (f : UState → UState) : (s.modU x f).eqbase = s.eqbase := rfl
@[simp] theorem State.modU_eqEn (f : UState → UState) : (s.modU x f).eqEn = s.eqEn := rfl
@[simp] theorem State.modU_eqLog2n (f : UState → UState) : (s.modU x f).eqLog2n = s.eqLog2n := rfl
@[simp] theorem State.modU_eqDrop (f : UState → UState) : (s.modU x f).eqDrop = s.eqDrop := rfl
@[simp] theorem State.modU_eqTail (f : UState → UState) : (s.modU x f).eqTail = s.eqTail := rfl
@[simp] theorem State.modU_eqHead (f : UState → UState) : (s.modU x f).eqHead = s.eqHead := rfl
@[simp] theorem State.modU_trIdx (f : UState → UState) : (s.modU x f).trIdx = s.trIdx := rfl
@[simp] theorem State.modU_trX (f : UState → UState) : (s.modU x f).trX = s.trX := rfl
@[simp] theorem State.modU_trY (f : UState → UState) : (s.modU x f).trY = s.trY := rfl
@[simp] theorem State.modU_semidx (f : UState → UState) : (s.modU x f).semidx = s.semidx := rfl
@[simp] theorem State.modU_depidx (f : UState → UState) : (s.modU x f).depidx = s.depidx := rfl
@[simp] theorem State.modU_lqsel (f : UState → UState) : (s.modU x f).lqsel = s.lqsel := rfl
@[simp] theorem State.modU_queues (f : UState → UState) : (s.modU x f).queues = s.queues := rfl
@[simp] theorem State.modU_faults (f : UState → UState) : (s.modU x f).faults = s.faults := rfl
@[simp] theorem State.modU_nextTicket (f : UState → UState) : (s.modU x f).nextTicket = s.nextTicket := rfl
@[simp] theorem State.modU_objects (f : UState → UState) : (s.modU x f).objects = s.objects := rfl
@[simp] theorem State.modU_keys (f : UState → UState) : (s.modU x f).keys = s.keys := rfl
@[simp] theorem State.modU_fw (f : UState → UState) : (s.modU x f).fw = s.fw := rfl
@[simp] theorem State.modU_host (f : UState → UState) : (s.modU x f).host = s.host := rfl
@[simp] theorem State.modU_aperture (f : UState → UState) : (s.modU x f).aperture = s.aperture := rfl
@[simp] theorem State.modU_devNum (f : UState → UState) : (s.modU x f).devNum = s.devNum := rfl
@[simp] theorem State.modU_domSize (f : UState → UState) : (s.modU x f).domSize = s.domSize := rfl
@[simp] theorem State.modU_bindings (f : UState → UState) : (s.modU x f).bindings = s.bindings := rfl
@[simp] theorem State.modU_pwrcap (f : UState → UState) : (s.modU x f).pwrcap = s.pwrcap := rfl
@[simp] theorem State.modU_sqTable (f : UState → UState) : (s.modU x f).sqTable = s.sqTable := rfl
@[simp] theorem State.modU_sqRun (f : UState → UState) : (s.modU x f).sqRun = s.sqRun := rfl
@[simp] theorem State.modU_sqGen (f : UState → UState) : (s.modU x f).sqGen = s.sqGen := rfl
@[simp] theorem State.modU_hostReply (f : UState → UState) : (s.modU x f).hostReply = s.hostReply := rfl
@[simp] theorem State.modU_reports (f : UState → UState) : (s.modU x f).reports = s.reports := rfl
@[simp] theorem State.modU_links (f : UState → UState) : (s.modU x f).links = s.links := rfl
@[simp] theorem State.modU_linkDownAt (f : UState → UState) : (s.modU x f).linkDownAt = s.linkDownAt := rfl
@[simp] theorem State.modU_stopped (f : UState → UState) : (s.modU x f).stopped = s.stopped := rfl
@[simp] theorem State.modU_unbooted (f : UState → UState) : (s.modU x f).unbooted = s.unbooted := rfl

-- modSh
@[simp] theorem State.modSh_agenda (f : Shared → Shared) : (s.modSh x f).agenda = s.agenda := rfl
@[simp] theorem State.modSh_cur (f : Shared → Shared) : (s.modSh x f).cur = s.cur := rfl
@[simp] theorem State.modSh_stalled (f : Shared → Shared) : (s.modSh x f).stalled = s.stalled := rfl
@[simp] theorem State.modSh_curFlag (f : Shared → Shared) : (s.modSh x f).curFlag = s.curFlag := rfl
@[simp] theorem State.modSh_free (f : Shared → Shared) : (s.modSh x f).free = s.free := rfl
@[simp] theorem State.modSh_nextId (f : Shared → Shared) : (s.modSh x f).nextId = s.nextId := rfl
@[simp] theorem State.modSh_clock (f : Shared → Shared) : (s.modSh x f).clock = s.clock := rfl
@[simp] theorem State.modSh_rateKHz (f : Shared → Shared) : (s.modSh x f).rateKHz = s.rateKHz := rfl
@[simp] theorem State.modSh_mem (f : Shared → Shared) : (s.modSh x f).mem = s.mem := rfl
@[simp] theorem State.modSh_memSyn (f : Shared → Shared) : (s.modSh x f).memSyn = s.memSyn := rfl
@[simp] theorem State.modSh_memEcc (f : Shared → Shared) : (s.modSh x f).memEcc = s.memEcc := rfl
@[simp] theorem State.modSh_outside (f : Shared → Shared) : (s.modSh x f).outside = s.outside := rfl
@[simp] theorem State.modSh_peerBad (f : Shared → Shared) : (s.modSh x f).peerBad = s.peerBad := rfl
@[simp] theorem State.modSh_pages (f : Shared → Shared) : (s.modSh x f).pages = s.pages := rfl
@[simp] theorem State.modSh_eccCount (f : Shared → Shared) : (s.modSh x f).eccCount = s.eccCount := rfl
@[simp] theorem State.modSh_clusters (f : Shared → Shared) : (s.modSh x f).clusters = s.clusters := rfl
@[simp] theorem State.modSh_launches (f : Shared → Shared) : (s.modSh x f).launches = s.launches := rfl
@[simp] theorem State.modSh_saved (f : Shared → Shared) : (s.modSh x f).saved = s.saved := rfl
@[simp] theorem State.modSh_incoming (f : Shared → Shared) : (s.modSh x f).incoming = s.incoming := rfl
@[simp] theorem State.modSh_lastDie (f : Shared → Shared) : (s.modSh x f).lastDie = s.lastDie := rfl
@[simp] theorem State.modSh_rrQueue (f : Shared → Shared) : (s.modSh x f).rrQueue = s.rrQueue := rfl
@[simp] theorem State.modSh_rrPipe (f : Shared → Shared) : (s.modSh x f).rrPipe = s.rrPipe := rfl
@[simp] theorem State.modSh_epochAt (f : Shared → Shared) : (s.modSh x f).epochAt = s.epochAt := rfl
@[simp] theorem State.modSh_remote (f : Shared → Shared) : (s.modSh x f).remote = s.remote := rfl
@[simp] theorem State.modSh_flights (f : Shared → Shared) : (s.modSh x f).flights = s.flights := rfl
@[simp] theorem State.modSh_packets (f : Shared → Shared) : (s.modSh x f).packets = s.packets := rfl
@[simp] theorem State.modSh_cmds (f : Shared → Shared) : (s.modSh x f).cmds = s.cmds := rfl
@[simp] theorem State.modSh_collSeq (f : Shared → Shared) : (s.modSh x f).collSeq = s.collSeq := rfl
@[simp] theorem State.modSh_collGone (f : Shared → Shared) : (s.modSh x f).collGone = s.collGone := rfl
@[simp] theorem State.modSh_rrEng (f : Shared → Shared) : (s.modSh x f).rrEng = s.rrEng := rfl
@[simp] theorem State.modSh_ioTlb (f : Shared → Shared) : (s.modSh x f).ioTlb = s.ioTlb := rfl
@[simp] theorem State.modSh_linkReqs (f : Shared → Shared) : (s.modSh x f).linkReqs = s.linkReqs := rfl
@[simp] theorem State.modSh_sems (f : Shared → Shared) : (s.modSh x f).sems = s.sems := rfl
@[simp] theorem State.modSh_deps (f : Shared → Shared) : (s.modSh x f).deps = s.deps := rfl
@[simp] theorem State.modSh_ctxs (f : Shared → Shared) : (s.modSh x f).ctxs = s.ctxs := rfl
@[simp] theorem State.modSh_wdtask (f : Shared → Shared) : (s.modSh x f).wdtask = s.wdtask := rfl
@[simp] theorem State.modSh_wdwait (f : Shared → Shared) : (s.modSh x f).wdwait = s.wdwait := rfl
@[simp] theorem State.modSh_ageq (f : Shared → Shared) : (s.modSh x f).ageq = s.ageq := rfl
@[simp] theorem State.modSh_gather (f : Shared → Shared) : (s.modSh x f).gather = s.gather := rfl
@[simp] theorem State.modSh_joinspin (f : Shared → Shared) : (s.modSh x f).joinspin = s.joinspin := rfl
@[simp] theorem State.modSh_fqbase (f : Shared → Shared) : (s.modSh x f).fqbase = s.fqbase := rfl
@[simp] theorem State.modSh_fqEn (f : Shared → Shared) : (s.modSh x f).fqEn = s.fqEn := rfl
@[simp] theorem State.modSh_fqLog2n (f : Shared → Shared) : (s.modSh x f).fqLog2n = s.fqLog2n := rfl
@[simp] theorem State.modSh_fqSem (f : Shared → Shared) : (s.modSh x f).fqSem = s.fqSem := rfl
@[simp] theorem State.modSh_fqTail (f : Shared → Shared) : (s.modSh x f).fqTail = s.fqTail := rfl
@[simp] theorem State.modSh_fqHead (f : Shared → Shared) : (s.modSh x f).fqHead = s.fqHead := rfl
@[simp] theorem State.modSh_eqbase (f : Shared → Shared) : (s.modSh x f).eqbase = s.eqbase := rfl
@[simp] theorem State.modSh_eqEn (f : Shared → Shared) : (s.modSh x f).eqEn = s.eqEn := rfl
@[simp] theorem State.modSh_eqLog2n (f : Shared → Shared) : (s.modSh x f).eqLog2n = s.eqLog2n := rfl
@[simp] theorem State.modSh_eqDrop (f : Shared → Shared) : (s.modSh x f).eqDrop = s.eqDrop := rfl
@[simp] theorem State.modSh_eqTail (f : Shared → Shared) : (s.modSh x f).eqTail = s.eqTail := rfl
@[simp] theorem State.modSh_eqHead (f : Shared → Shared) : (s.modSh x f).eqHead = s.eqHead := rfl
@[simp] theorem State.modSh_trIdx (f : Shared → Shared) : (s.modSh x f).trIdx = s.trIdx := rfl
@[simp] theorem State.modSh_trX (f : Shared → Shared) : (s.modSh x f).trX = s.trX := rfl
@[simp] theorem State.modSh_trY (f : Shared → Shared) : (s.modSh x f).trY = s.trY := rfl
@[simp] theorem State.modSh_semidx (f : Shared → Shared) : (s.modSh x f).semidx = s.semidx := rfl
@[simp] theorem State.modSh_depidx (f : Shared → Shared) : (s.modSh x f).depidx = s.depidx := rfl
@[simp] theorem State.modSh_lqsel (f : Shared → Shared) : (s.modSh x f).lqsel = s.lqsel := rfl
@[simp] theorem State.modSh_queues (f : Shared → Shared) : (s.modSh x f).queues = s.queues := rfl
@[simp] theorem State.modSh_faults (f : Shared → Shared) : (s.modSh x f).faults = s.faults := rfl
@[simp] theorem State.modSh_nextTicket (f : Shared → Shared) : (s.modSh x f).nextTicket = s.nextTicket := rfl
@[simp] theorem State.modSh_objects (f : Shared → Shared) : (s.modSh x f).objects = s.objects := rfl
@[simp] theorem State.modSh_keys (f : Shared → Shared) : (s.modSh x f).keys = s.keys := rfl
@[simp] theorem State.modSh_fw (f : Shared → Shared) : (s.modSh x f).fw = s.fw := rfl
@[simp] theorem State.modSh_host (f : Shared → Shared) : (s.modSh x f).host = s.host := rfl
@[simp] theorem State.modSh_aperture (f : Shared → Shared) : (s.modSh x f).aperture = s.aperture := rfl
@[simp] theorem State.modSh_devNum (f : Shared → Shared) : (s.modSh x f).devNum = s.devNum := rfl
@[simp] theorem State.modSh_domSize (f : Shared → Shared) : (s.modSh x f).domSize = s.domSize := rfl
@[simp] theorem State.modSh_bindings (f : Shared → Shared) : (s.modSh x f).bindings = s.bindings := rfl
@[simp] theorem State.modSh_pwrcap (f : Shared → Shared) : (s.modSh x f).pwrcap = s.pwrcap := rfl
@[simp] theorem State.modSh_sqTable (f : Shared → Shared) : (s.modSh x f).sqTable = s.sqTable := rfl
@[simp] theorem State.modSh_sqRun (f : Shared → Shared) : (s.modSh x f).sqRun = s.sqRun := rfl
@[simp] theorem State.modSh_sqGen (f : Shared → Shared) : (s.modSh x f).sqGen = s.sqGen := rfl
@[simp] theorem State.modSh_hostReply (f : Shared → Shared) : (s.modSh x f).hostReply = s.hostReply := rfl
@[simp] theorem State.modSh_reports (f : Shared → Shared) : (s.modSh x f).reports = s.reports := rfl
@[simp] theorem State.modSh_links (f : Shared → Shared) : (s.modSh x f).links = s.links := rfl
@[simp] theorem State.modSh_linkDownAt (f : Shared → Shared) : (s.modSh x f).linkDownAt = s.linkDownAt := rfl
@[simp] theorem State.modSh_stopped (f : Shared → Shared) : (s.modSh x f).stopped = s.stopped := rfl
@[simp] theorem State.modSh_unbooted (f : Shared → Shared) : (s.modSh x f).unbooted = s.unbooted := rfl

-- setPc
@[simp] theorem State.setPc_agenda (pc : Word) : (s.setPc x pc).agenda = s.agenda := rfl
@[simp] theorem State.setPc_cur (pc : Word) : (s.setPc x pc).cur = s.cur := rfl
@[simp] theorem State.setPc_stalled (pc : Word) : (s.setPc x pc).stalled = s.stalled := rfl
@[simp] theorem State.setPc_curFlag (pc : Word) : (s.setPc x pc).curFlag = s.curFlag := rfl
@[simp] theorem State.setPc_free (pc : Word) : (s.setPc x pc).free = s.free := rfl
@[simp] theorem State.setPc_nextId (pc : Word) : (s.setPc x pc).nextId = s.nextId := rfl
@[simp] theorem State.setPc_clock (pc : Word) : (s.setPc x pc).clock = s.clock := rfl
@[simp] theorem State.setPc_rateKHz (pc : Word) : (s.setPc x pc).rateKHz = s.rateKHz := rfl
@[simp] theorem State.setPc_mem (pc : Word) : (s.setPc x pc).mem = s.mem := rfl
@[simp] theorem State.setPc_memSyn (pc : Word) : (s.setPc x pc).memSyn = s.memSyn := rfl
@[simp] theorem State.setPc_memEcc (pc : Word) : (s.setPc x pc).memEcc = s.memEcc := rfl
@[simp] theorem State.setPc_outside (pc : Word) : (s.setPc x pc).outside = s.outside := rfl
@[simp] theorem State.setPc_peerBad (pc : Word) : (s.setPc x pc).peerBad = s.peerBad := rfl
@[simp] theorem State.setPc_pages (pc : Word) : (s.setPc x pc).pages = s.pages := rfl
@[simp] theorem State.setPc_eccCount (pc : Word) : (s.setPc x pc).eccCount = s.eccCount := rfl
@[simp] theorem State.setPc_clusters (pc : Word) : (s.setPc x pc).clusters = s.clusters := rfl
@[simp] theorem State.setPc_launches (pc : Word) : (s.setPc x pc).launches = s.launches := rfl
@[simp] theorem State.setPc_saved (pc : Word) : (s.setPc x pc).saved = s.saved := rfl
@[simp] theorem State.setPc_incoming (pc : Word) : (s.setPc x pc).incoming = s.incoming := rfl
@[simp] theorem State.setPc_lastDie (pc : Word) : (s.setPc x pc).lastDie = s.lastDie := rfl
@[simp] theorem State.setPc_rrQueue (pc : Word) : (s.setPc x pc).rrQueue = s.rrQueue := rfl
@[simp] theorem State.setPc_rrPipe (pc : Word) : (s.setPc x pc).rrPipe = s.rrPipe := rfl
@[simp] theorem State.setPc_epochAt (pc : Word) : (s.setPc x pc).epochAt = s.epochAt := rfl
@[simp] theorem State.setPc_remote (pc : Word) : (s.setPc x pc).remote = s.remote := rfl
@[simp] theorem State.setPc_flights (pc : Word) : (s.setPc x pc).flights = s.flights := rfl
@[simp] theorem State.setPc_packets (pc : Word) : (s.setPc x pc).packets = s.packets := rfl
@[simp] theorem State.setPc_cmds (pc : Word) : (s.setPc x pc).cmds = s.cmds := rfl
@[simp] theorem State.setPc_collSeq (pc : Word) : (s.setPc x pc).collSeq = s.collSeq := rfl
@[simp] theorem State.setPc_collGone (pc : Word) : (s.setPc x pc).collGone = s.collGone := rfl
@[simp] theorem State.setPc_rrEng (pc : Word) : (s.setPc x pc).rrEng = s.rrEng := rfl
@[simp] theorem State.setPc_ioTlb (pc : Word) : (s.setPc x pc).ioTlb = s.ioTlb := rfl
@[simp] theorem State.setPc_linkReqs (pc : Word) : (s.setPc x pc).linkReqs = s.linkReqs := rfl
@[simp] theorem State.setPc_sems (pc : Word) : (s.setPc x pc).sems = s.sems := rfl
@[simp] theorem State.setPc_deps (pc : Word) : (s.setPc x pc).deps = s.deps := rfl
@[simp] theorem State.setPc_ctxs (pc : Word) : (s.setPc x pc).ctxs = s.ctxs := rfl
@[simp] theorem State.setPc_wdtask (pc : Word) : (s.setPc x pc).wdtask = s.wdtask := rfl
@[simp] theorem State.setPc_wdwait (pc : Word) : (s.setPc x pc).wdwait = s.wdwait := rfl
@[simp] theorem State.setPc_ageq (pc : Word) : (s.setPc x pc).ageq = s.ageq := rfl
@[simp] theorem State.setPc_gather (pc : Word) : (s.setPc x pc).gather = s.gather := rfl
@[simp] theorem State.setPc_joinspin (pc : Word) : (s.setPc x pc).joinspin = s.joinspin := rfl
@[simp] theorem State.setPc_fqbase (pc : Word) : (s.setPc x pc).fqbase = s.fqbase := rfl
@[simp] theorem State.setPc_fqEn (pc : Word) : (s.setPc x pc).fqEn = s.fqEn := rfl
@[simp] theorem State.setPc_fqLog2n (pc : Word) : (s.setPc x pc).fqLog2n = s.fqLog2n := rfl
@[simp] theorem State.setPc_fqSem (pc : Word) : (s.setPc x pc).fqSem = s.fqSem := rfl
@[simp] theorem State.setPc_fqTail (pc : Word) : (s.setPc x pc).fqTail = s.fqTail := rfl
@[simp] theorem State.setPc_fqHead (pc : Word) : (s.setPc x pc).fqHead = s.fqHead := rfl
@[simp] theorem State.setPc_eqbase (pc : Word) : (s.setPc x pc).eqbase = s.eqbase := rfl
@[simp] theorem State.setPc_eqEn (pc : Word) : (s.setPc x pc).eqEn = s.eqEn := rfl
@[simp] theorem State.setPc_eqLog2n (pc : Word) : (s.setPc x pc).eqLog2n = s.eqLog2n := rfl
@[simp] theorem State.setPc_eqDrop (pc : Word) : (s.setPc x pc).eqDrop = s.eqDrop := rfl
@[simp] theorem State.setPc_eqTail (pc : Word) : (s.setPc x pc).eqTail = s.eqTail := rfl
@[simp] theorem State.setPc_eqHead (pc : Word) : (s.setPc x pc).eqHead = s.eqHead := rfl
@[simp] theorem State.setPc_trIdx (pc : Word) : (s.setPc x pc).trIdx = s.trIdx := rfl
@[simp] theorem State.setPc_trX (pc : Word) : (s.setPc x pc).trX = s.trX := rfl
@[simp] theorem State.setPc_trY (pc : Word) : (s.setPc x pc).trY = s.trY := rfl
@[simp] theorem State.setPc_semidx (pc : Word) : (s.setPc x pc).semidx = s.semidx := rfl
@[simp] theorem State.setPc_depidx (pc : Word) : (s.setPc x pc).depidx = s.depidx := rfl
@[simp] theorem State.setPc_lqsel (pc : Word) : (s.setPc x pc).lqsel = s.lqsel := rfl
@[simp] theorem State.setPc_queues (pc : Word) : (s.setPc x pc).queues = s.queues := rfl
@[simp] theorem State.setPc_faults (pc : Word) : (s.setPc x pc).faults = s.faults := rfl
@[simp] theorem State.setPc_nextTicket (pc : Word) : (s.setPc x pc).nextTicket = s.nextTicket := rfl
@[simp] theorem State.setPc_objects (pc : Word) : (s.setPc x pc).objects = s.objects := rfl
@[simp] theorem State.setPc_keys (pc : Word) : (s.setPc x pc).keys = s.keys := rfl
@[simp] theorem State.setPc_fw (pc : Word) : (s.setPc x pc).fw = s.fw := rfl
@[simp] theorem State.setPc_host (pc : Word) : (s.setPc x pc).host = s.host := rfl
@[simp] theorem State.setPc_aperture (pc : Word) : (s.setPc x pc).aperture = s.aperture := rfl
@[simp] theorem State.setPc_devNum (pc : Word) : (s.setPc x pc).devNum = s.devNum := rfl
@[simp] theorem State.setPc_domSize (pc : Word) : (s.setPc x pc).domSize = s.domSize := rfl
@[simp] theorem State.setPc_bindings (pc : Word) : (s.setPc x pc).bindings = s.bindings := rfl
@[simp] theorem State.setPc_pwrcap (pc : Word) : (s.setPc x pc).pwrcap = s.pwrcap := rfl
@[simp] theorem State.setPc_sqTable (pc : Word) : (s.setPc x pc).sqTable = s.sqTable := rfl
@[simp] theorem State.setPc_sqRun (pc : Word) : (s.setPc x pc).sqRun = s.sqRun := rfl
@[simp] theorem State.setPc_sqGen (pc : Word) : (s.setPc x pc).sqGen = s.sqGen := rfl
@[simp] theorem State.setPc_hostReply (pc : Word) : (s.setPc x pc).hostReply = s.hostReply := rfl
@[simp] theorem State.setPc_reports (pc : Word) : (s.setPc x pc).reports = s.reports := rfl
@[simp] theorem State.setPc_links (pc : Word) : (s.setPc x pc).links = s.links := rfl
@[simp] theorem State.setPc_linkDownAt (pc : Word) : (s.setPc x pc).linkDownAt = s.linkDownAt := rfl
@[simp] theorem State.setPc_stopped (pc : Word) : (s.setPc x pc).stopped = s.stopped := rfl
@[simp] theorem State.setPc_unbooted (pc : Word) : (s.setPc x pc).unbooted = s.unbooted := rfl

-- retire
@[simp] theorem State.retire_agenda : (s.retire x).agenda = s.agenda := rfl
@[simp] theorem State.retire_cur : (s.retire x).cur = s.cur := rfl
@[simp] theorem State.retire_stalled : (s.retire x).stalled = s.stalled := rfl
@[simp] theorem State.retire_curFlag : (s.retire x).curFlag = s.curFlag := rfl
@[simp] theorem State.retire_free : (s.retire x).free = s.free := rfl
@[simp] theorem State.retire_nextId : (s.retire x).nextId = s.nextId := rfl
@[simp] theorem State.retire_clock : (s.retire x).clock = s.clock := rfl
@[simp] theorem State.retire_rateKHz : (s.retire x).rateKHz = s.rateKHz := rfl
@[simp] theorem State.retire_mem : (s.retire x).mem = s.mem := rfl
@[simp] theorem State.retire_memSyn : (s.retire x).memSyn = s.memSyn := rfl
@[simp] theorem State.retire_memEcc : (s.retire x).memEcc = s.memEcc := rfl
@[simp] theorem State.retire_outside : (s.retire x).outside = s.outside := rfl
@[simp] theorem State.retire_peerBad : (s.retire x).peerBad = s.peerBad := rfl
@[simp] theorem State.retire_pages : (s.retire x).pages = s.pages := rfl
@[simp] theorem State.retire_eccCount : (s.retire x).eccCount = s.eccCount := rfl
@[simp] theorem State.retire_clusters : (s.retire x).clusters = s.clusters := rfl
@[simp] theorem State.retire_launches : (s.retire x).launches = s.launches := rfl
@[simp] theorem State.retire_saved : (s.retire x).saved = s.saved := rfl
@[simp] theorem State.retire_incoming : (s.retire x).incoming = s.incoming := rfl
@[simp] theorem State.retire_lastDie : (s.retire x).lastDie = s.lastDie := rfl
@[simp] theorem State.retire_rrQueue : (s.retire x).rrQueue = s.rrQueue := rfl
@[simp] theorem State.retire_rrPipe : (s.retire x).rrPipe = s.rrPipe := rfl
@[simp] theorem State.retire_epochAt : (s.retire x).epochAt = s.epochAt := rfl
@[simp] theorem State.retire_remote : (s.retire x).remote = s.remote := rfl
@[simp] theorem State.retire_flights : (s.retire x).flights = s.flights := rfl
@[simp] theorem State.retire_packets : (s.retire x).packets = s.packets := rfl
@[simp] theorem State.retire_cmds : (s.retire x).cmds = s.cmds := rfl
@[simp] theorem State.retire_collSeq : (s.retire x).collSeq = s.collSeq := rfl
@[simp] theorem State.retire_collGone : (s.retire x).collGone = s.collGone := rfl
@[simp] theorem State.retire_rrEng : (s.retire x).rrEng = s.rrEng := rfl
@[simp] theorem State.retire_ioTlb : (s.retire x).ioTlb = s.ioTlb := rfl
@[simp] theorem State.retire_linkReqs : (s.retire x).linkReqs = s.linkReqs := rfl
@[simp] theorem State.retire_sems : (s.retire x).sems = s.sems := rfl
@[simp] theorem State.retire_deps : (s.retire x).deps = s.deps := rfl
@[simp] theorem State.retire_ctxs : (s.retire x).ctxs = s.ctxs := rfl
@[simp] theorem State.retire_wdtask : (s.retire x).wdtask = s.wdtask := rfl
@[simp] theorem State.retire_wdwait : (s.retire x).wdwait = s.wdwait := rfl
@[simp] theorem State.retire_ageq : (s.retire x).ageq = s.ageq := rfl
@[simp] theorem State.retire_gather : (s.retire x).gather = s.gather := rfl
@[simp] theorem State.retire_joinspin : (s.retire x).joinspin = s.joinspin := rfl
@[simp] theorem State.retire_fqbase : (s.retire x).fqbase = s.fqbase := rfl
@[simp] theorem State.retire_fqEn : (s.retire x).fqEn = s.fqEn := rfl
@[simp] theorem State.retire_fqLog2n : (s.retire x).fqLog2n = s.fqLog2n := rfl
@[simp] theorem State.retire_fqSem : (s.retire x).fqSem = s.fqSem := rfl
@[simp] theorem State.retire_fqTail : (s.retire x).fqTail = s.fqTail := rfl
@[simp] theorem State.retire_fqHead : (s.retire x).fqHead = s.fqHead := rfl
@[simp] theorem State.retire_eqbase : (s.retire x).eqbase = s.eqbase := rfl
@[simp] theorem State.retire_eqEn : (s.retire x).eqEn = s.eqEn := rfl
@[simp] theorem State.retire_eqLog2n : (s.retire x).eqLog2n = s.eqLog2n := rfl
@[simp] theorem State.retire_eqDrop : (s.retire x).eqDrop = s.eqDrop := rfl
@[simp] theorem State.retire_eqTail : (s.retire x).eqTail = s.eqTail := rfl
@[simp] theorem State.retire_eqHead : (s.retire x).eqHead = s.eqHead := rfl
@[simp] theorem State.retire_trIdx : (s.retire x).trIdx = s.trIdx := rfl
@[simp] theorem State.retire_trX : (s.retire x).trX = s.trX := rfl
@[simp] theorem State.retire_trY : (s.retire x).trY = s.trY := rfl
@[simp] theorem State.retire_semidx : (s.retire x).semidx = s.semidx := rfl
@[simp] theorem State.retire_depidx : (s.retire x).depidx = s.depidx := rfl
@[simp] theorem State.retire_lqsel : (s.retire x).lqsel = s.lqsel := rfl
@[simp] theorem State.retire_queues : (s.retire x).queues = s.queues := rfl
@[simp] theorem State.retire_faults : (s.retire x).faults = s.faults := rfl
@[simp] theorem State.retire_nextTicket : (s.retire x).nextTicket = s.nextTicket := rfl
@[simp] theorem State.retire_objects : (s.retire x).objects = s.objects := rfl
@[simp] theorem State.retire_keys : (s.retire x).keys = s.keys := rfl
@[simp] theorem State.retire_fw : (s.retire x).fw = s.fw := rfl
@[simp] theorem State.retire_host : (s.retire x).host = s.host := rfl
@[simp] theorem State.retire_aperture : (s.retire x).aperture = s.aperture := rfl
@[simp] theorem State.retire_devNum : (s.retire x).devNum = s.devNum := rfl
@[simp] theorem State.retire_domSize : (s.retire x).domSize = s.domSize := rfl
@[simp] theorem State.retire_bindings : (s.retire x).bindings = s.bindings := rfl
@[simp] theorem State.retire_pwrcap : (s.retire x).pwrcap = s.pwrcap := rfl
@[simp] theorem State.retire_sqTable : (s.retire x).sqTable = s.sqTable := rfl
@[simp] theorem State.retire_sqRun : (s.retire x).sqRun = s.sqRun := rfl
@[simp] theorem State.retire_sqGen : (s.retire x).sqGen = s.sqGen := rfl
@[simp] theorem State.retire_hostReply : (s.retire x).hostReply = s.hostReply := rfl
@[simp] theorem State.retire_reports : (s.retire x).reports = s.reports := rfl
@[simp] theorem State.retire_links : (s.retire x).links = s.links := rfl
@[simp] theorem State.retire_linkDownAt : (s.retire x).linkDownAt = s.linkDownAt := rfl
@[simp] theorem State.retire_stopped : (s.retire x).stopped = s.stopped := rfl
@[simp] theorem State.retire_unbooted : (s.retire x).unbooted = s.unbooted := rfl

-- stall
@[simp] theorem State.stall_agenda : (s.stall).agenda = s.agenda := rfl
@[simp] theorem State.stall_cur : (s.stall).cur = s.cur := rfl
@[simp] theorem State.stall_curFlag : (s.stall).curFlag = s.curFlag := rfl
@[simp] theorem State.stall_free : (s.stall).free = s.free := rfl
@[simp] theorem State.stall_nextId : (s.stall).nextId = s.nextId := rfl
@[simp] theorem State.stall_clock : (s.stall).clock = s.clock := rfl
@[simp] theorem State.stall_rateKHz : (s.stall).rateKHz = s.rateKHz := rfl
@[simp] theorem State.stall_mem : (s.stall).mem = s.mem := rfl
@[simp] theorem State.stall_memSyn : (s.stall).memSyn = s.memSyn := rfl
@[simp] theorem State.stall_memEcc : (s.stall).memEcc = s.memEcc := rfl
@[simp] theorem State.stall_outside : (s.stall).outside = s.outside := rfl
@[simp] theorem State.stall_peerBad : (s.stall).peerBad = s.peerBad := rfl
@[simp] theorem State.stall_pages : (s.stall).pages = s.pages := rfl
@[simp] theorem State.stall_eccCount : (s.stall).eccCount = s.eccCount := rfl
@[simp] theorem State.stall_clusters : (s.stall).clusters = s.clusters := rfl
@[simp] theorem State.stall_wgs : (s.stall).wgs = s.wgs := rfl
@[simp] theorem State.stall_launches : (s.stall).launches = s.launches := rfl
@[simp] theorem State.stall_saved : (s.stall).saved = s.saved := rfl
@[simp] theorem State.stall_incoming : (s.stall).incoming = s.incoming := rfl
@[simp] theorem State.stall_lastDie : (s.stall).lastDie = s.lastDie := rfl
@[simp] theorem State.stall_rrQueue : (s.stall).rrQueue = s.rrQueue := rfl
@[simp] theorem State.stall_rrPipe : (s.stall).rrPipe = s.rrPipe := rfl
@[simp] theorem State.stall_epochAt : (s.stall).epochAt = s.epochAt := rfl
@[simp] theorem State.stall_remote : (s.stall).remote = s.remote := rfl
@[simp] theorem State.stall_flights : (s.stall).flights = s.flights := rfl
@[simp] theorem State.stall_packets : (s.stall).packets = s.packets := rfl
@[simp] theorem State.stall_cmds : (s.stall).cmds = s.cmds := rfl
@[simp] theorem State.stall_collSeq : (s.stall).collSeq = s.collSeq := rfl
@[simp] theorem State.stall_collGone : (s.stall).collGone = s.collGone := rfl
@[simp] theorem State.stall_rrEng : (s.stall).rrEng = s.rrEng := rfl
@[simp] theorem State.stall_ioTlb : (s.stall).ioTlb = s.ioTlb := rfl
@[simp] theorem State.stall_linkReqs : (s.stall).linkReqs = s.linkReqs := rfl
@[simp] theorem State.stall_sems : (s.stall).sems = s.sems := rfl
@[simp] theorem State.stall_deps : (s.stall).deps = s.deps := rfl
@[simp] theorem State.stall_ctxs : (s.stall).ctxs = s.ctxs := rfl
@[simp] theorem State.stall_wdtask : (s.stall).wdtask = s.wdtask := rfl
@[simp] theorem State.stall_wdwait : (s.stall).wdwait = s.wdwait := rfl
@[simp] theorem State.stall_ageq : (s.stall).ageq = s.ageq := rfl
@[simp] theorem State.stall_gather : (s.stall).gather = s.gather := rfl
@[simp] theorem State.stall_joinspin : (s.stall).joinspin = s.joinspin := rfl
@[simp] theorem State.stall_fqbase : (s.stall).fqbase = s.fqbase := rfl
@[simp] theorem State.stall_fqEn : (s.stall).fqEn = s.fqEn := rfl
@[simp] theorem State.stall_fqLog2n : (s.stall).fqLog2n = s.fqLog2n := rfl
@[simp] theorem State.stall_fqSem : (s.stall).fqSem = s.fqSem := rfl
@[simp] theorem State.stall_fqTail : (s.stall).fqTail = s.fqTail := rfl
@[simp] theorem State.stall_fqHead : (s.stall).fqHead = s.fqHead := rfl
@[simp] theorem State.stall_eqbase : (s.stall).eqbase = s.eqbase := rfl
@[simp] theorem State.stall_eqEn : (s.stall).eqEn = s.eqEn := rfl
@[simp] theorem State.stall_eqLog2n : (s.stall).eqLog2n = s.eqLog2n := rfl
@[simp] theorem State.stall_eqDrop : (s.stall).eqDrop = s.eqDrop := rfl
@[simp] theorem State.stall_eqTail : (s.stall).eqTail = s.eqTail := rfl
@[simp] theorem State.stall_eqHead : (s.stall).eqHead = s.eqHead := rfl
@[simp] theorem State.stall_trIdx : (s.stall).trIdx = s.trIdx := rfl
@[simp] theorem State.stall_trX : (s.stall).trX = s.trX := rfl
@[simp] theorem State.stall_trY : (s.stall).trY = s.trY := rfl
@[simp] theorem State.stall_semidx : (s.stall).semidx = s.semidx := rfl
@[simp] theorem State.stall_depidx : (s.stall).depidx = s.depidx := rfl
@[simp] theorem State.stall_lqsel : (s.stall).lqsel = s.lqsel := rfl
@[simp] theorem State.stall_queues : (s.stall).queues = s.queues := rfl
@[simp] theorem State.stall_faults : (s.stall).faults = s.faults := rfl
@[simp] theorem State.stall_nextTicket : (s.stall).nextTicket = s.nextTicket := rfl
@[simp] theorem State.stall_objects : (s.stall).objects = s.objects := rfl
@[simp] theorem State.stall_keys : (s.stall).keys = s.keys := rfl
@[simp] theorem State.stall_fw : (s.stall).fw = s.fw := rfl
@[simp] theorem State.stall_host : (s.stall).host = s.host := rfl
@[simp] theorem State.stall_aperture : (s.stall).aperture = s.aperture := rfl
@[simp] theorem State.stall_devNum : (s.stall).devNum = s.devNum := rfl
@[simp] theorem State.stall_domSize : (s.stall).domSize = s.domSize := rfl
@[simp] theorem State.stall_bindings : (s.stall).bindings = s.bindings := rfl
@[simp] theorem State.stall_pwrcap : (s.stall).pwrcap = s.pwrcap := rfl
@[simp] theorem State.stall_sqTable : (s.stall).sqTable = s.sqTable := rfl
@[simp] theorem State.stall_sqRun : (s.stall).sqRun = s.sqRun := rfl
@[simp] theorem State.stall_sqGen : (s.stall).sqGen = s.sqGen := rfl
@[simp] theorem State.stall_hostReply : (s.stall).hostReply = s.hostReply := rfl
@[simp] theorem State.stall_reports : (s.stall).reports = s.reports := rfl
@[simp] theorem State.stall_links : (s.stall).links = s.links := rfl
@[simp] theorem State.stall_linkDownAt : (s.stall).linkDownAt = s.linkDownAt := rfl
@[simp] theorem State.stall_stopped : (s.stall).stopped = s.stopped := rfl
@[simp] theorem State.stall_unbooted : (s.stall).unbooted = s.unbooted := rfl

-- modCl
@[simp] theorem State.modCl_agenda (f : Cluster → Cluster) : (s.modCl i f).agenda = s.agenda := rfl
@[simp] theorem State.modCl_cur (f : Cluster → Cluster) : (s.modCl i f).cur = s.cur := rfl
@[simp] theorem State.modCl_stalled (f : Cluster → Cluster) : (s.modCl i f).stalled = s.stalled := rfl
@[simp] theorem State.modCl_curFlag (f : Cluster → Cluster) : (s.modCl i f).curFlag = s.curFlag := rfl
@[simp] theorem State.modCl_free (f : Cluster → Cluster) : (s.modCl i f).free = s.free := rfl
@[simp] theorem State.modCl_nextId (f : Cluster → Cluster) : (s.modCl i f).nextId = s.nextId := rfl
@[simp] theorem State.modCl_clock (f : Cluster → Cluster) : (s.modCl i f).clock = s.clock := rfl
@[simp] theorem State.modCl_rateKHz (f : Cluster → Cluster) : (s.modCl i f).rateKHz = s.rateKHz := rfl
@[simp] theorem State.modCl_mem (f : Cluster → Cluster) : (s.modCl i f).mem = s.mem := rfl
@[simp] theorem State.modCl_memSyn (f : Cluster → Cluster) : (s.modCl i f).memSyn = s.memSyn := rfl
@[simp] theorem State.modCl_memEcc (f : Cluster → Cluster) : (s.modCl i f).memEcc = s.memEcc := rfl
@[simp] theorem State.modCl_outside (f : Cluster → Cluster) : (s.modCl i f).outside = s.outside := rfl
@[simp] theorem State.modCl_peerBad (f : Cluster → Cluster) : (s.modCl i f).peerBad = s.peerBad := rfl
@[simp] theorem State.modCl_pages (f : Cluster → Cluster) : (s.modCl i f).pages = s.pages := rfl
@[simp] theorem State.modCl_eccCount (f : Cluster → Cluster) : (s.modCl i f).eccCount = s.eccCount := rfl
@[simp] theorem State.modCl_wgs (f : Cluster → Cluster) : (s.modCl i f).wgs = s.wgs := rfl
@[simp] theorem State.modCl_launches (f : Cluster → Cluster) : (s.modCl i f).launches = s.launches := rfl
@[simp] theorem State.modCl_saved (f : Cluster → Cluster) : (s.modCl i f).saved = s.saved := rfl
@[simp] theorem State.modCl_incoming (f : Cluster → Cluster) : (s.modCl i f).incoming = s.incoming := rfl
@[simp] theorem State.modCl_lastDie (f : Cluster → Cluster) : (s.modCl i f).lastDie = s.lastDie := rfl
@[simp] theorem State.modCl_rrQueue (f : Cluster → Cluster) : (s.modCl i f).rrQueue = s.rrQueue := rfl
@[simp] theorem State.modCl_rrPipe (f : Cluster → Cluster) : (s.modCl i f).rrPipe = s.rrPipe := rfl
@[simp] theorem State.modCl_epochAt (f : Cluster → Cluster) : (s.modCl i f).epochAt = s.epochAt := rfl
@[simp] theorem State.modCl_remote (f : Cluster → Cluster) : (s.modCl i f).remote = s.remote := rfl
@[simp] theorem State.modCl_flights (f : Cluster → Cluster) : (s.modCl i f).flights = s.flights := rfl
@[simp] theorem State.modCl_packets (f : Cluster → Cluster) : (s.modCl i f).packets = s.packets := rfl
@[simp] theorem State.modCl_cmds (f : Cluster → Cluster) : (s.modCl i f).cmds = s.cmds := rfl
@[simp] theorem State.modCl_collSeq (f : Cluster → Cluster) : (s.modCl i f).collSeq = s.collSeq := rfl
@[simp] theorem State.modCl_collGone (f : Cluster → Cluster) : (s.modCl i f).collGone = s.collGone := rfl
@[simp] theorem State.modCl_rrEng (f : Cluster → Cluster) : (s.modCl i f).rrEng = s.rrEng := rfl
@[simp] theorem State.modCl_ioTlb (f : Cluster → Cluster) : (s.modCl i f).ioTlb = s.ioTlb := rfl
@[simp] theorem State.modCl_linkReqs (f : Cluster → Cluster) : (s.modCl i f).linkReqs = s.linkReqs := rfl
@[simp] theorem State.modCl_sems (f : Cluster → Cluster) : (s.modCl i f).sems = s.sems := rfl
@[simp] theorem State.modCl_deps (f : Cluster → Cluster) : (s.modCl i f).deps = s.deps := rfl
@[simp] theorem State.modCl_ctxs (f : Cluster → Cluster) : (s.modCl i f).ctxs = s.ctxs := rfl
@[simp] theorem State.modCl_wdtask (f : Cluster → Cluster) : (s.modCl i f).wdtask = s.wdtask := rfl
@[simp] theorem State.modCl_wdwait (f : Cluster → Cluster) : (s.modCl i f).wdwait = s.wdwait := rfl
@[simp] theorem State.modCl_ageq (f : Cluster → Cluster) : (s.modCl i f).ageq = s.ageq := rfl
@[simp] theorem State.modCl_gather (f : Cluster → Cluster) : (s.modCl i f).gather = s.gather := rfl
@[simp] theorem State.modCl_joinspin (f : Cluster → Cluster) : (s.modCl i f).joinspin = s.joinspin := rfl
@[simp] theorem State.modCl_fqbase (f : Cluster → Cluster) : (s.modCl i f).fqbase = s.fqbase := rfl
@[simp] theorem State.modCl_fqEn (f : Cluster → Cluster) : (s.modCl i f).fqEn = s.fqEn := rfl
@[simp] theorem State.modCl_fqLog2n (f : Cluster → Cluster) : (s.modCl i f).fqLog2n = s.fqLog2n := rfl
@[simp] theorem State.modCl_fqSem (f : Cluster → Cluster) : (s.modCl i f).fqSem = s.fqSem := rfl
@[simp] theorem State.modCl_fqTail (f : Cluster → Cluster) : (s.modCl i f).fqTail = s.fqTail := rfl
@[simp] theorem State.modCl_fqHead (f : Cluster → Cluster) : (s.modCl i f).fqHead = s.fqHead := rfl
@[simp] theorem State.modCl_eqbase (f : Cluster → Cluster) : (s.modCl i f).eqbase = s.eqbase := rfl
@[simp] theorem State.modCl_eqEn (f : Cluster → Cluster) : (s.modCl i f).eqEn = s.eqEn := rfl
@[simp] theorem State.modCl_eqLog2n (f : Cluster → Cluster) : (s.modCl i f).eqLog2n = s.eqLog2n := rfl
@[simp] theorem State.modCl_eqDrop (f : Cluster → Cluster) : (s.modCl i f).eqDrop = s.eqDrop := rfl
@[simp] theorem State.modCl_eqTail (f : Cluster → Cluster) : (s.modCl i f).eqTail = s.eqTail := rfl
@[simp] theorem State.modCl_eqHead (f : Cluster → Cluster) : (s.modCl i f).eqHead = s.eqHead := rfl
@[simp] theorem State.modCl_trIdx (f : Cluster → Cluster) : (s.modCl i f).trIdx = s.trIdx := rfl
@[simp] theorem State.modCl_trX (f : Cluster → Cluster) : (s.modCl i f).trX = s.trX := rfl
@[simp] theorem State.modCl_trY (f : Cluster → Cluster) : (s.modCl i f).trY = s.trY := rfl
@[simp] theorem State.modCl_semidx (f : Cluster → Cluster) : (s.modCl i f).semidx = s.semidx := rfl
@[simp] theorem State.modCl_depidx (f : Cluster → Cluster) : (s.modCl i f).depidx = s.depidx := rfl
@[simp] theorem State.modCl_lqsel (f : Cluster → Cluster) : (s.modCl i f).lqsel = s.lqsel := rfl
@[simp] theorem State.modCl_queues (f : Cluster → Cluster) : (s.modCl i f).queues = s.queues := rfl
@[simp] theorem State.modCl_faults (f : Cluster → Cluster) : (s.modCl i f).faults = s.faults := rfl
@[simp] theorem State.modCl_nextTicket (f : Cluster → Cluster) : (s.modCl i f).nextTicket = s.nextTicket := rfl
@[simp] theorem State.modCl_objects (f : Cluster → Cluster) : (s.modCl i f).objects = s.objects := rfl
@[simp] theorem State.modCl_keys (f : Cluster → Cluster) : (s.modCl i f).keys = s.keys := rfl
@[simp] theorem State.modCl_fw (f : Cluster → Cluster) : (s.modCl i f).fw = s.fw := rfl
@[simp] theorem State.modCl_host (f : Cluster → Cluster) : (s.modCl i f).host = s.host := rfl
@[simp] theorem State.modCl_aperture (f : Cluster → Cluster) : (s.modCl i f).aperture = s.aperture := rfl
@[simp] theorem State.modCl_devNum (f : Cluster → Cluster) : (s.modCl i f).devNum = s.devNum := rfl
@[simp] theorem State.modCl_domSize (f : Cluster → Cluster) : (s.modCl i f).domSize = s.domSize := rfl
@[simp] theorem State.modCl_bindings (f : Cluster → Cluster) : (s.modCl i f).bindings = s.bindings := rfl
@[simp] theorem State.modCl_pwrcap (f : Cluster → Cluster) : (s.modCl i f).pwrcap = s.pwrcap := rfl
@[simp] theorem State.modCl_sqTable (f : Cluster → Cluster) : (s.modCl i f).sqTable = s.sqTable := rfl
@[simp] theorem State.modCl_sqRun (f : Cluster → Cluster) : (s.modCl i f).sqRun = s.sqRun := rfl
@[simp] theorem State.modCl_sqGen (f : Cluster → Cluster) : (s.modCl i f).sqGen = s.sqGen := rfl
@[simp] theorem State.modCl_hostReply (f : Cluster → Cluster) : (s.modCl i f).hostReply = s.hostReply := rfl
@[simp] theorem State.modCl_reports (f : Cluster → Cluster) : (s.modCl i f).reports = s.reports := rfl
@[simp] theorem State.modCl_links (f : Cluster → Cluster) : (s.modCl i f).links = s.links := rfl
@[simp] theorem State.modCl_linkDownAt (f : Cluster → Cluster) : (s.modCl i f).linkDownAt = s.linkDownAt := rfl
@[simp] theorem State.modCl_stopped (f : Cluster → Cluster) : (s.modCl i f).stopped = s.stopped := rfl
@[simp] theorem State.modCl_unbooted (f : Cluster → Cluster) : (s.modCl i f).unbooted = s.unbooted := rfl

-- sramWrite
@[simp] theorem State.sramWrite_agenda (o : Nat) (bs : List Byte) : (s.sramWrite i o bs).agenda = s.agenda := rfl
@[simp] theorem State.sramWrite_cur (o : Nat) (bs : List Byte) : (s.sramWrite i o bs).cur = s.cur := rfl
@[simp] theorem State.sramWrite_stalled (o : Nat) (bs : List Byte) : (s.sramWrite i o bs).stalled = s.stalled := rfl
@[simp] theorem State.sramWrite_curFlag (o : Nat) (bs : List Byte) : (s.sramWrite i o bs).curFlag = s.curFlag := rfl
@[simp] theorem State.sramWrite_free (o : Nat) (bs : List Byte) : (s.sramWrite i o bs).free = s.free := rfl
@[simp] theorem State.sramWrite_nextId (o : Nat) (bs : List Byte) : (s.sramWrite i o bs).nextId = s.nextId := rfl
@[simp] theorem State.sramWrite_clock (o : Nat) (bs : List Byte) : (s.sramWrite i o bs).clock = s.clock := rfl
@[simp] theorem State.sramWrite_mem (o : Nat) (bs : List Byte) : (s.sramWrite i o bs).mem = s.mem := rfl
@[simp] theorem State.sramWrite_memSyn (o : Nat) (bs : List Byte) : (s.sramWrite i o bs).memSyn = s.memSyn := rfl
@[simp] theorem State.sramWrite_memEcc (o : Nat) (bs : List Byte) : (s.sramWrite i o bs).memEcc = s.memEcc := rfl
@[simp] theorem State.sramWrite_outside (o : Nat) (bs : List Byte) : (s.sramWrite i o bs).outside = s.outside := rfl
@[simp] theorem State.sramWrite_wgs (o : Nat) (bs : List Byte) : (s.sramWrite i o bs).wgs = s.wgs := rfl
@[simp] theorem State.sramWrite_launches (o : Nat) (bs : List Byte) : (s.sramWrite i o bs).launches = s.launches := rfl
@[simp] theorem State.sramWrite_saved (o : Nat) (bs : List Byte) : (s.sramWrite i o bs).saved = s.saved := rfl
@[simp] theorem State.sramWrite_incoming (o : Nat) (bs : List Byte) : (s.sramWrite i o bs).incoming = s.incoming := rfl
@[simp] theorem State.sramWrite_remote (o : Nat) (bs : List Byte) : (s.sramWrite i o bs).remote = s.remote := rfl
@[simp] theorem State.sramWrite_flights (o : Nat) (bs : List Byte) : (s.sramWrite i o bs).flights = s.flights := rfl
@[simp] theorem State.sramWrite_packets (o : Nat) (bs : List Byte) : (s.sramWrite i o bs).packets = s.packets := rfl
@[simp] theorem State.sramWrite_cmds (o : Nat) (bs : List Byte) : (s.sramWrite i o bs).cmds = s.cmds := rfl
@[simp] theorem State.sramWrite_linkReqs (o : Nat) (bs : List Byte) : (s.sramWrite i o bs).linkReqs = s.linkReqs := rfl
@[simp] theorem State.sramWrite_sems (o : Nat) (bs : List Byte) : (s.sramWrite i o bs).sems = s.sems := rfl
@[simp] theorem State.sramWrite_deps (o : Nat) (bs : List Byte) : (s.sramWrite i o bs).deps = s.deps := rfl
@[simp] theorem State.sramWrite_ctxs (o : Nat) (bs : List Byte) : (s.sramWrite i o bs).ctxs = s.ctxs := rfl
@[simp] theorem State.sramWrite_queues (o : Nat) (bs : List Byte) : (s.sramWrite i o bs).queues = s.queues := rfl
@[simp] theorem State.sramWrite_faults (o : Nat) (bs : List Byte) : (s.sramWrite i o bs).faults = s.faults := rfl
@[simp] theorem State.sramWrite_objects (o : Nat) (bs : List Byte) : (s.sramWrite i o bs).objects = s.objects := rfl
@[simp] theorem State.sramWrite_host (o : Nat) (bs : List Byte) : (s.sramWrite i o bs).host = s.host := rfl
@[simp] theorem State.sramWrite_sqTable (o : Nat) (bs : List Byte) : (s.sramWrite i o bs).sqTable = s.sqTable := rfl
@[simp] theorem State.sramWrite_sqRun (o : Nat) (bs : List Byte) : (s.sramWrite i o bs).sqRun = s.sqRun := rfl
@[simp] theorem State.sramWrite_links (o : Nat) (bs : List Byte) : (s.sramWrite i o bs).links = s.links := rfl

-- modCtx
@[simp] theorem State.modCtx_agenda (f : Ctx → Ctx) : (s.modCtx i f).agenda = s.agenda := rfl
@[simp] theorem State.modCtx_cur (f : Ctx → Ctx) : (s.modCtx i f).cur = s.cur := rfl
@[simp] theorem State.modCtx_stalled (f : Ctx → Ctx) : (s.modCtx i f).stalled = s.stalled := rfl
@[simp] theorem State.modCtx_curFlag (f : Ctx → Ctx) : (s.modCtx i f).curFlag = s.curFlag := rfl
@[simp] theorem State.modCtx_free (f : Ctx → Ctx) : (s.modCtx i f).free = s.free := rfl
@[simp] theorem State.modCtx_nextId (f : Ctx → Ctx) : (s.modCtx i f).nextId = s.nextId := rfl
@[simp] theorem State.modCtx_clock (f : Ctx → Ctx) : (s.modCtx i f).clock = s.clock := rfl
@[simp] theorem State.modCtx_mem (f : Ctx → Ctx) : (s.modCtx i f).mem = s.mem := rfl
@[simp] theorem State.modCtx_memSyn (f : Ctx → Ctx) : (s.modCtx i f).memSyn = s.memSyn := rfl
@[simp] theorem State.modCtx_memEcc (f : Ctx → Ctx) : (s.modCtx i f).memEcc = s.memEcc := rfl
@[simp] theorem State.modCtx_outside (f : Ctx → Ctx) : (s.modCtx i f).outside = s.outside := rfl
@[simp] theorem State.modCtx_clusters (f : Ctx → Ctx) : (s.modCtx i f).clusters = s.clusters := rfl
@[simp] theorem State.modCtx_wgs (f : Ctx → Ctx) : (s.modCtx i f).wgs = s.wgs := rfl
@[simp] theorem State.modCtx_launches (f : Ctx → Ctx) : (s.modCtx i f).launches = s.launches := rfl
@[simp] theorem State.modCtx_saved (f : Ctx → Ctx) : (s.modCtx i f).saved = s.saved := rfl
@[simp] theorem State.modCtx_incoming (f : Ctx → Ctx) : (s.modCtx i f).incoming = s.incoming := rfl
@[simp] theorem State.modCtx_remote (f : Ctx → Ctx) : (s.modCtx i f).remote = s.remote := rfl
@[simp] theorem State.modCtx_flights (f : Ctx → Ctx) : (s.modCtx i f).flights = s.flights := rfl
@[simp] theorem State.modCtx_packets (f : Ctx → Ctx) : (s.modCtx i f).packets = s.packets := rfl
@[simp] theorem State.modCtx_cmds (f : Ctx → Ctx) : (s.modCtx i f).cmds = s.cmds := rfl
@[simp] theorem State.modCtx_linkReqs (f : Ctx → Ctx) : (s.modCtx i f).linkReqs = s.linkReqs := rfl
@[simp] theorem State.modCtx_sems (f : Ctx → Ctx) : (s.modCtx i f).sems = s.sems := rfl
@[simp] theorem State.modCtx_deps (f : Ctx → Ctx) : (s.modCtx i f).deps = s.deps := rfl
@[simp] theorem State.modCtx_queues (f : Ctx → Ctx) : (s.modCtx i f).queues = s.queues := rfl
@[simp] theorem State.modCtx_faults (f : Ctx → Ctx) : (s.modCtx i f).faults = s.faults := rfl
@[simp] theorem State.modCtx_objects (f : Ctx → Ctx) : (s.modCtx i f).objects = s.objects := rfl
@[simp] theorem State.modCtx_host (f : Ctx → Ctx) : (s.modCtx i f).host = s.host := rfl
@[simp] theorem State.modCtx_sqTable (f : Ctx → Ctx) : (s.modCtx i f).sqTable = s.sqTable := rfl
@[simp] theorem State.modCtx_sqRun (f : Ctx → Ctx) : (s.modCtx i f).sqRun = s.sqRun := rfl
@[simp] theorem State.modCtx_links (f : Ctx → Ctx) : (s.modCtx i f).links = s.links := rfl

-- modLaunch
@[simp] theorem State.modLaunch_agenda (f : Launch → Launch) : (s.modLaunch i f).agenda = s.agenda := rfl
@[simp] theorem State.modLaunch_cur (f : Launch → Launch) : (s.modLaunch i f).cur = s.cur := rfl
@[simp] theorem State.modLaunch_stalled (f : Launch → Launch) : (s.modLaunch i f).stalled = s.stalled := rfl
@[simp] theorem State.modLaunch_curFlag (f : Launch → Launch) : (s.modLaunch i f).curFlag = s.curFlag := rfl
@[simp] theorem State.modLaunch_free (f : Launch → Launch) : (s.modLaunch i f).free = s.free := rfl
@[simp] theorem State.modLaunch_nextId (f : Launch → Launch) : (s.modLaunch i f).nextId = s.nextId := rfl
@[simp] theorem State.modLaunch_clock (f : Launch → Launch) : (s.modLaunch i f).clock = s.clock := rfl
@[simp] theorem State.modLaunch_mem (f : Launch → Launch) : (s.modLaunch i f).mem = s.mem := rfl
@[simp] theorem State.modLaunch_memSyn (f : Launch → Launch) : (s.modLaunch i f).memSyn = s.memSyn := rfl
@[simp] theorem State.modLaunch_memEcc (f : Launch → Launch) : (s.modLaunch i f).memEcc = s.memEcc := rfl
@[simp] theorem State.modLaunch_outside (f : Launch → Launch) : (s.modLaunch i f).outside = s.outside := rfl
@[simp] theorem State.modLaunch_clusters (f : Launch → Launch) : (s.modLaunch i f).clusters = s.clusters := rfl
@[simp] theorem State.modLaunch_wgs (f : Launch → Launch) : (s.modLaunch i f).wgs = s.wgs := rfl
@[simp] theorem State.modLaunch_saved (f : Launch → Launch) : (s.modLaunch i f).saved = s.saved := rfl
@[simp] theorem State.modLaunch_incoming (f : Launch → Launch) : (s.modLaunch i f).incoming = s.incoming := rfl
@[simp] theorem State.modLaunch_remote (f : Launch → Launch) : (s.modLaunch i f).remote = s.remote := rfl
@[simp] theorem State.modLaunch_flights (f : Launch → Launch) : (s.modLaunch i f).flights = s.flights := rfl
@[simp] theorem State.modLaunch_packets (f : Launch → Launch) : (s.modLaunch i f).packets = s.packets := rfl
@[simp] theorem State.modLaunch_cmds (f : Launch → Launch) : (s.modLaunch i f).cmds = s.cmds := rfl
@[simp] theorem State.modLaunch_linkReqs (f : Launch → Launch) : (s.modLaunch i f).linkReqs = s.linkReqs := rfl
@[simp] theorem State.modLaunch_sems (f : Launch → Launch) : (s.modLaunch i f).sems = s.sems := rfl
@[simp] theorem State.modLaunch_deps (f : Launch → Launch) : (s.modLaunch i f).deps = s.deps := rfl
@[simp] theorem State.modLaunch_ctxs (f : Launch → Launch) : (s.modLaunch i f).ctxs = s.ctxs := rfl
@[simp] theorem State.modLaunch_queues (f : Launch → Launch) : (s.modLaunch i f).queues = s.queues := rfl
@[simp] theorem State.modLaunch_faults (f : Launch → Launch) : (s.modLaunch i f).faults = s.faults := rfl
@[simp] theorem State.modLaunch_objects (f : Launch → Launch) : (s.modLaunch i f).objects = s.objects := rfl
@[simp] theorem State.modLaunch_host (f : Launch → Launch) : (s.modLaunch i f).host = s.host := rfl
@[simp] theorem State.modLaunch_sqTable (f : Launch → Launch) : (s.modLaunch i f).sqTable = s.sqTable := rfl
@[simp] theorem State.modLaunch_sqRun (f : Launch → Launch) : (s.modLaunch i f).sqRun = s.sqRun := rfl
@[simp] theorem State.modLaunch_links (f : Launch → Launch) : (s.modLaunch i f).links = s.links := rfl

-- modEng
@[simp] theorem State.modEng_agenda (f : EngCmd → EngCmd) : (s.modEng i f).agenda = s.agenda := rfl
@[simp] theorem State.modEng_cur (f : EngCmd → EngCmd) : (s.modEng i f).cur = s.cur := rfl
@[simp] theorem State.modEng_stalled (f : EngCmd → EngCmd) : (s.modEng i f).stalled = s.stalled := rfl
@[simp] theorem State.modEng_curFlag (f : EngCmd → EngCmd) : (s.modEng i f).curFlag = s.curFlag := rfl
@[simp] theorem State.modEng_free (f : EngCmd → EngCmd) : (s.modEng i f).free = s.free := rfl
@[simp] theorem State.modEng_nextId (f : EngCmd → EngCmd) : (s.modEng i f).nextId = s.nextId := rfl
@[simp] theorem State.modEng_clock (f : EngCmd → EngCmd) : (s.modEng i f).clock = s.clock := rfl
@[simp] theorem State.modEng_mem (f : EngCmd → EngCmd) : (s.modEng i f).mem = s.mem := rfl
@[simp] theorem State.modEng_memSyn (f : EngCmd → EngCmd) : (s.modEng i f).memSyn = s.memSyn := rfl
@[simp] theorem State.modEng_memEcc (f : EngCmd → EngCmd) : (s.modEng i f).memEcc = s.memEcc := rfl
@[simp] theorem State.modEng_outside (f : EngCmd → EngCmd) : (s.modEng i f).outside = s.outside := rfl
@[simp] theorem State.modEng_clusters (f : EngCmd → EngCmd) : (s.modEng i f).clusters = s.clusters := rfl
@[simp] theorem State.modEng_wgs (f : EngCmd → EngCmd) : (s.modEng i f).wgs = s.wgs := rfl
@[simp] theorem State.modEng_launches (f : EngCmd → EngCmd) : (s.modEng i f).launches = s.launches := rfl
@[simp] theorem State.modEng_saved (f : EngCmd → EngCmd) : (s.modEng i f).saved = s.saved := rfl
@[simp] theorem State.modEng_incoming (f : EngCmd → EngCmd) : (s.modEng i f).incoming = s.incoming := rfl
@[simp] theorem State.modEng_remote (f : EngCmd → EngCmd) : (s.modEng i f).remote = s.remote := rfl
@[simp] theorem State.modEng_flights (f : EngCmd → EngCmd) : (s.modEng i f).flights = s.flights := rfl
@[simp] theorem State.modEng_packets (f : EngCmd → EngCmd) : (s.modEng i f).packets = s.packets := rfl
@[simp] theorem State.modEng_linkReqs (f : EngCmd → EngCmd) : (s.modEng i f).linkReqs = s.linkReqs := rfl
@[simp] theorem State.modEng_sems (f : EngCmd → EngCmd) : (s.modEng i f).sems = s.sems := rfl
@[simp] theorem State.modEng_deps (f : EngCmd → EngCmd) : (s.modEng i f).deps = s.deps := rfl
@[simp] theorem State.modEng_ctxs (f : EngCmd → EngCmd) : (s.modEng i f).ctxs = s.ctxs := rfl
@[simp] theorem State.modEng_queues (f : EngCmd → EngCmd) : (s.modEng i f).queues = s.queues := rfl
@[simp] theorem State.modEng_faults (f : EngCmd → EngCmd) : (s.modEng i f).faults = s.faults := rfl
@[simp] theorem State.modEng_objects (f : EngCmd → EngCmd) : (s.modEng i f).objects = s.objects := rfl
@[simp] theorem State.modEng_host (f : EngCmd → EngCmd) : (s.modEng i f).host = s.host := rfl
@[simp] theorem State.modEng_sqTable (f : EngCmd → EngCmd) : (s.modEng i f).sqTable = s.sqTable := rfl
@[simp] theorem State.modEng_sqRun (f : EngCmd → EngCmd) : (s.modEng i f).sqRun = s.sqRun := rfl
@[simp] theorem State.modEng_links (f : EngCmd → EngCmd) : (s.modEng i f).links = s.links := rfl

-- modSq
@[simp] theorem State.modSq_agenda (f : SqRun → SqRun) : (s.modSq i f).agenda = s.agenda := rfl
@[simp] theorem State.modSq_cur (f : SqRun → SqRun) : (s.modSq i f).cur = s.cur := rfl
@[simp] theorem State.modSq_stalled (f : SqRun → SqRun) : (s.modSq i f).stalled = s.stalled := rfl
@[simp] theorem State.modSq_curFlag (f : SqRun → SqRun) : (s.modSq i f).curFlag = s.curFlag := rfl
@[simp] theorem State.modSq_free (f : SqRun → SqRun) : (s.modSq i f).free = s.free := rfl
@[simp] theorem State.modSq_nextId (f : SqRun → SqRun) : (s.modSq i f).nextId = s.nextId := rfl
@[simp] theorem State.modSq_clock (f : SqRun → SqRun) : (s.modSq i f).clock = s.clock := rfl
@[simp] theorem State.modSq_mem (f : SqRun → SqRun) : (s.modSq i f).mem = s.mem := rfl
@[simp] theorem State.modSq_memSyn (f : SqRun → SqRun) : (s.modSq i f).memSyn = s.memSyn := rfl
@[simp] theorem State.modSq_memEcc (f : SqRun → SqRun) : (s.modSq i f).memEcc = s.memEcc := rfl
@[simp] theorem State.modSq_outside (f : SqRun → SqRun) : (s.modSq i f).outside = s.outside := rfl
@[simp] theorem State.modSq_clusters (f : SqRun → SqRun) : (s.modSq i f).clusters = s.clusters := rfl
@[simp] theorem State.modSq_wgs (f : SqRun → SqRun) : (s.modSq i f).wgs = s.wgs := rfl
@[simp] theorem State.modSq_launches (f : SqRun → SqRun) : (s.modSq i f).launches = s.launches := rfl
@[simp] theorem State.modSq_saved (f : SqRun → SqRun) : (s.modSq i f).saved = s.saved := rfl
@[simp] theorem State.modSq_incoming (f : SqRun → SqRun) : (s.modSq i f).incoming = s.incoming := rfl
@[simp] theorem State.modSq_remote (f : SqRun → SqRun) : (s.modSq i f).remote = s.remote := rfl
@[simp] theorem State.modSq_flights (f : SqRun → SqRun) : (s.modSq i f).flights = s.flights := rfl
@[simp] theorem State.modSq_packets (f : SqRun → SqRun) : (s.modSq i f).packets = s.packets := rfl
@[simp] theorem State.modSq_cmds (f : SqRun → SqRun) : (s.modSq i f).cmds = s.cmds := rfl
@[simp] theorem State.modSq_linkReqs (f : SqRun → SqRun) : (s.modSq i f).linkReqs = s.linkReqs := rfl
@[simp] theorem State.modSq_sems (f : SqRun → SqRun) : (s.modSq i f).sems = s.sems := rfl
@[simp] theorem State.modSq_deps (f : SqRun → SqRun) : (s.modSq i f).deps = s.deps := rfl
@[simp] theorem State.modSq_ctxs (f : SqRun → SqRun) : (s.modSq i f).ctxs = s.ctxs := rfl
@[simp] theorem State.modSq_queues (f : SqRun → SqRun) : (s.modSq i f).queues = s.queues := rfl
@[simp] theorem State.modSq_faults (f : SqRun → SqRun) : (s.modSq i f).faults = s.faults := rfl
@[simp] theorem State.modSq_objects (f : SqRun → SqRun) : (s.modSq i f).objects = s.objects := rfl
@[simp] theorem State.modSq_host (f : SqRun → SqRun) : (s.modSq i f).host = s.host := rfl
@[simp] theorem State.modSq_sqTable (f : SqRun → SqRun) : (s.modSq i f).sqTable = s.sqTable := rfl
@[simp] theorem State.modSq_links (f : SqRun → SqRun) : (s.modSq i f).links = s.links := rfl

-- modPort
@[simp] theorem State.modPort_agenda (f : LinkPort → LinkPort) : (s.modPort i f).agenda = s.agenda := rfl
@[simp] theorem State.modPort_cur (f : LinkPort → LinkPort) : (s.modPort i f).cur = s.cur := rfl
@[simp] theorem State.modPort_stalled (f : LinkPort → LinkPort) : (s.modPort i f).stalled = s.stalled := rfl
@[simp] theorem State.modPort_curFlag (f : LinkPort → LinkPort) : (s.modPort i f).curFlag = s.curFlag := rfl
@[simp] theorem State.modPort_free (f : LinkPort → LinkPort) : (s.modPort i f).free = s.free := rfl
@[simp] theorem State.modPort_nextId (f : LinkPort → LinkPort) : (s.modPort i f).nextId = s.nextId := rfl
@[simp] theorem State.modPort_clock (f : LinkPort → LinkPort) : (s.modPort i f).clock = s.clock := rfl
@[simp] theorem State.modPort_mem (f : LinkPort → LinkPort) : (s.modPort i f).mem = s.mem := rfl
@[simp] theorem State.modPort_memSyn (f : LinkPort → LinkPort) : (s.modPort i f).memSyn = s.memSyn := rfl
@[simp] theorem State.modPort_memEcc (f : LinkPort → LinkPort) : (s.modPort i f).memEcc = s.memEcc := rfl
@[simp] theorem State.modPort_outside (f : LinkPort → LinkPort) : (s.modPort i f).outside = s.outside := rfl
@[simp] theorem State.modPort_clusters (f : LinkPort → LinkPort) : (s.modPort i f).clusters = s.clusters := rfl
@[simp] theorem State.modPort_wgs (f : LinkPort → LinkPort) : (s.modPort i f).wgs = s.wgs := rfl
@[simp] theorem State.modPort_launches (f : LinkPort → LinkPort) : (s.modPort i f).launches = s.launches := rfl
@[simp] theorem State.modPort_saved (f : LinkPort → LinkPort) : (s.modPort i f).saved = s.saved := rfl
@[simp] theorem State.modPort_incoming (f : LinkPort → LinkPort) : (s.modPort i f).incoming = s.incoming := rfl
@[simp] theorem State.modPort_remote (f : LinkPort → LinkPort) : (s.modPort i f).remote = s.remote := rfl
@[simp] theorem State.modPort_flights (f : LinkPort → LinkPort) : (s.modPort i f).flights = s.flights := rfl
@[simp] theorem State.modPort_packets (f : LinkPort → LinkPort) : (s.modPort i f).packets = s.packets := rfl
@[simp] theorem State.modPort_cmds (f : LinkPort → LinkPort) : (s.modPort i f).cmds = s.cmds := rfl
@[simp] theorem State.modPort_linkReqs (f : LinkPort → LinkPort) : (s.modPort i f).linkReqs = s.linkReqs := rfl
@[simp] theorem State.modPort_sems (f : LinkPort → LinkPort) : (s.modPort i f).sems = s.sems := rfl
@[simp] theorem State.modPort_deps (f : LinkPort → LinkPort) : (s.modPort i f).deps = s.deps := rfl
@[simp] theorem State.modPort_ctxs (f : LinkPort → LinkPort) : (s.modPort i f).ctxs = s.ctxs := rfl
@[simp] theorem State.modPort_queues (f : LinkPort → LinkPort) : (s.modPort i f).queues = s.queues := rfl
@[simp] theorem State.modPort_faults (f : LinkPort → LinkPort) : (s.modPort i f).faults = s.faults := rfl
@[simp] theorem State.modPort_objects (f : LinkPort → LinkPort) : (s.modPort i f).objects = s.objects := rfl
@[simp] theorem State.modPort_host (f : LinkPort → LinkPort) : (s.modPort i f).host = s.host := rfl
@[simp] theorem State.modPort_sqTable (f : LinkPort → LinkPort) : (s.modPort i f).sqTable = s.sqTable := rfl
@[simp] theorem State.modPort_sqRun (f : LinkPort → LinkPort) : (s.modPort i f).sqRun = s.sqRun := rfl

-- what they change
@[simp] theorem State.modWg_wgs (f : Workgroup → Workgroup) :
    (s.modWg i f).wgs = s.wgs.map fun w => if w.id = i then f w else w := rfl
@[simp] theorem State.stall_stalled : s.stall.stalled = true := rfl
@[simp] theorem State.modLaunch_launches (f : Launch → Launch) :
    (s.modLaunch i f).launches = s.launches.map fun l => if l.id = i then f l else l := rfl
@[simp] theorem State.modEng_cmds (f : EngCmd → EngCmd) :
    (s.modEng i f).cmds = s.cmds.map fun e => if e.id = i then f e else e := rfl

end Sys2Proof.Machine
end

