-- ==== Sys2Proof/Laws/Memory.lean ====
section
/-!
SUPPORT. Device memory and the clusters: reads after writes, and the canonical form that every memory operation keeps.
-/

namespace Sys2Proof.Machine

-- Clusters and workgroups.

/-- A cluster after a change of one. -/
theorem State.cl_modCl (s : State) (c d : Nat) (f : Cluster → Cluster) :
    (s.modCl c f).cl d = if d = c then f (s.cl c) else s.cl d := by
  rw [show (s.modCl c f).cl d = mget {} (mput s.clusters c (f (s.cl c))) d from rfl, mget_mput]
  rfl

@[simp] theorem State.cl_modCl_self (s : State) (c : Nat) (f : Cluster → Cluster) : (s.modCl c f).cl c = f (s.cl c) := by
  simp [cl_modCl]

/-- A thread of a workgroup after a change of one. -/
theorem Workgroup.thr_modThr (w : Workgroup) (t u : Nat) (f : Thread → Thread) :
    (w.modThr t f).thr u = if u = t then f (w.thr t) else w.thr u := by
  rw [show (w.modThr t f).thr u = mget {} (mput w.threads t (f (w.thr t))) u from rfl, mget_mput]
  rfl

/-- A workgroup after a change of one that keeps identities. -/
theorem State.wg?_modWg (s : State) (i j : Nat) (f : Workgroup → Workgroup) (hf : ∀ w, (f w).id = w.id) :
    (s.modWg i f).wg? j = (s.wg? j).map fun w => if w.id = i then f w else w := by
  have hp : ((fun w : Workgroup => w.id == j) ∘ fun w => if w.id = i then f w else w) = fun w => w.id == j := by
    funext w
    simp only [Function.comp]
    split <;> simp [hf]
  simp only [State.wg?, modWg_wgs, List.find?_map, hp]

theorem State.wg?_modWg_ne (s : State) {i j : Nat} (f : Workgroup → Workgroup) (hf : ∀ w, (f w).id = w.id) (h : j ≠ i) :
    (s.modWg i f).wg? j = s.wg? j := by
  rw [wg?_modWg s i j f hf]
  cases hw : s.wg? j with
  | none => rfl
  | some w =>
    have : w.id = j := by simpa using List.find?_some hw
    simp [this, h]

theorem State.wg?_modWg_self (s : State) {i : Nat} {w : Workgroup} (f : Workgroup → Workgroup)
    (hf : ∀ w, (f w).id = w.id) (h : s.wg? i = some w) : (s.modWg i f).wg? i = some (f w) := by
  have : w.id = i := by simpa using List.find?_some h
  rw [wg?_modWg s i i f hf, h]
  simp [this]

-- Device memory.

/-- What goes out on a link leaves device memory as it is. -/
@[simp] theorem State.pumpPort_mem (s : State) (k : Nat) : (s.pumpPort k).mem = s.mem := rfl
@[simp] theorem State.sendData_mem (s : State) (vc : Nat) : (s.sendData vc).mem = s.mem := by
  unfold sendData
  split <;> simp
@[simp] theorem State.outsideWrite_mem (s : State) (sp : Space) (a : Nat) (bs : List Byte) :
    (s.outsideWrite sp a bs).mem = s.mem := rfl
@[simp] theorem State.pageReads_mem (s : State) (die k n : Nat) : (s.pageReads die k n).mem = s.mem := by
  unfold pageReads
  dsimp only
  split <;> rfl
@[simp] theorem State.pageRead_mem (s : State) (die a : Nat) : (s.pageRead die a).mem = s.mem := pageReads_mem _ _ _ _
@[simp] theorem State.homeSeen_mem (s : State) (die : Nat) (sp : Space) (a : Nat) : (s.homeSeen die sp a).mem = s.mem := by
  cases sp <;> simp [homeSeen]

/-- A fold of steps that leave memory as it is leaves it as it is. -/
theorem State.foldl_mem {β : Type} (f : State → β → State) (hf : ∀ s b, (f s b).mem = s.mem) (l : List β) :
    ∀ s : State, (l.foldl f s).mem = s.mem := by
  induction l with
  | nil => exact fun _ => rfl
  | cons b l ih => exact fun s => (ih _).trans (hf s b)

@[simp] theorem State.homeSeenAll_mem (s : State) (die a n : Nat) : (s.homeSeenAll die a n).mem = s.mem :=
  foldl_mem _ (fun _ _ => pageReads_mem _ _ _ _) _ _
@[simp] theorem State.seenAt_mem (s : State) (die : Nat) (sp : Space) (a n : Nat) : (s.seenAt die sp a n).mem = s.mem := by
  cases sp <;> simp [seenAt]

@[simp] theorem State.fillSeen_mem (s : State) (c b : Nat) (sp : Space) (n : Nat) (w : Bool) :
    (s.fillSeen c b sp n w).mem = s.mem := by
  unfold fillSeen
  split <;> simp

@[simp] theorem State.l1fresh_mem (s : State) (c b : Nat) : (s.l1fresh c b).mem = s.mem :=
  foldl_mem _ (fun _ _ => homeSeen_mem _ _ _ _) _ _

@[simp] theorem State.homeWrite_dev_mem (s : State) (a : Nat) (bs : List Byte) :
    (s.homeWrite .dev a bs).mem = msets 0 s.mem a bs := by
  cases bs <;> rfl

@[simp] theorem State.homeWrite_dev_ctxs (s : State) (a : Nat) (bs : List Byte) : (s.homeWrite .dev a bs).ctxs = s.ctxs := rfl
@[simp] theorem State.homeWrite_dev_keys (s : State) (a : Nat) (bs : List Byte) : (s.homeWrite .dev a bs).keys = s.keys := rfl

theorem State.homeWrite_mem_of_ne (s : State) {sp : Space} (h : sp ≠ .dev) (a : Nat) (bs : List Byte) :
    (s.homeWrite sp a bs).mem = s.mem := by
  cases sp <;> simp_all [homeWrite]

/-- A byte of device memory after a write. -/
theorem State.homeByte_homeWrite (s : State) (a b : Nat) (bs : List Byte) :
    (s.homeWrite .dev a bs).homeByte .dev b =
      if a ≤ b then (bs[b - a]?).getD (s.homeByte .dev b) else s.homeByte .dev b := by
  simp only [homeByte, homeWrite_dev_mem]
  exact mget_msets 0 bs s.mem a b

/-- Bytes written to device memory read back. -/
theorem State.homeBytes_homeWrite (s : State) (a : Nat) (bs : List Byte) :
    (s.homeWrite .dev a bs).homeBytes .dev a bs.length = bs := by
  apply List.ext_getElem
  · simp [homeBytes]
  · intro i h _
    simp only [homeBytes, List.length_map, List.length_range] at h
    simp [homeBytes, homeByte_homeWrite, h]

/-- The canonical form is kept by a write at home. -/
theorem State.homeWrite_wf {s : State} (h : Memory.wf s.mem = true) (sp : Space) (a : Nat) (bs : List Byte) :
    Memory.wf (s.homeWrite sp a bs).mem = true := by
  by_cases hs : sp = .dev
  · subst hs
    rw [homeWrite_dev_mem]
    exact mwf_msets 0 bs a h
  · rwa [homeWrite_mem_of_ne s hs]

/-- A fold of steps that keep the canonical form keeps it. -/
theorem State.foldl_wf {β : Type} (f : State → β → State) (hf : ∀ s b, Memory.wf s.mem = true → Memory.wf (f s b).mem = true)
    (l : List β) : ∀ s : State, Memory.wf s.mem = true → Memory.wf (l.foldl f s).mem = true := by
  induction l with
  | nil => exact fun _ h => h
  | cons b l ih => exact fun s h => ih _ (hf s b h)

theorem State.homeMask_wf {s : State} (h : Memory.wf s.mem = true) (sp : Space) (a : Nat) (m : Mask) (bs : List Byte) :
    Memory.wf (s.homeMask sp a m bs).mem = true := by
  have each (put : State → Nat → List Byte → State)
      (hp : ∀ s a bs, Memory.wf s.mem = true → Memory.wf (put s a bs).mem = true) :
      Memory.wf (((List.range bs.length).zip bs).foldl
        (fun s b => if m.getLsbD b.1 then put s (a + b.1) [b.2] else s) s).mem = true :=
    State.foldl_wf _ (fun s b hs => by
      split
      · exact hp _ _ _ hs
      · exact hs) _ _ h
  have hw := each (fun s a bs => s.homeWrite sp a bs) fun s a bs hs => homeWrite_wf hs _ _ _
  have ho := each (fun s a bs => s.outsideWrite sp a bs) fun s a bs hs => hs
  unfold homeMask
  dsimp only
  split
  · exact homeWrite_wf h _ _ _
  · cases sp <;> first | exact hw | (rw [sendData_mem]; exact ho)

@[simp] theorem State.keepBad_mem (s : State) (sp : Space) (a : Nat) (bad : Option Nat) :
    (s.keepBad sp a bad).mem = s.mem := by
  cases bad <;> rfl

theorem State.lineOut_wf {s : State} (h : Memory.wf s.mem = true) (c : Nat) (l : L1Line) :
    Memory.wf (s.lineOut c l).mem = true := by
  have hm := homeMask_wf h l.sp (32 * l.line) l.dirty (vbytes l.data)
  unfold lineOut
  split
  · exact h
  · dsimp only
    split
    · exact hm
    · split
      · exact hm
      · rwa [keepBad_mem]

/-- Writing a line back keeps the canonical form. -/
theorem State.lineHome_wf {s : State} (h : Memory.wf s.mem = true) (c : Nat) (l : L1Line) :
    Memory.wf (s.lineHome c l).mem = true := by
  have ho := lineOut_wf h c l
  unfold lineHome
  dsimp only
  repeat' split
  all_goals exact ho

theorem State.lineShared_wf {s : State} (h : Memory.wf s.mem = true) (c : Nat) (l : L1Line) :
    Memory.wf (s.lineShared c l).mem = true := by
  unfold lineShared
  split
  · simpa using h
  · exact lineHome_wf h c l

theorem State.l1flush_wf {s : State} (h : Memory.wf s.mem = true) (c : Nat) (p : L1Line → Bool) :
    Memory.wf (s.l1flush c p).mem = true := by
  unfold l1flush l1clean
  rw [modCl_mem]
  exact State.foldl_wf _ (fun s l hs => lineHome_wf hs c l) _ _ (State.foldl_wf _ (fun s l hs => lineHome_wf hs c l) _ _ h)

@[simp] theorem State.l1drop_mem (s : State) (c : Nat) (p : L1Line → Bool) : (s.l1drop c p).mem = s.mem := rfl
@[simp] theorem State.conflict_mem (s : State) (c : Nat) (me : Option UnitId) (w : Bool) (l : LineId) :
    (s.conflict c me w l).mem = s.mem := rfl

/-- A pipe's write keeps the canonical form. -/
theorem State.writeLoc_wf {s : State} (h : Memory.wf s.mem = true) (c p : Nat) (alloc : Bool) (l : Loc) (bs : List Byte) :
    Memory.wf (s.writeLoc c p alloc l bs).mem = true := by
  unfold writeLoc memWrite
  cases l with
  | sram k o => exact h
  | mem sp a nc =>
    dsimp only
    split
    · split
      · exact homeWrite_wf h _ _ _
      · simpa using h
    · exact homeWrite_wf h _ _ _

/-- A pipe's read keeps the canonical form. -/
theorem State.readLoc_wf {s : State} (h : Memory.wf s.mem = true) (c p : Nat) (alloc : Bool) (l : Loc) (n : Nat) :
    Memory.wf (s.readLoc c p alloc l n).1.mem = true := by
  unfold readLoc memRead
  cases l with
  | sram k o => exact h
  | mem sp a nc =>
    dsimp only
    split
    · dsimp only
      repeat' split
      all_goals simpa using h
    · simpa using h

/-- An engine's write keeps the canonical form. -/
theorem State.engineWrite_wf {s : State} (h : Memory.wf s.mem = true) (c : Nat) (l : Loc) (bs : List Byte) :
    Memory.wf (s.engineWrite c l bs).mem = true := by
  unfold engineWrite
  cases l with
  | sram k o => exact State.foldl_wf (fun s n => s.conflict k none true ⟨true, n⟩) (fun _ _ hs => hs) _ _ h
  | mem sp a nc =>
    refine homeWrite_wf ?_ _ _ _
    rw [l1drop_mem]
    refine l1flush_wf ?_ _ _
    split
    · exact State.foldl_wf (fun s n => s.conflict c none true ⟨false, n⟩) (fun _ _ hs => hs) _ _ h
    · exact h

/-- A release keeps the canonical form, and an acquire leaves memory as it is. -/
theorem State.releaseAt_wf {s : State} (h : Memory.wf s.mem = true) (c p : Nat) (sc : Scope) :
    Memory.wf (s.releaseAt c p sc).mem = true := by
  cases sc <;> simp only [releaseAt]
  case pipe => exact h
  case quad | cluster =>
    split
    · exact h
    · exact State.foldl_wf (fun s l => s.lineShared c l) (fun _ _ hs => lineShared_wf hs _ _) _ _ h
  all_goals exact l1flush_wf h _ _

@[simp] theorem State.acquireAt_mem (s : State) (c p : Nat) (sc : Scope) : (s.acquireAt c p sc).mem = s.mem := by
  cases sc <;> simp only [acquireAt]
  all_goals
    repeat' split
    all_goals simp

/-- The error log keeps the canonical form. -/
theorem State.logError_wf {s : State} (h : Memory.wf s.mem = true) (code ctx hi : Nat) (second : Word) :
    Memory.wf (s.logError code ctx hi second).mem = true := by
  unfold logError
  repeat' split
  all_goals first | exact h | exact homeWrite_wf h _ _ _

/-- Reset memory is canonical. -/
theorem State.reset_wf : Memory.wf State.reset.mem = true := rfl

end Sys2Proof.Machine
end

