-- ==== Sys2Proof/Laws/MlDsa.lean ====
section
/-!
SUPPORT. ML-DSA-87 verification: a public key whose vector t1 is zero takes a signature that is known beforehand, its
response and hints zero and its challenge the hash of the message with a zero vector. It is the one key for which a
signature is at hand without evaluating the transform, and serves as a witness that verification can succeed.
-/

namespace Sys2Proof.Machine

/-- A signature of another length does not verify. -/
theorem mlDsaVerify_length {key msg sig : List Byte} (h : sig.length ≠ 4627) : mlDsaVerify key msg sig = false := by
  simp only [mlDsaVerify, decide_eq_false h]
  split <;> simp only [Bool.and_false, Bool.false_and]

/-- A polynomial whose coefficients are all 0. -/
def allZero (p : Poly) : Prop := ∀ x ∈ p, x = 0

theorem allZero_append {a b : Poly} (ha : allZero a) (hb : allZero b) : allZero (a ++ b) := by
  intro x hx; rcases List.mem_append.1 hx with h | h
  · exact ha x h
  · exact hb x h

theorem allZero_zipWith {f : Nat → Nat → Nat} {a b : Poly} (h : ∀ x ∈ a, ∀ y ∈ b, f x y = 0) :
    allZero (List.zipWith f a b) := by
  induction a generalizing b with
  | nil => simp [allZero]
  | cons x a ih =>
    cases b with
    | nil => simp [allZero]
    | cons y b =>
      intro z hz
      rcases List.mem_cons.1 hz with rfl | hz
      · exact h x (by simp) y (by simp)
      · exact ih (fun u hu v hv => h u (by simp [hu]) v (by simp [hv])) z hz

theorem allZero_map {f : Nat → Nat} {a : Poly} (hf : f 0 = 0) (ha : allZero a) : allZero (a.map f) := by
  intro x hx
  obtain ⟨y, hy, rfl⟩ := List.mem_map.1 hx
  rw [ha y hy, hf]

theorem allZero_polyAdd {a b : Poly} (ha : allZero a) (hb : allZero b) : allZero (polyAdd a b) :=
  allZero_zipWith fun x hx y hy => by rw [ha x hx, hb y hy]; rfl

theorem allZero_polySub {a b : Poly} (ha : allZero a) (hb : allZero b) : allZero (polySub a b) :=
  allZero_zipWith fun x hx y hy => by rw [ha x hx, hb y hy]; rfl

theorem allZero_polyMul {a b : Poly} (hb : allZero b) : allZero (polyMul a b) :=
  allZero_zipWith fun x _ y hy => by rw [hb y hy]; simp

theorem allZero_take {a : Poly} (n : Nat) (ha : allZero a) : allZero (a.take n) := fun x hx => ha x (List.mem_of_mem_take hx)
theorem allZero_drop {a : Poly} (n : Nat) (ha : allZero a) : allZero (a.drop n) := fun x hx => ha x (List.mem_of_mem_drop hx)

theorem allZero_nttFrom (n m : Nat) {a : Poly} (ha : allZero a) : allZero (nttFrom n m a) := by
  induction n generalizing m a with
  | zero => exact ha
  | succ n ih =>
    have t := allZero_map (f := fun x => zeta m * x % dsaQ) (by simp) (allZero_drop (2 ^ n) ha)
    exact allZero_append (ih _ (allZero_polyAdd (allZero_take _ ha) t)) (ih _ (allZero_polySub (allZero_take _ ha) t))

theorem allZero_nttBack (n m : Nat) {a : Poly} (ha : allZero a) : allZero (nttBack n m a) := by
  induction n generalizing m a with
  | zero => exact ha
  | succ n ih =>
    have l := ih (2 * m + 1) (allZero_take (2 ^ n) ha)
    have h := ih (2 * m) (allZero_drop (2 ^ n) ha)
    exact allZero_append (allZero_polyAdd l h) (allZero_map (by simp) (allZero_polySub l h))

theorem allZero_nttInv {a : Poly} (ha : allZero a) : allZero (nttInv a) :=
  allZero_map (by simp) (allZero_nttBack 8 1 ha)

/-- A sum of products whose second factors are zero is zero. -/
theorem allZero_foldl {l : List (Nat × Poly)} (f : Nat → Poly) {a : Poly} (ha : allZero a)
    (hl : ∀ p ∈ l, allZero p.2) : allZero (l.foldl (fun a p => polyAdd a (polyMul (f p.1) p.2)) a) := by
  induction l generalizing a with
  | nil => exact ha
  | cons p l ih =>
    exact ih (allZero_polyAdd ha (allZero_polyMul (hl p (by simp)))) fun q hq => hl q (by simp [hq])

theorem foldr_zero {l : List Nat} (h : ∀ x ∈ l, x = 0) : l.foldr (fun x n => x + 16 * n) 0 = 0 := by
  induction l with
  | nil => rfl
  | cons x l ih =>
    rw [List.foldr_cons, ih fun y hy => h y (by simp [hy]), h x (by simp)]

theorem keccakRound_length (a : List Word) (rc : Word) : (keccakRound a rc).length = 25 := by
  simp [keccakRound, keccakChi]

theorem keccakF_length (a : List Word) : (keccakF a).length = 25 := by
  have h : ∀ (l : List Word) (a : List Word), l ≠ [] ∨ a.length = 25 → (l.foldl keccakRound a).length = 25 := by
    intro l
    induction l with
    | nil => exact fun _ h => h.resolve_left (by simp)
    | cons r l ih => exact fun a _ => ih _ (.inr (keccakRound_length a r))
  exact h _ _ (.inl (by simp [keccakRc]))

theorem keccakAbsorb_length (k n : Nat) (a : List Word) (bs : List Byte) (h : a.length = 25) :
    (keccakAbsorb k n a bs).length = 25 := by
  induction n generalizing a bs with
  | zero => exact h
  | succ n ih =>
    rw [keccakAbsorb]
    split
    · exact h
    · exact ih _ _ (keccakF_length _)

/-- 64 bytes of SHAKE256 are 64 bytes. -/
theorem shake256_length (m : List Byte) : (shake256 m 64).length = 64 := by
  have h : (sponge 17 0x1F m).length = 25 := keccakAbsorb_length _ _ _ _ (by simp)
  have f : ∀ l : List Word, (l.flatMap fun w => leBytes 8 w.toNat).length = 8 * l.length := by
    intro l
    induction l with
    | nil => rfl
    | cons w l ih => simp [ih, leBytes_length]; omega
  simp [shake256, squeeze, f, h]

/-- A public key with t1 zero. -/
def zeroKey : List Byte := List.replicate 2592 0

/-- What follows the challenge in its signatures: seven responses of zero, and no hints. -/
def zeroTail : List Byte := (List.replicate 896 [0, 0, 8, 0, 0x80]).flatten ++ List.replicate 83 0

/-- Its signature of a message. -/
def zeroSign (msg : List Byte) : List Byte :=
  shake256 (shake256 (shake256 zeroKey 64 ++ [0, 0] ++ msg) 64 ++ List.replicate 1024 0) 64 ++ zeroTail

theorem zeroSign_length (msg : List Byte) : (zeroSign msg).length = 4627 := by
  have h : zeroTail.length = 4563 := by decide +kernel
  rw [zeroSign, List.length_append, shake256_length, h]

theorem zeroSign_drop (msg : List Byte) (n : Nat) : (zeroSign msg).drop (64 + n) = zeroTail.drop n := by
  rw [zeroSign, ← List.drop_drop, List.drop_left' (shake256_length _)]

set_option maxRecDepth 100000 in
/-- A signature of `zeroSign` verifies. -/
theorem mlDsaVerify_zeroSign (msg : List Byte) : mlDsaVerify zeroKey msg (zeroSign msg) = true := by
  have hz : ∀ i, ((zeroSign msg).drop (64 + 640 * i)).take 640 = (zeroTail.drop (640 * i)).take 640 :=
    fun i => by rw [zeroSign_drop]
  have hh : (zeroSign msg).drop 4544 = zeroTail.drop 4480 := zeroSign_drop msg 4480
  have hc : (zeroSign msg).take 64 = shake256 (shake256 (shake256 zeroKey 64 ++ [0, 0] ++ msg) 64 ++ List.replicate 1024 0) 64 := by
    rw [zeroSign, List.take_left' (shake256_length _)]
  have places : hintPlaces (zeroTail.drop 4480) = some (List.replicate 8 []) := by decide +kernel
  have z : (List.range 7).map (fun i => unpackPoly 20 ((zeroTail.drop (640 * i)).take 640)) =
      List.replicate 7 (List.replicate 256 dsaGamma) := by decide +kernel
  have t1 : (List.range 8).map (fun i => unpackPoly 10 ((zeroKey.drop (32 + 320 * i)).take 320)) =
      List.replicate 8 (List.replicate 256 0) := by decide +kernel
  have small : ((List.replicate 7 (List.replicate 256 dsaGamma)).all fun p => p.all fun x =>
      decide (121 ≤ x) && decide (x + 121 ≤ 2 * dsaGamma)) = true := by decide +kernel
  have row : ∀ (cs : Poly) (r : Nat), (((List.range 256).zip (nttInv (polySub
      (((List.range 7).zip ((List.replicate 7 (List.replicate 256 dsaGamma)).map fun p =>
        ntt (p.map fun x => (dsaGamma + dsaQ - x) % dsaQ))).foldl (fun a p =>
          polyAdd a (polyMul (expandEntry (zeroKey.take 32) r p.1) p.2)) (List.replicate 256 0))
      (polyMul cs (ntt (((List.replicate 8 (List.replicate 256 0)).getD r []).map fun x => x * 8192 % dsaQ)))))).map
        fun p => useHint (((List.replicate 8 []).getD r []).contains p.1) p.2).foldr (fun x n => x + 16 * n) 0 = 0 := by
    intro cs r
    have e : ∀ {α : Type} (k : Nat) (b : List α), (List.replicate k b).getD r [] = if r < k then b else [] := by
      intro α k b
      simp [List.getD_eq_getElem?_getD, List.getElem?_replicate]
      split <;> rfl
    have zeros : ∀ n, allZero (List.replicate n 0) := fun n x hx => (List.mem_replicate.1 hx).2
    have w := allZero_nttInv (allZero_polySub (b := polyMul cs (ntt (((List.replicate 8
        (List.replicate 256 0)).getD r []).map fun x => x * 8192 % dsaQ)))
      (allZero_foldl (l := (List.range 7).zip ((List.replicate 7 (List.replicate 256 dsaGamma)).map fun p =>
        ntt (p.map fun x => (dsaGamma + dsaQ - x) % dsaQ))) (expandEntry (zeroKey.take 32) r) (zeros 256) ?_)
      (allZero_polyMul (allZero_nttFrom _ _ (allZero_map (by simp) ?_))))
    · refine foldr_zero fun x hx => ?_
      obtain ⟨p, hp, rfl⟩ := List.mem_map.1 hx
      have : p.2 = 0 := w _ (List.of_mem_zip hp).2
      rw [e, this]
      simp [useHint]
    · intro p hp
      have := (List.of_mem_zip hp).2
      simp only [List.map_replicate, List.mem_replicate] at this
      rw [this.2]
      refine allZero_nttFrom _ _ fun x hx => ?_
      rw [(List.mem_replicate.1 hx).2]
      decide
    · rw [e]
      split
      · exact zeros 256
      · simp [allZero]
  have len : zeroKey.length = 2592 := by decide +kernel
  have high : (List.range 8).flatMap (fun _ => leBytes 128 0) = List.replicate 1024 0 := by decide +kernel
  simp only [mlDsaVerify, hz, hh, hc, places, z, t1, small, row, high, len, zeroSign_length]
  simp

end Sys2Proof.Machine
end

