-- ==== Sys2Proof/Laws/Ops.lean ====
section
/-!
SUPPORT. What the shared operations do, once each: running a meaning for the unit that issues, the gate before the operands,
the frame of the instructions that compute lane by lane, traps, and the step.
-/

namespace Sys2Proof.Machine

/-- A meaning runs for the unit that issues. -/
theorem State.onUnit_of_issues {s : State} {x : Issuer} (h : s.Issues x) (f : Issuer → State) :
    s.onUnit f = .next (f x) := by
  simp [onUnit, h.2]

/-- With the operands ready, the gate lets the instruction go with no trap of its ports (R76, R230, R231). -/
theorem State.gate_of_ready {s : State} {x : Issuer} {f : Fields} (h : s.OperandsReady x f) : s.gate x f = .go [] := by
  obtain ⟨h1, h2, h3⟩ := h
  have ha : (f.usesPort && x.u.tx.isSome) = false := by
    cases hp : f.usesPort <;> simp [hp, h1]
  have hb : s.scoreboard x f.all = false := by
    simp only [scoreboard, List.any_eq_false]
    simpa using fun t ht r hr hn => h2 t ht r hr hn
  have hc : x.active.filterMap (fun t => s.portTrap x.w t f) = [] := by
    simpa using fun t ht => (h3 t ht).1
  have hd : (x.active.all fun t => (x.w.thr t).portsReady f) = true := by
    simpa using fun t ht => (h3 t ht).2
  simp [gate, ha, hb, hc, hd]

/-- With the operands ready and no lane that traps, an instruction that computes lane by lane completes (R130, R131). -/
theorem State.lanewise_of_ready {s : State} {x : Issuer} {f : Fields} (fn : LaneFn) (h : s.OperandsReady x f)
    (hn : ∀ t ∈ x.active, laneTrap x.u.sh.fcsr t (fn (x.lane f (s.free, s.clock)) t) = none) :
    s.lanewise x f fn = s.commit x f fun t => laneOut (fn (x.lane f (s.free, s.clock)) t) := by
  have ho : (x.readable f).filterMap (fun t => laneTrap x.u.sh.fcsr t (fn (x.lane f (s.free, s.clock)) t)) = [] := by
    simp only [List.filterMap_eq_nil_iff, Issuer.readable, List.mem_filter]
    exact fun t ht => hn t ht.1
  have hm : mergeTraps x.active [] [] = [] := by
    simp [mergeTraps]
  simp [lanewise, gate_of_ready h, ho, hm]

/-- A lane whose flags raise no enabled exception does not trap (R121). -/
theorem laneTrap_ok {fcsr : Word} {t : Nat} {o : LaneOut} (h : o.fl &&& fcsrEn fcsr = 0) :
    laneTrap fcsr t (.ok o) = none := by
  simp [laneTrap, fpTrap, h]

/-- An instruction whose meaning is lanewise completes with its lanes' results. -/
theorem State.completes_of_lanewise {s : State} {x : Issuer} {f : Fields} {i : Instr} (out : (Nat → Vals) → Nat → LaneOut)
    (h : exec i s = s.onUnit fun x => s.lanewise x f fun v t => .ok (out v t)) : s.Completes x f i out := by
  intro hi hr ht
  rw [h, onUnit_of_issues hi, lanewise_of_ready _ hr fun t hm => laneTrap_ok (ht t hm)]
  rfl

/-- In a transaction a trap aborts it and nothing else (R297). -/
theorem State.trapLanes_tx {s : State} {x : Issuer} {y : Tx} (h : x.u.tx = some y) (j : Bool) (ts : List LaneTrap) :
    s.trapLanes x j ts = s.txAbort x.id.wg x.id.t (abortStatus 3 0 ((ts.map (·.2.1)).headD 0)) := by
  simp [trapLanes, h]

/-- A split thread leaves its claused run and takes its trap (R74, R378). -/
theorem State.trapLanes_split {s : State} {x : Issuer} (h : x.u.tx = none) (hg : x.grp = none) (j : Bool) (l : LaneTrap) :
    s.trapLanes x j [l] = (s.endClause x).takeTrap x.id.wg l.1 false l.2.1 l.2.2 x.pc := by
  simp [trapLanes, h, hg]

/-- s0 and q0 keep their values (R93). -/
@[simp] theorem LaneRegs.sget_zero (r : LaneRegs) : r.sget 0 = 0 := rfl
@[simp] theorem LaneRegs.qget_zero (r : LaneRegs) : r.qget 0 = BitVec.allOnes 32 := rfl
@[simp] theorem LaneRegs.sset_zero (r : LaneRegs) (v : Word) : r.sset 0 v = r := rfl
@[simp] theorem Shared.kget_zero (h : Shared) : h.kget 0 = 0 := rfl

/-- Scalar registers: read after write (R93). -/
theorem LaneRegs.sget_sset (r : LaneRegs) (i j : R5) (v : Word) :
    (r.sset i v).sget j = if j = i ∧ i ≠ 0 then v else r.sget j := by
  unfold sset sget
  by_cases hi : i = 0
  · subst hi
    by_cases hj : j = 0 <;> simp [hj]
  · by_cases hj : j = 0
    · have : ¬(0 : R5) = i := fun h => hi h.symm
      rw [if_pos hj, if_pos hj, if_neg (fun h => this (hj.symm.trans h.1))]
    · simp only [hi, hj, if_false, mget_mset, BitVec.toNat_inj, ne_eq, not_false_eq_true, and_true]

/-- Vector registers: read after write. -/
theorem LaneRegs.vget_vset (r : LaneRegs) (i j : R5) (v : Vec) :
    (r.vset i v).vget j = if j = i then v else r.vget j := by
  simp only [vset, vget, mget_mset, BitVec.toNat_inj]

/-- Uniform registers: read after write (R36). -/
theorem Shared.kget_kset (h : Shared) (i j : Nat) (v : Word) :
    (h.kset i v).kget j = if j = i ∧ i ≠ 0 then v else h.kget j := by
  unfold kset kget
  by_cases hi : i = 0
  · subst hi
    by_cases hj : j = 0 <;> simp [hj]
  · by_cases hj : j = 0
    · have : ¬0 = i := fun h => hi h.symm
      simp [hj, this]
    · simp [hi, hj, mget_mset]

end Sys2Proof.Machine
end

