-- ==== Sys2Proof/Laws/PerInstr.lean ====
section
/-!
SUPPORT. Decode and encode agree, instruction by instruction: the word of a well-formed instruction decodes to it.
-/

namespace Sys2Proof.Laws

set_option linter.unusedSimpArgs false

/-- The decoder gives the instruction back from its word. -/
def RoundTrip.Statement (i : Instr) : Prop := i.WellFormed → ∀ w, encode i = some w → decode w = .ok i

theorem elemTyOf_code (x : ElemTy) : elemTyOf x.code = some x := by cases x <;> rfl
theorem rmOf_code (x : Rm) : rmOf x.code = some x := by cases x <;> rfl
theorem fmtOf3_code (x : Fmt) : fmtOf3 x.code = some x := by cases x <;> rfl
theorem hintOf_code (x : Hint) : hintOf x.code = some x := by cases x <;> rfl
theorem fsizeOf_code (x : FSize) : fsizeOf x.code = some x := by cases x <;> rfl
theorem redOpOf_code (x : RedOp) : redOpOf x.code = some x := by cases x <;> rfl
theorem voteKindOf_code (x : VoteKind) : voteKindOf x.code = some x := by cases x <;> rfl
theorem sgnOpOf_code (x : SgnOp) : sgnOpOf x.code = some x := by cases x <;> rfl
theorem cmpOpOf_code (x : CmpOp) : cmpOpOf x.code = some x := by cases x <;> rfl
theorem kOpOf_code (x : KOp) : kOpOf x.code = some x := by cases x <;> rfl
theorem kCondOf_code (x : KCond) : kCondOf x.code = some x := by cases x <;> rfl
theorem qOpOf_code (x : QOp) : qOpOf x.code = some x := by cases x <;> rfl
theorem mtypeOf_code (x : MType) : mtypeOf x.code = some x := by cases x <;> rfl
theorem scopeOf_code (x : Scope) : scopeOf x.code = x := by cases x <;> rfl
theorem ordOf_code (x : Ord) : ordOf x.code = x := by cases x <;> rfl
theorem logOpOf_code (x : LogOp) : logOpOf x.code = x := by cases x <;> rfl
theorem dirOf_code (x : Dir) : dirOf x.code = x := by cases x <;> rfl
theorem topoOf_code (x : Topo) : topoOf x.code = x := by cases x <;> rfl

theorem aselOf_code (x : ASel) : aselOf x.code = some x := by
  cases x with
  | regs b => revert b; decide
  | kstep k => revert k; decide
theorem bselOf_code (x : BSel) : bselOf x.code = some x := by
  cases x with
  | regs b => revert b; decide
  | buf n => revert n; decide

theorem major_decodeOpr {w : Insn} (h : w.extractLsb' 26 6 = 0x01#6) : decodeFields w = decodeOpr w := by
  unfold decodeFields
  rw [h]
  rfl

theorem major_decodeShi {w : Insn} (h : w.extractLsb' 26 6 = 0x08#6) : decodeFields w = decodeShi w := by
  unfold decodeFields
  rw [h]
  rfl

theorem major_decodeBr {w : Insn} (h : w.extractLsb' 26 6 = 0x0B#6) : decodeFields w = decodeBr w := by
  unfold decodeFields
  rw [h]
  rfl

theorem major_decodeLoad {w : Insn} (h : w.extractLsb' 26 6 = 0x0F#6) : decodeFields w = decodeLoad w := by
  unfold decodeFields
  rw [h]
  rfl

theorem major_decodeStore {w : Insn} (h : w.extractLsb' 26 6 = 0x10#6) : decodeFields w = decodeStore w := by
  unfold decodeFields
  rw [h]
  rfl

theorem major_decodeAtom {w : Insn} (h : w.extractLsb' 26 6 = 0x11#6) : decodeFields w = decodeAtom w := by
  unfold decodeFields
  rw [h]
  rfl

theorem major_decodeSync {w : Insn} (h : w.extractLsb' 26 6 = 0x12#6) : decodeFields w = decodeSync w := by
  unfold decodeFields
  rw [h]
  rfl

theorem major_decodeFps {w : Insn} (h : w.extractLsb' 26 6 = 0x13#6) : decodeFields w = decodeFps w := by
  unfold decodeFields
  rw [h]
  rfl

theorem major_decodeFma {w : Insn} (h : w.extractLsb' 26 6 = 0x14#6) : decodeFields w = decodeFma w := by
  unfold decodeFields
  rw [h]
  rfl

theorem major_decodeVint {w : Insn} (h : w.extractLsb' 26 6 = 0x15#6) : decodeFields w = decodeVint w := by
  unfold decodeFields
  rw [h]
  rfl

theorem major_decodeVfp {w : Insn} (h : w.extractLsb' 26 6 = 0x16#6) : decodeFields w = decodeVfp w := by
  unfold decodeFields
  rw [h]
  rfl

theorem major_decodeVfma {w : Insn} (h : w.extractLsb' 26 6 = 0x17#6) : decodeFields w = decodeVfma w := by
  unfold decodeFields
  rw [h]
  rfl

theorem major_decodeVmisc {w : Insn} (h : w.extractLsb' 26 6 = 0x18#6) : decodeFields w = decodeVmisc w := by
  unfold decodeFields
  rw [h]
  rfl

theorem major_decodeVmem {w : Insn} (h : w.extractLsb' 26 6 = 0x19#6) : decodeFields w = decodeVmem w := by
  unfold decodeFields
  rw [h]
  rfl

theorem major_decodeLane {w : Insn} (h : w.extractLsb' 26 6 = 0x1A#6) : decodeFields w = decodeLane w := by
  unfold decodeFields
  rw [h]
  rfl

theorem major_decodeCvt {w : Insn} (h : w.extractLsb' 26 6 = 0x1B#6) : decodeFields w = decodeCvt w := by
  unfold decodeFields
  rw [h]
  rfl

theorem major_decodeSfu {w : Insn} (h : w.extractLsb' 26 6 = 0x1C#6) : decodeFields w = decodeSfu w := by
  unfold decodeFields
  rw [h]
  rfl

theorem major_decodeUni {w : Insn} (h : w.extractLsb' 26 6 = 0x1D#6) : decodeFields w = decodeUni w := by
  unfold decodeFields
  rw [h]
  rfl

theorem major_decodeMode {w : Insn} (h : w.extractLsb' 26 6 = 0x1E#6) : decodeFields w = decodeMode w := by
  unfold decodeFields
  rw [h]
  rfl

theorem major_decodeMma {w : Insn} (h : w.extractLsb' 26 6 = 0x1F#6) : decodeFields w = decodeMma w := by
  unfold decodeFields
  rw [h]
  rfl

theorem major_decodeMat {w : Insn} (h : w.extractLsb' 26 6 = 0x20#6) : decodeFields w = decodeMat w := by
  unfold decodeFields
  rw [h]
  rfl

theorem major_decodeKey {w : Insn} (h : w.extractLsb' 26 6 = 0x21#6) : decodeFields w = decodeKey w := by
  unfold decodeFields
  rw [h]
  rfl

theorem major_decodeEng {w : Insn} (h : w.extractLsb' 26 6 = 0x22#6) : decodeFields w = decodeEng w := by
  unfold decodeFields
  rw [h]
  rfl

theorem major_decodeMsg {w : Insn} (h : w.extractLsb' 26 6 = 0x23#6) : decodeFields w = decodeMsg w := by
  unfold decodeFields
  rw [h]
  rfl

theorem major_decodeTask {w : Insn} (h : w.extractLsb' 26 6 = 0x24#6) : decodeFields w = decodeTask w := by
  unfold decodeFields
  rw [h]
  rfl

theorem major_decodeSys {w : Insn} (h : w.extractLsb' 26 6 = 0x25#6) : decodeFields w = decodeSys w := by
  unfold decodeFields
  rw [h]
  rfl

theorem major_decodeClause {w : Insn} (h : w.extractLsb' 26 6 = 0x3E#6) : decodeFields w = decodeClause w := by
  unfold decodeFields
  rw [h]
  rfl

theorem RoundTrip.add w rd ra rb : Statement (.add w rd ra rb) := by
  intro hw x hx
  obtain rfl := Option.some.inj hx
  refine decode_of ?_ hw
  refine (major_decodeOpr (rrf_26_6 _ _ _ _ _)).trans ?_
  simp only [decodeOpr, rrf_z15, rrf_z10, vfn_7_4, vfn_3_4, vfn_0_3, ffn_6_5, ffn_4_2, ffn_1_3, ffn_b0, afn_5_6, afn_0_5, afn_mod, afn_bit, hbM_0_4, hbM_b4, z14_0_4, z14_b4, z23_0_3, z23_3_2, z32_0_2, z32_3_2, z32_2_3, z32_b2, ktM_0_2, ktM_3_2, ktM_b2, rc23_3_2, rc23_0_3, rc32_2_3, rc32_0_2, obM_0_2, obM_b2, obM_b3, obM_b4, cvtF_9_2, cvtF_5_4, cvtF_2_3, cvtF_0_2, vcvtF_9_2, vcvtF_6_3, vcvtF_3_3, vcvtF_0_3, vscF_9_2, vscF_7_2, vscF_5_2, vscF_2_3, vscF_0_2, sfuF_8_3, sfuF_b7, sfuF_3_4, sfuF_0_3, rrf_21_5, rrf_16_5, rrf_11_5, rrf_rd, rrf_ra, rrf_rb, rrf_fn, rrf_bit, rrf_rb_bit, rrf_ra_bit, rrf_rd_bit, coded, need, BitVec.extractLsb'_eq_self, Nat.reduceLeDiff, Nat.reduceAdd, Nat.reduceSub, Nat.reduceLT, elemTyOf_code, rmOf_code, fmtOf3_code, hintOf_code, fsizeOf_code, redOpOf_code, voteKindOf_code, sgnOpOf_code, cmpOpOf_code, kOpOf_code, kCondOf_code, qOpOf_code, mtypeOf_code, scopeOf_code, ordOf_code, logOpOf_code, dirOf_code, topoOf_code, aselOf_code, bselOf_code]
  cases w <;> rfl

theorem RoundTrip.sub w rd ra rb : Statement (.sub w rd ra rb) := by
  intro hw x hx
  obtain rfl := Option.some.inj hx
  refine decode_of ?_ hw
  refine (major_decodeOpr (rrf_26_6 _ _ _ _ _)).trans ?_
  simp only [decodeOpr, rrf_z15, rrf_z10, vfn_7_4, vfn_3_4, vfn_0_3, ffn_6_5, ffn_4_2, ffn_1_3, ffn_b0, afn_5_6, afn_0_5, afn_mod, afn_bit, hbM_0_4, hbM_b4, z14_0_4, z14_b4, z23_0_3, z23_3_2, z32_0_2, z32_3_2, z32_2_3, z32_b2, ktM_0_2, ktM_3_2, ktM_b2, rc23_3_2, rc23_0_3, rc32_2_3, rc32_0_2, obM_0_2, obM_b2, obM_b3, obM_b4, cvtF_9_2, cvtF_5_4, cvtF_2_3, cvtF_0_2, vcvtF_9_2, vcvtF_6_3, vcvtF_3_3, vcvtF_0_3, vscF_9_2, vscF_7_2, vscF_5_2, vscF_2_3, vscF_0_2, sfuF_8_3, sfuF_b7, sfuF_3_4, sfuF_0_3, rrf_21_5, rrf_16_5, rrf_11_5, rrf_rd, rrf_ra, rrf_rb, rrf_fn, rrf_bit, rrf_rb_bit, rrf_ra_bit, rrf_rd_bit, coded, need, BitVec.extractLsb'_eq_self, Nat.reduceLeDiff, Nat.reduceAdd, Nat.reduceSub, Nat.reduceLT, elemTyOf_code, rmOf_code, fmtOf3_code, hintOf_code, fsizeOf_code, redOpOf_code, voteKindOf_code, sgnOpOf_code, cmpOpOf_code, kOpOf_code, kCondOf_code, qOpOf_code, mtypeOf_code, scopeOf_code, ordOf_code, logOpOf_code, dirOf_code, topoOf_code, aselOf_code, bselOf_code]
  cases w <;> rfl

theorem RoundTrip.and w rd ra rb : Statement (.and w rd ra rb) := by
  intro hw x hx
  obtain rfl := Option.some.inj hx
  refine decode_of ?_ hw
  refine (major_decodeOpr (rrf_26_6 _ _ _ _ _)).trans ?_
  simp only [decodeOpr, rrf_z15, rrf_z10, vfn_7_4, vfn_3_4, vfn_0_3, ffn_6_5, ffn_4_2, ffn_1_3, ffn_b0, afn_5_6, afn_0_5, afn_mod, afn_bit, hbM_0_4, hbM_b4, z14_0_4, z14_b4, z23_0_3, z23_3_2, z32_0_2, z32_3_2, z32_2_3, z32_b2, ktM_0_2, ktM_3_2, ktM_b2, rc23_3_2, rc23_0_3, rc32_2_3, rc32_0_2, obM_0_2, obM_b2, obM_b3, obM_b4, cvtF_9_2, cvtF_5_4, cvtF_2_3, cvtF_0_2, vcvtF_9_2, vcvtF_6_3, vcvtF_3_3, vcvtF_0_3, vscF_9_2, vscF_7_2, vscF_5_2, vscF_2_3, vscF_0_2, sfuF_8_3, sfuF_b7, sfuF_3_4, sfuF_0_3, rrf_21_5, rrf_16_5, rrf_11_5, rrf_rd, rrf_ra, rrf_rb, rrf_fn, rrf_bit, rrf_rb_bit, rrf_ra_bit, rrf_rd_bit, coded, need, BitVec.extractLsb'_eq_self, Nat.reduceLeDiff, Nat.reduceAdd, Nat.reduceSub, Nat.reduceLT, elemTyOf_code, rmOf_code, fmtOf3_code, hintOf_code, fsizeOf_code, redOpOf_code, voteKindOf_code, sgnOpOf_code, cmpOpOf_code, kOpOf_code, kCondOf_code, qOpOf_code, mtypeOf_code, scopeOf_code, ordOf_code, logOpOf_code, dirOf_code, topoOf_code, aselOf_code, bselOf_code]
  cases w <;> rfl

theorem RoundTrip.or w rd ra rb : Statement (.or w rd ra rb) := by
  intro hw x hx
  obtain rfl := Option.some.inj hx
  refine decode_of ?_ hw
  refine (major_decodeOpr (rrf_26_6 _ _ _ _ _)).trans ?_
  simp only [decodeOpr, rrf_z15, rrf_z10, vfn_7_4, vfn_3_4, vfn_0_3, ffn_6_5, ffn_4_2, ffn_1_3, ffn_b0, afn_5_6, afn_0_5, afn_mod, afn_bit, hbM_0_4, hbM_b4, z14_0_4, z14_b4, z23_0_3, z23_3_2, z32_0_2, z32_3_2, z32_2_3, z32_b2, ktM_0_2, ktM_3_2, ktM_b2, rc23_3_2, rc23_0_3, rc32_2_3, rc32_0_2, obM_0_2, obM_b2, obM_b3, obM_b4, cvtF_9_2, cvtF_5_4, cvtF_2_3, cvtF_0_2, vcvtF_9_2, vcvtF_6_3, vcvtF_3_3, vcvtF_0_3, vscF_9_2, vscF_7_2, vscF_5_2, vscF_2_3, vscF_0_2, sfuF_8_3, sfuF_b7, sfuF_3_4, sfuF_0_3, rrf_21_5, rrf_16_5, rrf_11_5, rrf_rd, rrf_ra, rrf_rb, rrf_fn, rrf_bit, rrf_rb_bit, rrf_ra_bit, rrf_rd_bit, coded, need, BitVec.extractLsb'_eq_self, Nat.reduceLeDiff, Nat.reduceAdd, Nat.reduceSub, Nat.reduceLT, elemTyOf_code, rmOf_code, fmtOf3_code, hintOf_code, fsizeOf_code, redOpOf_code, voteKindOf_code, sgnOpOf_code, cmpOpOf_code, kOpOf_code, kCondOf_code, qOpOf_code, mtypeOf_code, scopeOf_code, ordOf_code, logOpOf_code, dirOf_code, topoOf_code, aselOf_code, bselOf_code]
  cases w <;> rfl

theorem RoundTrip.xor w rd ra rb : Statement (.xor w rd ra rb) := by
  intro hw x hx
  obtain rfl := Option.some.inj hx
  refine decode_of ?_ hw
  refine (major_decodeOpr (rrf_26_6 _ _ _ _ _)).trans ?_
  simp only [decodeOpr, rrf_z15, rrf_z10, vfn_7_4, vfn_3_4, vfn_0_3, ffn_6_5, ffn_4_2, ffn_1_3, ffn_b0, afn_5_6, afn_0_5, afn_mod, afn_bit, hbM_0_4, hbM_b4, z14_0_4, z14_b4, z23_0_3, z23_3_2, z32_0_2, z32_3_2, z32_2_3, z32_b2, ktM_0_2, ktM_3_2, ktM_b2, rc23_3_2, rc23_0_3, rc32_2_3, rc32_0_2, obM_0_2, obM_b2, obM_b3, obM_b4, cvtF_9_2, cvtF_5_4, cvtF_2_3, cvtF_0_2, vcvtF_9_2, vcvtF_6_3, vcvtF_3_3, vcvtF_0_3, vscF_9_2, vscF_7_2, vscF_5_2, vscF_2_3, vscF_0_2, sfuF_8_3, sfuF_b7, sfuF_3_4, sfuF_0_3, rrf_21_5, rrf_16_5, rrf_11_5, rrf_rd, rrf_ra, rrf_rb, rrf_fn, rrf_bit, rrf_rb_bit, rrf_ra_bit, rrf_rd_bit, coded, need, BitVec.extractLsb'_eq_self, Nat.reduceLeDiff, Nat.reduceAdd, Nat.reduceSub, Nat.reduceLT, elemTyOf_code, rmOf_code, fmtOf3_code, hintOf_code, fsizeOf_code, redOpOf_code, voteKindOf_code, sgnOpOf_code, cmpOpOf_code, kOpOf_code, kCondOf_code, qOpOf_code, mtypeOf_code, scopeOf_code, ordOf_code, logOpOf_code, dirOf_code, topoOf_code, aselOf_code, bselOf_code]
  cases w <;> rfl

theorem RoundTrip.sll w rd ra rb : Statement (.sll w rd ra rb) := by
  intro hw x hx
  obtain rfl := Option.some.inj hx
  refine decode_of ?_ hw
  refine (major_decodeOpr (rrf_26_6 _ _ _ _ _)).trans ?_
  simp only [decodeOpr, rrf_z15, rrf_z10, vfn_7_4, vfn_3_4, vfn_0_3, ffn_6_5, ffn_4_2, ffn_1_3, ffn_b0, afn_5_6, afn_0_5, afn_mod, afn_bit, hbM_0_4, hbM_b4, z14_0_4, z14_b4, z23_0_3, z23_3_2, z32_0_2, z32_3_2, z32_2_3, z32_b2, ktM_0_2, ktM_3_2, ktM_b2, rc23_3_2, rc23_0_3, rc32_2_3, rc32_0_2, obM_0_2, obM_b2, obM_b3, obM_b4, cvtF_9_2, cvtF_5_4, cvtF_2_3, cvtF_0_2, vcvtF_9_2, vcvtF_6_3, vcvtF_3_3, vcvtF_0_3, vscF_9_2, vscF_7_2, vscF_5_2, vscF_2_3, vscF_0_2, sfuF_8_3, sfuF_b7, sfuF_3_4, sfuF_0_3, rrf_21_5, rrf_16_5, rrf_11_5, rrf_rd, rrf_ra, rrf_rb, rrf_fn, rrf_bit, rrf_rb_bit, rrf_ra_bit, rrf_rd_bit, coded, need, BitVec.extractLsb'_eq_self, Nat.reduceLeDiff, Nat.reduceAdd, Nat.reduceSub, Nat.reduceLT, elemTyOf_code, rmOf_code, fmtOf3_code, hintOf_code, fsizeOf_code, redOpOf_code, voteKindOf_code, sgnOpOf_code, cmpOpOf_code, kOpOf_code, kCondOf_code, qOpOf_code, mtypeOf_code, scopeOf_code, ordOf_code, logOpOf_code, dirOf_code, topoOf_code, aselOf_code, bselOf_code]
  cases w <;> rfl

theorem RoundTrip.srl w rd ra rb : Statement (.srl w rd ra rb) := by
  intro hw x hx
  obtain rfl := Option.some.inj hx
  refine decode_of ?_ hw
  refine (major_decodeOpr (rrf_26_6 _ _ _ _ _)).trans ?_
  simp only [decodeOpr, rrf_z15, rrf_z10, vfn_7_4, vfn_3_4, vfn_0_3, ffn_6_5, ffn_4_2, ffn_1_3, ffn_b0, afn_5_6, afn_0_5, afn_mod, afn_bit, hbM_0_4, hbM_b4, z14_0_4, z14_b4, z23_0_3, z23_3_2, z32_0_2, z32_3_2, z32_2_3, z32_b2, ktM_0_2, ktM_3_2, ktM_b2, rc23_3_2, rc23_0_3, rc32_2_3, rc32_0_2, obM_0_2, obM_b2, obM_b3, obM_b4, cvtF_9_2, cvtF_5_4, cvtF_2_3, cvtF_0_2, vcvtF_9_2, vcvtF_6_3, vcvtF_3_3, vcvtF_0_3, vscF_9_2, vscF_7_2, vscF_5_2, vscF_2_3, vscF_0_2, sfuF_8_3, sfuF_b7, sfuF_3_4, sfuF_0_3, rrf_21_5, rrf_16_5, rrf_11_5, rrf_rd, rrf_ra, rrf_rb, rrf_fn, rrf_bit, rrf_rb_bit, rrf_ra_bit, rrf_rd_bit, coded, need, BitVec.extractLsb'_eq_self, Nat.reduceLeDiff, Nat.reduceAdd, Nat.reduceSub, Nat.reduceLT, elemTyOf_code, rmOf_code, fmtOf3_code, hintOf_code, fsizeOf_code, redOpOf_code, voteKindOf_code, sgnOpOf_code, cmpOpOf_code, kOpOf_code, kCondOf_code, qOpOf_code, mtypeOf_code, scopeOf_code, ordOf_code, logOpOf_code, dirOf_code, topoOf_code, aselOf_code, bselOf_code]
  cases w <;> rfl

theorem RoundTrip.sra w rd ra rb : Statement (.sra w rd ra rb) := by
  intro hw x hx
  obtain rfl := Option.some.inj hx
  refine decode_of ?_ hw
  refine (major_decodeOpr (rrf_26_6 _ _ _ _ _)).trans ?_
  simp only [decodeOpr, rrf_z15, rrf_z10, vfn_7_4, vfn_3_4, vfn_0_3, ffn_6_5, ffn_4_2, ffn_1_3, ffn_b0, afn_5_6, afn_0_5, afn_mod, afn_bit, hbM_0_4, hbM_b4, z14_0_4, z14_b4, z23_0_3, z23_3_2, z32_0_2, z32_3_2, z32_2_3, z32_b2, ktM_0_2, ktM_3_2, ktM_b2, rc23_3_2, rc23_0_3, rc32_2_3, rc32_0_2, obM_0_2, obM_b2, obM_b3, obM_b4, cvtF_9_2, cvtF_5_4, cvtF_2_3, cvtF_0_2, vcvtF_9_2, vcvtF_6_3, vcvtF_3_3, vcvtF_0_3, vscF_9_2, vscF_7_2, vscF_5_2, vscF_2_3, vscF_0_2, sfuF_8_3, sfuF_b7, sfuF_3_4, sfuF_0_3, rrf_21_5, rrf_16_5, rrf_11_5, rrf_rd, rrf_ra, rrf_rb, rrf_fn, rrf_bit, rrf_rb_bit, rrf_ra_bit, rrf_rd_bit, coded, need, BitVec.extractLsb'_eq_self, Nat.reduceLeDiff, Nat.reduceAdd, Nat.reduceSub, Nat.reduceLT, elemTyOf_code, rmOf_code, fmtOf3_code, hintOf_code, fsizeOf_code, redOpOf_code, voteKindOf_code, sgnOpOf_code, cmpOpOf_code, kOpOf_code, kCondOf_code, qOpOf_code, mtypeOf_code, scopeOf_code, ordOf_code, logOpOf_code, dirOf_code, topoOf_code, aselOf_code, bselOf_code]
  cases w <;> rfl

theorem RoundTrip.rotl w rd ra rb : Statement (.rotl w rd ra rb) := by
  intro hw x hx
  obtain rfl := Option.some.inj hx
  refine decode_of ?_ hw
  refine (major_decodeOpr (rrf_26_6 _ _ _ _ _)).trans ?_
  simp only [decodeOpr, rrf_z15, rrf_z10, vfn_7_4, vfn_3_4, vfn_0_3, ffn_6_5, ffn_4_2, ffn_1_3, ffn_b0, afn_5_6, afn_0_5, afn_mod, afn_bit, hbM_0_4, hbM_b4, z14_0_4, z14_b4, z23_0_3, z23_3_2, z32_0_2, z32_3_2, z32_2_3, z32_b2, ktM_0_2, ktM_3_2, ktM_b2, rc23_3_2, rc23_0_3, rc32_2_3, rc32_0_2, obM_0_2, obM_b2, obM_b3, obM_b4, cvtF_9_2, cvtF_5_4, cvtF_2_3, cvtF_0_2, vcvtF_9_2, vcvtF_6_3, vcvtF_3_3, vcvtF_0_3, vscF_9_2, vscF_7_2, vscF_5_2, vscF_2_3, vscF_0_2, sfuF_8_3, sfuF_b7, sfuF_3_4, sfuF_0_3, rrf_21_5, rrf_16_5, rrf_11_5, rrf_rd, rrf_ra, rrf_rb, rrf_fn, rrf_bit, rrf_rb_bit, rrf_ra_bit, rrf_rd_bit, coded, need, BitVec.extractLsb'_eq_self, Nat.reduceLeDiff, Nat.reduceAdd, Nat.reduceSub, Nat.reduceLT, elemTyOf_code, rmOf_code, fmtOf3_code, hintOf_code, fsizeOf_code, redOpOf_code, voteKindOf_code, sgnOpOf_code, cmpOpOf_code, kOpOf_code, kCondOf_code, qOpOf_code, mtypeOf_code, scopeOf_code, ordOf_code, logOpOf_code, dirOf_code, topoOf_code, aselOf_code, bselOf_code]
  cases w <;> rfl

theorem RoundTrip.slt w rd ra rb : Statement (.slt w rd ra rb) := by
  intro hw x hx
  obtain rfl := Option.some.inj hx
  refine decode_of ?_ hw
  refine (major_decodeOpr (rrf_26_6 _ _ _ _ _)).trans ?_
  simp only [decodeOpr, rrf_z15, rrf_z10, vfn_7_4, vfn_3_4, vfn_0_3, ffn_6_5, ffn_4_2, ffn_1_3, ffn_b0, afn_5_6, afn_0_5, afn_mod, afn_bit, hbM_0_4, hbM_b4, z14_0_4, z14_b4, z23_0_3, z23_3_2, z32_0_2, z32_3_2, z32_2_3, z32_b2, ktM_0_2, ktM_3_2, ktM_b2, rc23_3_2, rc23_0_3, rc32_2_3, rc32_0_2, obM_0_2, obM_b2, obM_b3, obM_b4, cvtF_9_2, cvtF_5_4, cvtF_2_3, cvtF_0_2, vcvtF_9_2, vcvtF_6_3, vcvtF_3_3, vcvtF_0_3, vscF_9_2, vscF_7_2, vscF_5_2, vscF_2_3, vscF_0_2, sfuF_8_3, sfuF_b7, sfuF_3_4, sfuF_0_3, rrf_21_5, rrf_16_5, rrf_11_5, rrf_rd, rrf_ra, rrf_rb, rrf_fn, rrf_bit, rrf_rb_bit, rrf_ra_bit, rrf_rd_bit, coded, need, BitVec.extractLsb'_eq_self, Nat.reduceLeDiff, Nat.reduceAdd, Nat.reduceSub, Nat.reduceLT, elemTyOf_code, rmOf_code, fmtOf3_code, hintOf_code, fsizeOf_code, redOpOf_code, voteKindOf_code, sgnOpOf_code, cmpOpOf_code, kOpOf_code, kCondOf_code, qOpOf_code, mtypeOf_code, scopeOf_code, ordOf_code, logOpOf_code, dirOf_code, topoOf_code, aselOf_code, bselOf_code]
  cases w <;> rfl

theorem RoundTrip.sltu w rd ra rb : Statement (.sltu w rd ra rb) := by
  intro hw x hx
  obtain rfl := Option.some.inj hx
  refine decode_of ?_ hw
  refine (major_decodeOpr (rrf_26_6 _ _ _ _ _)).trans ?_
  simp only [decodeOpr, rrf_z15, rrf_z10, vfn_7_4, vfn_3_4, vfn_0_3, ffn_6_5, ffn_4_2, ffn_1_3, ffn_b0, afn_5_6, afn_0_5, afn_mod, afn_bit, hbM_0_4, hbM_b4, z14_0_4, z14_b4, z23_0_3, z23_3_2, z32_0_2, z32_3_2, z32_2_3, z32_b2, ktM_0_2, ktM_3_2, ktM_b2, rc23_3_2, rc23_0_3, rc32_2_3, rc32_0_2, obM_0_2, obM_b2, obM_b3, obM_b4, cvtF_9_2, cvtF_5_4, cvtF_2_3, cvtF_0_2, vcvtF_9_2, vcvtF_6_3, vcvtF_3_3, vcvtF_0_3, vscF_9_2, vscF_7_2, vscF_5_2, vscF_2_3, vscF_0_2, sfuF_8_3, sfuF_b7, sfuF_3_4, sfuF_0_3, rrf_21_5, rrf_16_5, rrf_11_5, rrf_rd, rrf_ra, rrf_rb, rrf_fn, rrf_bit, rrf_rb_bit, rrf_ra_bit, rrf_rd_bit, coded, need, BitVec.extractLsb'_eq_self, Nat.reduceLeDiff, Nat.reduceAdd, Nat.reduceSub, Nat.reduceLT, elemTyOf_code, rmOf_code, fmtOf3_code, hintOf_code, fsizeOf_code, redOpOf_code, voteKindOf_code, sgnOpOf_code, cmpOpOf_code, kOpOf_code, kCondOf_code, qOpOf_code, mtypeOf_code, scopeOf_code, ordOf_code, logOpOf_code, dirOf_code, topoOf_code, aselOf_code, bselOf_code]
  cases w <;> rfl

theorem RoundTrip.min w rd ra rb : Statement (.min w rd ra rb) := by
  intro hw x hx
  obtain rfl := Option.some.inj hx
  refine decode_of ?_ hw
  refine (major_decodeOpr (rrf_26_6 _ _ _ _ _)).trans ?_
  simp only [decodeOpr, rrf_z15, rrf_z10, vfn_7_4, vfn_3_4, vfn_0_3, ffn_6_5, ffn_4_2, ffn_1_3, ffn_b0, afn_5_6, afn_0_5, afn_mod, afn_bit, hbM_0_4, hbM_b4, z14_0_4, z14_b4, z23_0_3, z23_3_2, z32_0_2, z32_3_2, z32_2_3, z32_b2, ktM_0_2, ktM_3_2, ktM_b2, rc23_3_2, rc23_0_3, rc32_2_3, rc32_0_2, obM_0_2, obM_b2, obM_b3, obM_b4, cvtF_9_2, cvtF_5_4, cvtF_2_3, cvtF_0_2, vcvtF_9_2, vcvtF_6_3, vcvtF_3_3, vcvtF_0_3, vscF_9_2, vscF_7_2, vscF_5_2, vscF_2_3, vscF_0_2, sfuF_8_3, sfuF_b7, sfuF_3_4, sfuF_0_3, rrf_21_5, rrf_16_5, rrf_11_5, rrf_rd, rrf_ra, rrf_rb, rrf_fn, rrf_bit, rrf_rb_bit, rrf_ra_bit, rrf_rd_bit, coded, need, BitVec.extractLsb'_eq_self, Nat.reduceLeDiff, Nat.reduceAdd, Nat.reduceSub, Nat.reduceLT, elemTyOf_code, rmOf_code, fmtOf3_code, hintOf_code, fsizeOf_code, redOpOf_code, voteKindOf_code, sgnOpOf_code, cmpOpOf_code, kOpOf_code, kCondOf_code, qOpOf_code, mtypeOf_code, scopeOf_code, ordOf_code, logOpOf_code, dirOf_code, topoOf_code, aselOf_code, bselOf_code]
  cases w <;> rfl

theorem RoundTrip.max w rd ra rb : Statement (.max w rd ra rb) := by
  intro hw x hx
  obtain rfl := Option.some.inj hx
  refine decode_of ?_ hw
  refine (major_decodeOpr (rrf_26_6 _ _ _ _ _)).trans ?_
  simp only [decodeOpr, rrf_z15, rrf_z10, vfn_7_4, vfn_3_4, vfn_0_3, ffn_6_5, ffn_4_2, ffn_1_3, ffn_b0, afn_5_6, afn_0_5, afn_mod, afn_bit, hbM_0_4, hbM_b4, z14_0_4, z14_b4, z23_0_3, z23_3_2, z32_0_2, z32_3_2, z32_2_3, z32_b2, ktM_0_2, ktM_3_2, ktM_b2, rc23_3_2, rc23_0_3, rc32_2_3, rc32_0_2, obM_0_2, obM_b2, obM_b3, obM_b4, cvtF_9_2, cvtF_5_4, cvtF_2_3, cvtF_0_2, vcvtF_9_2, vcvtF_6_3, vcvtF_3_3, vcvtF_0_3, vscF_9_2, vscF_7_2, vscF_5_2, vscF_2_3, vscF_0_2, sfuF_8_3, sfuF_b7, sfuF_3_4, sfuF_0_3, rrf_21_5, rrf_16_5, rrf_11_5, rrf_rd, rrf_ra, rrf_rb, rrf_fn, rrf_bit, rrf_rb_bit, rrf_ra_bit, rrf_rd_bit, coded, need, BitVec.extractLsb'_eq_self, Nat.reduceLeDiff, Nat.reduceAdd, Nat.reduceSub, Nat.reduceLT, elemTyOf_code, rmOf_code, fmtOf3_code, hintOf_code, fsizeOf_code, redOpOf_code, voteKindOf_code, sgnOpOf_code, cmpOpOf_code, kOpOf_code, kCondOf_code, qOpOf_code, mtypeOf_code, scopeOf_code, ordOf_code, logOpOf_code, dirOf_code, topoOf_code, aselOf_code, bselOf_code]
  cases w <;> rfl

theorem RoundTrip.minu w rd ra rb : Statement (.minu w rd ra rb) := by
  intro hw x hx
  obtain rfl := Option.some.inj hx
  refine decode_of ?_ hw
  refine (major_decodeOpr (rrf_26_6 _ _ _ _ _)).trans ?_
  simp only [decodeOpr, rrf_z15, rrf_z10, vfn_7_4, vfn_3_4, vfn_0_3, ffn_6_5, ffn_4_2, ffn_1_3, ffn_b0, afn_5_6, afn_0_5, afn_mod, afn_bit, hbM_0_4, hbM_b4, z14_0_4, z14_b4, z23_0_3, z23_3_2, z32_0_2, z32_3_2, z32_2_3, z32_b2, ktM_0_2, ktM_3_2, ktM_b2, rc23_3_2, rc23_0_3, rc32_2_3, rc32_0_2, obM_0_2, obM_b2, obM_b3, obM_b4, cvtF_9_2, cvtF_5_4, cvtF_2_3, cvtF_0_2, vcvtF_9_2, vcvtF_6_3, vcvtF_3_3, vcvtF_0_3, vscF_9_2, vscF_7_2, vscF_5_2, vscF_2_3, vscF_0_2, sfuF_8_3, sfuF_b7, sfuF_3_4, sfuF_0_3, rrf_21_5, rrf_16_5, rrf_11_5, rrf_rd, rrf_ra, rrf_rb, rrf_fn, rrf_bit, rrf_rb_bit, rrf_ra_bit, rrf_rd_bit, coded, need, BitVec.extractLsb'_eq_self, Nat.reduceLeDiff, Nat.reduceAdd, Nat.reduceSub, Nat.reduceLT, elemTyOf_code, rmOf_code, fmtOf3_code, hintOf_code, fsizeOf_code, redOpOf_code, voteKindOf_code, sgnOpOf_code, cmpOpOf_code, kOpOf_code, kCondOf_code, qOpOf_code, mtypeOf_code, scopeOf_code, ordOf_code, logOpOf_code, dirOf_code, topoOf_code, aselOf_code, bselOf_code]
  cases w <;> rfl

theorem RoundTrip.maxu w rd ra rb : Statement (.maxu w rd ra rb) := by
  intro hw x hx
  obtain rfl := Option.some.inj hx
  refine decode_of ?_ hw
  refine (major_decodeOpr (rrf_26_6 _ _ _ _ _)).trans ?_
  simp only [decodeOpr, rrf_z15, rrf_z10, vfn_7_4, vfn_3_4, vfn_0_3, ffn_6_5, ffn_4_2, ffn_1_3, ffn_b0, afn_5_6, afn_0_5, afn_mod, afn_bit, hbM_0_4, hbM_b4, z14_0_4, z14_b4, z23_0_3, z23_3_2, z32_0_2, z32_3_2, z32_2_3, z32_b2, ktM_0_2, ktM_3_2, ktM_b2, rc23_3_2, rc23_0_3, rc32_2_3, rc32_0_2, obM_0_2, obM_b2, obM_b3, obM_b4, cvtF_9_2, cvtF_5_4, cvtF_2_3, cvtF_0_2, vcvtF_9_2, vcvtF_6_3, vcvtF_3_3, vcvtF_0_3, vscF_9_2, vscF_7_2, vscF_5_2, vscF_2_3, vscF_0_2, sfuF_8_3, sfuF_b7, sfuF_3_4, sfuF_0_3, rrf_21_5, rrf_16_5, rrf_11_5, rrf_rd, rrf_ra, rrf_rb, rrf_fn, rrf_bit, rrf_rb_bit, rrf_ra_bit, rrf_rd_bit, coded, need, BitVec.extractLsb'_eq_self, Nat.reduceLeDiff, Nat.reduceAdd, Nat.reduceSub, Nat.reduceLT, elemTyOf_code, rmOf_code, fmtOf3_code, hintOf_code, fsizeOf_code, redOpOf_code, voteKindOf_code, sgnOpOf_code, cmpOpOf_code, kOpOf_code, kCondOf_code, qOpOf_code, mtypeOf_code, scopeOf_code, ordOf_code, logOpOf_code, dirOf_code, topoOf_code, aselOf_code, bselOf_code]
  cases w <;> rfl

theorem RoundTrip.mul w rd ra rb : Statement (.mul w rd ra rb) := by
  intro hw x hx
  obtain rfl := Option.some.inj hx
  refine decode_of ?_ hw
  refine (major_decodeOpr (rrf_26_6 _ _ _ _ _)).trans ?_
  simp only [decodeOpr, rrf_z15, rrf_z10, vfn_7_4, vfn_3_4, vfn_0_3, ffn_6_5, ffn_4_2, ffn_1_3, ffn_b0, afn_5_6, afn_0_5, afn_mod, afn_bit, hbM_0_4, hbM_b4, z14_0_4, z14_b4, z23_0_3, z23_3_2, z32_0_2, z32_3_2, z32_2_3, z32_b2, ktM_0_2, ktM_3_2, ktM_b2, rc23_3_2, rc23_0_3, rc32_2_3, rc32_0_2, obM_0_2, obM_b2, obM_b3, obM_b4, cvtF_9_2, cvtF_5_4, cvtF_2_3, cvtF_0_2, vcvtF_9_2, vcvtF_6_3, vcvtF_3_3, vcvtF_0_3, vscF_9_2, vscF_7_2, vscF_5_2, vscF_2_3, vscF_0_2, sfuF_8_3, sfuF_b7, sfuF_3_4, sfuF_0_3, rrf_21_5, rrf_16_5, rrf_11_5, rrf_rd, rrf_ra, rrf_rb, rrf_fn, rrf_bit, rrf_rb_bit, rrf_ra_bit, rrf_rd_bit, coded, need, BitVec.extractLsb'_eq_self, Nat.reduceLeDiff, Nat.reduceAdd, Nat.reduceSub, Nat.reduceLT, elemTyOf_code, rmOf_code, fmtOf3_code, hintOf_code, fsizeOf_code, redOpOf_code, voteKindOf_code, sgnOpOf_code, cmpOpOf_code, kOpOf_code, kCondOf_code, qOpOf_code, mtypeOf_code, scopeOf_code, ordOf_code, logOpOf_code, dirOf_code, topoOf_code, aselOf_code, bselOf_code]
  cases w <;> rfl

theorem RoundTrip.mulh w rd ra rb : Statement (.mulh w rd ra rb) := by
  intro hw x hx
  obtain rfl := Option.some.inj hx
  refine decode_of ?_ hw
  refine (major_decodeOpr (rrf_26_6 _ _ _ _ _)).trans ?_
  simp only [decodeOpr, rrf_z15, rrf_z10, vfn_7_4, vfn_3_4, vfn_0_3, ffn_6_5, ffn_4_2, ffn_1_3, ffn_b0, afn_5_6, afn_0_5, afn_mod, afn_bit, hbM_0_4, hbM_b4, z14_0_4, z14_b4, z23_0_3, z23_3_2, z32_0_2, z32_3_2, z32_2_3, z32_b2, ktM_0_2, ktM_3_2, ktM_b2, rc23_3_2, rc23_0_3, rc32_2_3, rc32_0_2, obM_0_2, obM_b2, obM_b3, obM_b4, cvtF_9_2, cvtF_5_4, cvtF_2_3, cvtF_0_2, vcvtF_9_2, vcvtF_6_3, vcvtF_3_3, vcvtF_0_3, vscF_9_2, vscF_7_2, vscF_5_2, vscF_2_3, vscF_0_2, sfuF_8_3, sfuF_b7, sfuF_3_4, sfuF_0_3, rrf_21_5, rrf_16_5, rrf_11_5, rrf_rd, rrf_ra, rrf_rb, rrf_fn, rrf_bit, rrf_rb_bit, rrf_ra_bit, rrf_rd_bit, coded, need, BitVec.extractLsb'_eq_self, Nat.reduceLeDiff, Nat.reduceAdd, Nat.reduceSub, Nat.reduceLT, elemTyOf_code, rmOf_code, fmtOf3_code, hintOf_code, fsizeOf_code, redOpOf_code, voteKindOf_code, sgnOpOf_code, cmpOpOf_code, kOpOf_code, kCondOf_code, qOpOf_code, mtypeOf_code, scopeOf_code, ordOf_code, logOpOf_code, dirOf_code, topoOf_code, aselOf_code, bselOf_code]
  cases w <;> rfl

theorem RoundTrip.mulhu w rd ra rb : Statement (.mulhu w rd ra rb) := by
  intro hw x hx
  obtain rfl := Option.some.inj hx
  refine decode_of ?_ hw
  refine (major_decodeOpr (rrf_26_6 _ _ _ _ _)).trans ?_
  simp only [decodeOpr, rrf_z15, rrf_z10, vfn_7_4, vfn_3_4, vfn_0_3, ffn_6_5, ffn_4_2, ffn_1_3, ffn_b0, afn_5_6, afn_0_5, afn_mod, afn_bit, hbM_0_4, hbM_b4, z14_0_4, z14_b4, z23_0_3, z23_3_2, z32_0_2, z32_3_2, z32_2_3, z32_b2, ktM_0_2, ktM_3_2, ktM_b2, rc23_3_2, rc23_0_3, rc32_2_3, rc32_0_2, obM_0_2, obM_b2, obM_b3, obM_b4, cvtF_9_2, cvtF_5_4, cvtF_2_3, cvtF_0_2, vcvtF_9_2, vcvtF_6_3, vcvtF_3_3, vcvtF_0_3, vscF_9_2, vscF_7_2, vscF_5_2, vscF_2_3, vscF_0_2, sfuF_8_3, sfuF_b7, sfuF_3_4, sfuF_0_3, rrf_21_5, rrf_16_5, rrf_11_5, rrf_rd, rrf_ra, rrf_rb, rrf_fn, rrf_bit, rrf_rb_bit, rrf_ra_bit, rrf_rd_bit, coded, need, BitVec.extractLsb'_eq_self, Nat.reduceLeDiff, Nat.reduceAdd, Nat.reduceSub, Nat.reduceLT, elemTyOf_code, rmOf_code, fmtOf3_code, hintOf_code, fsizeOf_code, redOpOf_code, voteKindOf_code, sgnOpOf_code, cmpOpOf_code, kOpOf_code, kCondOf_code, qOpOf_code, mtypeOf_code, scopeOf_code, ordOf_code, logOpOf_code, dirOf_code, topoOf_code, aselOf_code, bselOf_code]
  cases w <;> rfl

theorem RoundTrip.div w rd ra rb : Statement (.div w rd ra rb) := by
  intro hw x hx
  obtain rfl := Option.some.inj hx
  refine decode_of ?_ hw
  refine (major_decodeOpr (rrf_26_6 _ _ _ _ _)).trans ?_
  simp only [decodeOpr, rrf_z15, rrf_z10, vfn_7_4, vfn_3_4, vfn_0_3, ffn_6_5, ffn_4_2, ffn_1_3, ffn_b0, afn_5_6, afn_0_5, afn_mod, afn_bit, hbM_0_4, hbM_b4, z14_0_4, z14_b4, z23_0_3, z23_3_2, z32_0_2, z32_3_2, z32_2_3, z32_b2, ktM_0_2, ktM_3_2, ktM_b2, rc23_3_2, rc23_0_3, rc32_2_3, rc32_0_2, obM_0_2, obM_b2, obM_b3, obM_b4, cvtF_9_2, cvtF_5_4, cvtF_2_3, cvtF_0_2, vcvtF_9_2, vcvtF_6_3, vcvtF_3_3, vcvtF_0_3, vscF_9_2, vscF_7_2, vscF_5_2, vscF_2_3, vscF_0_2, sfuF_8_3, sfuF_b7, sfuF_3_4, sfuF_0_3, rrf_21_5, rrf_16_5, rrf_11_5, rrf_rd, rrf_ra, rrf_rb, rrf_fn, rrf_bit, rrf_rb_bit, rrf_ra_bit, rrf_rd_bit, coded, need, BitVec.extractLsb'_eq_self, Nat.reduceLeDiff, Nat.reduceAdd, Nat.reduceSub, Nat.reduceLT, elemTyOf_code, rmOf_code, fmtOf3_code, hintOf_code, fsizeOf_code, redOpOf_code, voteKindOf_code, sgnOpOf_code, cmpOpOf_code, kOpOf_code, kCondOf_code, qOpOf_code, mtypeOf_code, scopeOf_code, ordOf_code, logOpOf_code, dirOf_code, topoOf_code, aselOf_code, bselOf_code]
  cases w <;> rfl

theorem RoundTrip.divu w rd ra rb : Statement (.divu w rd ra rb) := by
  intro hw x hx
  obtain rfl := Option.some.inj hx
  refine decode_of ?_ hw
  refine (major_decodeOpr (rrf_26_6 _ _ _ _ _)).trans ?_
  simp only [decodeOpr, rrf_z15, rrf_z10, vfn_7_4, vfn_3_4, vfn_0_3, ffn_6_5, ffn_4_2, ffn_1_3, ffn_b0, afn_5_6, afn_0_5, afn_mod, afn_bit, hbM_0_4, hbM_b4, z14_0_4, z14_b4, z23_0_3, z23_3_2, z32_0_2, z32_3_2, z32_2_3, z32_b2, ktM_0_2, ktM_3_2, ktM_b2, rc23_3_2, rc23_0_3, rc32_2_3, rc32_0_2, obM_0_2, obM_b2, obM_b3, obM_b4, cvtF_9_2, cvtF_5_4, cvtF_2_3, cvtF_0_2, vcvtF_9_2, vcvtF_6_3, vcvtF_3_3, vcvtF_0_3, vscF_9_2, vscF_7_2, vscF_5_2, vscF_2_3, vscF_0_2, sfuF_8_3, sfuF_b7, sfuF_3_4, sfuF_0_3, rrf_21_5, rrf_16_5, rrf_11_5, rrf_rd, rrf_ra, rrf_rb, rrf_fn, rrf_bit, rrf_rb_bit, rrf_ra_bit, rrf_rd_bit, coded, need, BitVec.extractLsb'_eq_self, Nat.reduceLeDiff, Nat.reduceAdd, Nat.reduceSub, Nat.reduceLT, elemTyOf_code, rmOf_code, fmtOf3_code, hintOf_code, fsizeOf_code, redOpOf_code, voteKindOf_code, sgnOpOf_code, cmpOpOf_code, kOpOf_code, kCondOf_code, qOpOf_code, mtypeOf_code, scopeOf_code, ordOf_code, logOpOf_code, dirOf_code, topoOf_code, aselOf_code, bselOf_code]
  cases w <;> rfl

theorem RoundTrip.rem w rd ra rb : Statement (.rem w rd ra rb) := by
  intro hw x hx
  obtain rfl := Option.some.inj hx
  refine decode_of ?_ hw
  refine (major_decodeOpr (rrf_26_6 _ _ _ _ _)).trans ?_
  simp only [decodeOpr, rrf_z15, rrf_z10, vfn_7_4, vfn_3_4, vfn_0_3, ffn_6_5, ffn_4_2, ffn_1_3, ffn_b0, afn_5_6, afn_0_5, afn_mod, afn_bit, hbM_0_4, hbM_b4, z14_0_4, z14_b4, z23_0_3, z23_3_2, z32_0_2, z32_3_2, z32_2_3, z32_b2, ktM_0_2, ktM_3_2, ktM_b2, rc23_3_2, rc23_0_3, rc32_2_3, rc32_0_2, obM_0_2, obM_b2, obM_b3, obM_b4, cvtF_9_2, cvtF_5_4, cvtF_2_3, cvtF_0_2, vcvtF_9_2, vcvtF_6_3, vcvtF_3_3, vcvtF_0_3, vscF_9_2, vscF_7_2, vscF_5_2, vscF_2_3, vscF_0_2, sfuF_8_3, sfuF_b7, sfuF_3_4, sfuF_0_3, rrf_21_5, rrf_16_5, rrf_11_5, rrf_rd, rrf_ra, rrf_rb, rrf_fn, rrf_bit, rrf_rb_bit, rrf_ra_bit, rrf_rd_bit, coded, need, BitVec.extractLsb'_eq_self, Nat.reduceLeDiff, Nat.reduceAdd, Nat.reduceSub, Nat.reduceLT, elemTyOf_code, rmOf_code, fmtOf3_code, hintOf_code, fsizeOf_code, redOpOf_code, voteKindOf_code, sgnOpOf_code, cmpOpOf_code, kOpOf_code, kCondOf_code, qOpOf_code, mtypeOf_code, scopeOf_code, ordOf_code, logOpOf_code, dirOf_code, topoOf_code, aselOf_code, bselOf_code]
  cases w <;> rfl

theorem RoundTrip.remu w rd ra rb : Statement (.remu w rd ra rb) := by
  intro hw x hx
  obtain rfl := Option.some.inj hx
  refine decode_of ?_ hw
  refine (major_decodeOpr (rrf_26_6 _ _ _ _ _)).trans ?_
  simp only [decodeOpr, rrf_z15, rrf_z10, vfn_7_4, vfn_3_4, vfn_0_3, ffn_6_5, ffn_4_2, ffn_1_3, ffn_b0, afn_5_6, afn_0_5, afn_mod, afn_bit, hbM_0_4, hbM_b4, z14_0_4, z14_b4, z23_0_3, z23_3_2, z32_0_2, z32_3_2, z32_2_3, z32_b2, ktM_0_2, ktM_3_2, ktM_b2, rc23_3_2, rc23_0_3, rc32_2_3, rc32_0_2, obM_0_2, obM_b2, obM_b3, obM_b4, cvtF_9_2, cvtF_5_4, cvtF_2_3, cvtF_0_2, vcvtF_9_2, vcvtF_6_3, vcvtF_3_3, vcvtF_0_3, vscF_9_2, vscF_7_2, vscF_5_2, vscF_2_3, vscF_0_2, sfuF_8_3, sfuF_b7, sfuF_3_4, sfuF_0_3, rrf_21_5, rrf_16_5, rrf_11_5, rrf_rd, rrf_ra, rrf_rb, rrf_fn, rrf_bit, rrf_rb_bit, rrf_ra_bit, rrf_rd_bit, coded, need, BitVec.extractLsb'_eq_self, Nat.reduceLeDiff, Nat.reduceAdd, Nat.reduceSub, Nat.reduceLT, elemTyOf_code, rmOf_code, fmtOf3_code, hintOf_code, fsizeOf_code, redOpOf_code, voteKindOf_code, sgnOpOf_code, cmpOpOf_code, kOpOf_code, kCondOf_code, qOpOf_code, mtypeOf_code, scopeOf_code, ordOf_code, logOpOf_code, dirOf_code, topoOf_code, aselOf_code, bselOf_code]
  cases w <;> rfl

theorem RoundTrip.clz w rd ra : Statement (.clz w rd ra) := by
  intro hw x hx
  obtain rfl := Option.some.inj hx
  refine decode_of ?_ hw
  refine (major_decodeOpr (rrf_26_6 _ _ _ _ _)).trans ?_
  simp only [decodeOpr, rrf_z15, rrf_z10, vfn_7_4, vfn_3_4, vfn_0_3, ffn_6_5, ffn_4_2, ffn_1_3, ffn_b0, afn_5_6, afn_0_5, afn_mod, afn_bit, hbM_0_4, hbM_b4, z14_0_4, z14_b4, z23_0_3, z23_3_2, z32_0_2, z32_3_2, z32_2_3, z32_b2, ktM_0_2, ktM_3_2, ktM_b2, rc23_3_2, rc23_0_3, rc32_2_3, rc32_0_2, obM_0_2, obM_b2, obM_b3, obM_b4, cvtF_9_2, cvtF_5_4, cvtF_2_3, cvtF_0_2, vcvtF_9_2, vcvtF_6_3, vcvtF_3_3, vcvtF_0_3, vscF_9_2, vscF_7_2, vscF_5_2, vscF_2_3, vscF_0_2, sfuF_8_3, sfuF_b7, sfuF_3_4, sfuF_0_3, rrf_21_5, rrf_16_5, rrf_11_5, rrf_rd, rrf_ra, rrf_rb, rrf_fn, rrf_bit, rrf_rb_bit, rrf_ra_bit, rrf_rd_bit, coded, need, BitVec.extractLsb'_eq_self, Nat.reduceLeDiff, Nat.reduceAdd, Nat.reduceSub, Nat.reduceLT, elemTyOf_code, rmOf_code, fmtOf3_code, hintOf_code, fsizeOf_code, redOpOf_code, voteKindOf_code, sgnOpOf_code, cmpOpOf_code, kOpOf_code, kCondOf_code, qOpOf_code, mtypeOf_code, scopeOf_code, ordOf_code, logOpOf_code, dirOf_code, topoOf_code, aselOf_code, bselOf_code]
  cases w <;> rfl

theorem RoundTrip.ctz w rd ra : Statement (.ctz w rd ra) := by
  intro hw x hx
  obtain rfl := Option.some.inj hx
  refine decode_of ?_ hw
  refine (major_decodeOpr (rrf_26_6 _ _ _ _ _)).trans ?_
  simp only [decodeOpr, rrf_z15, rrf_z10, vfn_7_4, vfn_3_4, vfn_0_3, ffn_6_5, ffn_4_2, ffn_1_3, ffn_b0, afn_5_6, afn_0_5, afn_mod, afn_bit, hbM_0_4, hbM_b4, z14_0_4, z14_b4, z23_0_3, z23_3_2, z32_0_2, z32_3_2, z32_2_3, z32_b2, ktM_0_2, ktM_3_2, ktM_b2, rc23_3_2, rc23_0_3, rc32_2_3, rc32_0_2, obM_0_2, obM_b2, obM_b3, obM_b4, cvtF_9_2, cvtF_5_4, cvtF_2_3, cvtF_0_2, vcvtF_9_2, vcvtF_6_3, vcvtF_3_3, vcvtF_0_3, vscF_9_2, vscF_7_2, vscF_5_2, vscF_2_3, vscF_0_2, sfuF_8_3, sfuF_b7, sfuF_3_4, sfuF_0_3, rrf_21_5, rrf_16_5, rrf_11_5, rrf_rd, rrf_ra, rrf_rb, rrf_fn, rrf_bit, rrf_rb_bit, rrf_ra_bit, rrf_rd_bit, coded, need, BitVec.extractLsb'_eq_self, Nat.reduceLeDiff, Nat.reduceAdd, Nat.reduceSub, Nat.reduceLT, elemTyOf_code, rmOf_code, fmtOf3_code, hintOf_code, fsizeOf_code, redOpOf_code, voteKindOf_code, sgnOpOf_code, cmpOpOf_code, kOpOf_code, kCondOf_code, qOpOf_code, mtypeOf_code, scopeOf_code, ordOf_code, logOpOf_code, dirOf_code, topoOf_code, aselOf_code, bselOf_code]
  cases w <;> rfl

theorem RoundTrip.popc w rd ra : Statement (.popc w rd ra) := by
  intro hw x hx
  obtain rfl := Option.some.inj hx
  refine decode_of ?_ hw
  refine (major_decodeOpr (rrf_26_6 _ _ _ _ _)).trans ?_
  simp only [decodeOpr, rrf_z15, rrf_z10, vfn_7_4, vfn_3_4, vfn_0_3, ffn_6_5, ffn_4_2, ffn_1_3, ffn_b0, afn_5_6, afn_0_5, afn_mod, afn_bit, hbM_0_4, hbM_b4, z14_0_4, z14_b4, z23_0_3, z23_3_2, z32_0_2, z32_3_2, z32_2_3, z32_b2, ktM_0_2, ktM_3_2, ktM_b2, rc23_3_2, rc23_0_3, rc32_2_3, rc32_0_2, obM_0_2, obM_b2, obM_b3, obM_b4, cvtF_9_2, cvtF_5_4, cvtF_2_3, cvtF_0_2, vcvtF_9_2, vcvtF_6_3, vcvtF_3_3, vcvtF_0_3, vscF_9_2, vscF_7_2, vscF_5_2, vscF_2_3, vscF_0_2, sfuF_8_3, sfuF_b7, sfuF_3_4, sfuF_0_3, rrf_21_5, rrf_16_5, rrf_11_5, rrf_rd, rrf_ra, rrf_rb, rrf_fn, rrf_bit, rrf_rb_bit, rrf_ra_bit, rrf_rd_bit, coded, need, BitVec.extractLsb'_eq_self, Nat.reduceLeDiff, Nat.reduceAdd, Nat.reduceSub, Nat.reduceLT, elemTyOf_code, rmOf_code, fmtOf3_code, hintOf_code, fsizeOf_code, redOpOf_code, voteKindOf_code, sgnOpOf_code, cmpOpOf_code, kOpOf_code, kCondOf_code, qOpOf_code, mtypeOf_code, scopeOf_code, ordOf_code, logOpOf_code, dirOf_code, topoOf_code, aselOf_code, bselOf_code]
  cases w <;> rfl

theorem RoundTrip.addi rd ra i : Statement (.addi rd ra i) := by
  intro hw x hx
  obtain rfl := Option.some.inj hx
  refine decode_of ?_ hw
  unfold decodeFields
  rw [i16_26_6 _ _ _ _]
  simp only [i16_21_5, i16_16_5, i16_0_16, need]
  rfl

theorem RoundTrip.andi rd ra i : Statement (.andi rd ra i) := by
  intro hw x hx
  obtain rfl := Option.some.inj hx
  refine decode_of ?_ hw
  unfold decodeFields
  rw [i16_26_6 _ _ _ _]
  simp only [i16_21_5, i16_16_5, i16_0_16, need]
  rfl

theorem RoundTrip.ori rd ra i : Statement (.ori rd ra i) := by
  intro hw x hx
  obtain rfl := Option.some.inj hx
  refine decode_of ?_ hw
  unfold decodeFields
  rw [i16_26_6 _ _ _ _]
  simp only [i16_21_5, i16_16_5, i16_0_16, need]
  rfl

theorem RoundTrip.xori rd ra i : Statement (.xori rd ra i) := by
  intro hw x hx
  obtain rfl := Option.some.inj hx
  refine decode_of ?_ hw
  unfold decodeFields
  rw [i16_26_6 _ _ _ _]
  simp only [i16_21_5, i16_16_5, i16_0_16, need]
  rfl

theorem RoundTrip.slti rd ra i : Statement (.slti rd ra i) := by
  intro hw x hx
  obtain rfl := Option.some.inj hx
  refine decode_of ?_ hw
  unfold decodeFields
  rw [i16_26_6 _ _ _ _]
  simp only [i16_21_5, i16_16_5, i16_0_16, need]
  rfl

theorem RoundTrip.sltiu rd ra i : Statement (.sltiu rd ra i) := by
  intro hw x hx
  obtain rfl := Option.some.inj hx
  refine decode_of ?_ hw
  unfold decodeFields
  rw [i16_26_6 _ _ _ _]
  simp only [i16_21_5, i16_16_5, i16_0_16, need]
  rfl

theorem RoundTrip.slli w rd ra c : Statement (.slli w rd ra c) := by
  intro hw x hx
  obtain rfl := Option.some.inj hx
  refine decode_of ?_ hw
  refine (major_decodeShi (shi_26_6 _ _ _ _ _)).trans ?_
  simp only [decodeShi, shi_21_5, shi_16_5, shi_imm, shi_b13, shiImm_14_2, shiImm_6_7, shiImm_0_6, coded, need, BitVec.extractLsb'_eq_self, Nat.reduceLeDiff, Nat.reduceAdd, Nat.reduceSub, Nat.reduceLT, elemTyOf_code, rmOf_code, fmtOf3_code, hintOf_code, fsizeOf_code, redOpOf_code, voteKindOf_code, sgnOpOf_code, cmpOpOf_code, kOpOf_code, kCondOf_code, qOpOf_code, mtypeOf_code, scopeOf_code, ordOf_code, logOpOf_code, dirOf_code, topoOf_code, aselOf_code, bselOf_code]
  rfl

theorem RoundTrip.srli w rd ra c : Statement (.srli w rd ra c) := by
  intro hw x hx
  obtain rfl := Option.some.inj hx
  refine decode_of ?_ hw
  refine (major_decodeShi (shi_26_6 _ _ _ _ _)).trans ?_
  simp only [decodeShi, shi_21_5, shi_16_5, shi_imm, shi_b13, shiImm_14_2, shiImm_6_7, shiImm_0_6, coded, need, BitVec.extractLsb'_eq_self, Nat.reduceLeDiff, Nat.reduceAdd, Nat.reduceSub, Nat.reduceLT, elemTyOf_code, rmOf_code, fmtOf3_code, hintOf_code, fsizeOf_code, redOpOf_code, voteKindOf_code, sgnOpOf_code, cmpOpOf_code, kOpOf_code, kCondOf_code, qOpOf_code, mtypeOf_code, scopeOf_code, ordOf_code, logOpOf_code, dirOf_code, topoOf_code, aselOf_code, bselOf_code]
  rfl

theorem RoundTrip.srai w rd ra c : Statement (.srai w rd ra c) := by
  intro hw x hx
  obtain rfl := Option.some.inj hx
  refine decode_of ?_ hw
  refine (major_decodeShi (shi_26_6 _ _ _ _ _)).trans ?_
  simp only [decodeShi, shi_21_5, shi_16_5, shi_imm, shi_b13, shiImm_14_2, shiImm_6_7, shiImm_0_6, coded, need, BitVec.extractLsb'_eq_self, Nat.reduceLeDiff, Nat.reduceAdd, Nat.reduceSub, Nat.reduceLT, elemTyOf_code, rmOf_code, fmtOf3_code, hintOf_code, fsizeOf_code, redOpOf_code, voteKindOf_code, sgnOpOf_code, cmpOpOf_code, kOpOf_code, kCondOf_code, qOpOf_code, mtypeOf_code, scopeOf_code, ordOf_code, logOpOf_code, dirOf_code, topoOf_code, aselOf_code, bselOf_code]
  rfl

theorem RoundTrip.lui rd i : Statement (.lui rd i) := by
  intro hw x hx
  obtain rfl := Option.some.inj hx
  refine decode_of ?_ hw
  unfold decodeFields
  rw [i16_26_6 _ _ _ _]
  simp only [i16_21_5, i16_16_5, i16_0_16, need]
  rfl

theorem RoundTrip.auipc rd i : Statement (.auipc rd i) := by
  intro hw x hx
  obtain rfl := Option.some.inj hx
  refine decode_of ?_ hw
  unfold decodeFields
  rw [i16_26_6 _ _ _ _]
  simp only [i16_21_5, i16_16_5, i16_0_16, need]
  rfl

theorem RoundTrip.beq ra rb o : Statement (.beq ra rb o) := by
  intro hw x hx
  obtain rfl := Option.some.inj hx
  refine decode_of ?_ hw
  refine (major_decodeBr (brw_26_6 _ _ _ _)).trans ?_
  simp only [decodeBr, brw_21_5, brw_16_5, brw_13_3, brw_0_13, coded, need, BitVec.extractLsb'_eq_self, Nat.reduceLeDiff, Nat.reduceAdd, Nat.reduceSub, Nat.reduceLT, elemTyOf_code, rmOf_code, fmtOf3_code, hintOf_code, fsizeOf_code, redOpOf_code, voteKindOf_code, sgnOpOf_code, cmpOpOf_code, kOpOf_code, kCondOf_code, qOpOf_code, mtypeOf_code, scopeOf_code, ordOf_code, logOpOf_code, dirOf_code, topoOf_code, aselOf_code, bselOf_code]
  rfl

theorem RoundTrip.bne ra rb o : Statement (.bne ra rb o) := by
  intro hw x hx
  obtain rfl := Option.some.inj hx
  refine decode_of ?_ hw
  refine (major_decodeBr (brw_26_6 _ _ _ _)).trans ?_
  simp only [decodeBr, brw_21_5, brw_16_5, brw_13_3, brw_0_13, coded, need, BitVec.extractLsb'_eq_self, Nat.reduceLeDiff, Nat.reduceAdd, Nat.reduceSub, Nat.reduceLT, elemTyOf_code, rmOf_code, fmtOf3_code, hintOf_code, fsizeOf_code, redOpOf_code, voteKindOf_code, sgnOpOf_code, cmpOpOf_code, kOpOf_code, kCondOf_code, qOpOf_code, mtypeOf_code, scopeOf_code, ordOf_code, logOpOf_code, dirOf_code, topoOf_code, aselOf_code, bselOf_code]
  rfl

theorem RoundTrip.blt ra rb o : Statement (.blt ra rb o) := by
  intro hw x hx
  obtain rfl := Option.some.inj hx
  refine decode_of ?_ hw
  refine (major_decodeBr (brw_26_6 _ _ _ _)).trans ?_
  simp only [decodeBr, brw_21_5, brw_16_5, brw_13_3, brw_0_13, coded, need, BitVec.extractLsb'_eq_self, Nat.reduceLeDiff, Nat.reduceAdd, Nat.reduceSub, Nat.reduceLT, elemTyOf_code, rmOf_code, fmtOf3_code, hintOf_code, fsizeOf_code, redOpOf_code, voteKindOf_code, sgnOpOf_code, cmpOpOf_code, kOpOf_code, kCondOf_code, qOpOf_code, mtypeOf_code, scopeOf_code, ordOf_code, logOpOf_code, dirOf_code, topoOf_code, aselOf_code, bselOf_code]
  rfl

theorem RoundTrip.bge ra rb o : Statement (.bge ra rb o) := by
  intro hw x hx
  obtain rfl := Option.some.inj hx
  refine decode_of ?_ hw
  refine (major_decodeBr (brw_26_6 _ _ _ _)).trans ?_
  simp only [decodeBr, brw_21_5, brw_16_5, brw_13_3, brw_0_13, coded, need, BitVec.extractLsb'_eq_self, Nat.reduceLeDiff, Nat.reduceAdd, Nat.reduceSub, Nat.reduceLT, elemTyOf_code, rmOf_code, fmtOf3_code, hintOf_code, fsizeOf_code, redOpOf_code, voteKindOf_code, sgnOpOf_code, cmpOpOf_code, kOpOf_code, kCondOf_code, qOpOf_code, mtypeOf_code, scopeOf_code, ordOf_code, logOpOf_code, dirOf_code, topoOf_code, aselOf_code, bselOf_code]
  rfl

theorem RoundTrip.bltu ra rb o : Statement (.bltu ra rb o) := by
  intro hw x hx
  obtain rfl := Option.some.inj hx
  refine decode_of ?_ hw
  refine (major_decodeBr (brw_26_6 _ _ _ _)).trans ?_
  simp only [decodeBr, brw_21_5, brw_16_5, brw_13_3, brw_0_13, coded, need, BitVec.extractLsb'_eq_self, Nat.reduceLeDiff, Nat.reduceAdd, Nat.reduceSub, Nat.reduceLT, elemTyOf_code, rmOf_code, fmtOf3_code, hintOf_code, fsizeOf_code, redOpOf_code, voteKindOf_code, sgnOpOf_code, cmpOpOf_code, kOpOf_code, kCondOf_code, qOpOf_code, mtypeOf_code, scopeOf_code, ordOf_code, logOpOf_code, dirOf_code, topoOf_code, aselOf_code, bselOf_code]
  rfl

theorem RoundTrip.bgeu ra rb o : Statement (.bgeu ra rb o) := by
  intro hw x hx
  obtain rfl := Option.some.inj hx
  refine decode_of ?_ hw
  refine (major_decodeBr (brw_26_6 _ _ _ _)).trans ?_
  simp only [decodeBr, brw_21_5, brw_16_5, brw_13_3, brw_0_13, coded, need, BitVec.extractLsb'_eq_self, Nat.reduceLeDiff, Nat.reduceAdd, Nat.reduceSub, Nat.reduceLT, elemTyOf_code, rmOf_code, fmtOf3_code, hintOf_code, fsizeOf_code, redOpOf_code, voteKindOf_code, sgnOpOf_code, cmpOpOf_code, kOpOf_code, kCondOf_code, qOpOf_code, mtypeOf_code, scopeOf_code, ordOf_code, logOpOf_code, dirOf_code, topoOf_code, aselOf_code, bselOf_code]
  rfl

theorem RoundTrip.jal rd o : Statement (.jal rd o) := by
  intro hw x hx
  obtain rfl := Option.some.inj hx
  refine decode_of ?_ hw
  unfold decodeFields
  rw [jal_26_6 rd o]
  simp only [jal_21_5, jal_0_21, need]
  rfl

theorem RoundTrip.jalr rd ra i : Statement (.jalr rd ra i) := by
  intro hw x hx
  obtain rfl := Option.some.inj hx
  refine decode_of ?_ hw
  unfold decodeFields
  rw [i16_26_6 _ _ _ _]
  simp only [i16_21_5, i16_16_5, i16_0_16, need]
  rfl

theorem RoundTrip.jpt o : Statement (.jpt o) := by
  intro hw x hx
  obtain rfl := Option.some.inj hx
  refine decode_of ?_ hw
  unfold decodeFields
  rw [jpt_26_6 o]
  simp only [jpt_0_26, need]
  rfl

theorem RoundTrip.lb h rd ra i : Statement (.lb h rd ra i) := by
  intro hw x hx
  obtain rfl := Option.some.inj hx
  refine decode_of ?_ hw
  refine (major_decodeLoad (mw_26_6 _ _ _ _ _ _)).trans ?_
  simp only [decodeLoad, mw_21_5, mw_16_5, mw_13_3, mw_11_2, mw_0_11, coded, need, BitVec.extractLsb'_eq_self, Nat.reduceLeDiff, Nat.reduceAdd, Nat.reduceSub, Nat.reduceLT, elemTyOf_code, rmOf_code, fmtOf3_code, hintOf_code, fsizeOf_code, redOpOf_code, voteKindOf_code, sgnOpOf_code, cmpOpOf_code, kOpOf_code, kCondOf_code, qOpOf_code, mtypeOf_code, scopeOf_code, ordOf_code, logOpOf_code, dirOf_code, topoOf_code, aselOf_code, bselOf_code]
  rfl

theorem RoundTrip.lh h rd ra i : Statement (.lh h rd ra i) := by
  intro hw x hx
  obtain rfl := Option.some.inj hx
  refine decode_of ?_ hw
  refine (major_decodeLoad (mw_26_6 _ _ _ _ _ _)).trans ?_
  simp only [decodeLoad, mw_21_5, mw_16_5, mw_13_3, mw_11_2, mw_0_11, coded, need, BitVec.extractLsb'_eq_self, Nat.reduceLeDiff, Nat.reduceAdd, Nat.reduceSub, Nat.reduceLT, elemTyOf_code, rmOf_code, fmtOf3_code, hintOf_code, fsizeOf_code, redOpOf_code, voteKindOf_code, sgnOpOf_code, cmpOpOf_code, kOpOf_code, kCondOf_code, qOpOf_code, mtypeOf_code, scopeOf_code, ordOf_code, logOpOf_code, dirOf_code, topoOf_code, aselOf_code, bselOf_code]
  rfl

theorem RoundTrip.lw h rd ra i : Statement (.lw h rd ra i) := by
  intro hw x hx
  obtain rfl := Option.some.inj hx
  refine decode_of ?_ hw
  refine (major_decodeLoad (mw_26_6 _ _ _ _ _ _)).trans ?_
  simp only [decodeLoad, mw_21_5, mw_16_5, mw_13_3, mw_11_2, mw_0_11, coded, need, BitVec.extractLsb'_eq_self, Nat.reduceLeDiff, Nat.reduceAdd, Nat.reduceSub, Nat.reduceLT, elemTyOf_code, rmOf_code, fmtOf3_code, hintOf_code, fsizeOf_code, redOpOf_code, voteKindOf_code, sgnOpOf_code, cmpOpOf_code, kOpOf_code, kCondOf_code, qOpOf_code, mtypeOf_code, scopeOf_code, ordOf_code, logOpOf_code, dirOf_code, topoOf_code, aselOf_code, bselOf_code]
  rfl

theorem RoundTrip.ld h rd ra i : Statement (.ld h rd ra i) := by
  intro hw x hx
  obtain rfl := Option.some.inj hx
  refine decode_of ?_ hw
  refine (major_decodeLoad (mw_26_6 _ _ _ _ _ _)).trans ?_
  simp only [decodeLoad, mw_21_5, mw_16_5, mw_13_3, mw_11_2, mw_0_11, coded, need, BitVec.extractLsb'_eq_self, Nat.reduceLeDiff, Nat.reduceAdd, Nat.reduceSub, Nat.reduceLT, elemTyOf_code, rmOf_code, fmtOf3_code, hintOf_code, fsizeOf_code, redOpOf_code, voteKindOf_code, sgnOpOf_code, cmpOpOf_code, kOpOf_code, kCondOf_code, qOpOf_code, mtypeOf_code, scopeOf_code, ordOf_code, logOpOf_code, dirOf_code, topoOf_code, aselOf_code, bselOf_code]
  rfl

theorem RoundTrip.lbu h rd ra i : Statement (.lbu h rd ra i) := by
  intro hw x hx
  obtain rfl := Option.some.inj hx
  refine decode_of ?_ hw
  refine (major_decodeLoad (mw_26_6 _ _ _ _ _ _)).trans ?_
  simp only [decodeLoad, mw_21_5, mw_16_5, mw_13_3, mw_11_2, mw_0_11, coded, need, BitVec.extractLsb'_eq_self, Nat.reduceLeDiff, Nat.reduceAdd, Nat.reduceSub, Nat.reduceLT, elemTyOf_code, rmOf_code, fmtOf3_code, hintOf_code, fsizeOf_code, redOpOf_code, voteKindOf_code, sgnOpOf_code, cmpOpOf_code, kOpOf_code, kCondOf_code, qOpOf_code, mtypeOf_code, scopeOf_code, ordOf_code, logOpOf_code, dirOf_code, topoOf_code, aselOf_code, bselOf_code]
  rfl

theorem RoundTrip.lhu h rd ra i : Statement (.lhu h rd ra i) := by
  intro hw x hx
  obtain rfl := Option.some.inj hx
  refine decode_of ?_ hw
  refine (major_decodeLoad (mw_26_6 _ _ _ _ _ _)).trans ?_
  simp only [decodeLoad, mw_21_5, mw_16_5, mw_13_3, mw_11_2, mw_0_11, coded, need, BitVec.extractLsb'_eq_self, Nat.reduceLeDiff, Nat.reduceAdd, Nat.reduceSub, Nat.reduceLT, elemTyOf_code, rmOf_code, fmtOf3_code, hintOf_code, fsizeOf_code, redOpOf_code, voteKindOf_code, sgnOpOf_code, cmpOpOf_code, kOpOf_code, kCondOf_code, qOpOf_code, mtypeOf_code, scopeOf_code, ordOf_code, logOpOf_code, dirOf_code, topoOf_code, aselOf_code, bselOf_code]
  rfl

theorem RoundTrip.lwu h rd ra i : Statement (.lwu h rd ra i) := by
  intro hw x hx
  obtain rfl := Option.some.inj hx
  refine decode_of ?_ hw
  refine (major_decodeLoad (mw_26_6 _ _ _ _ _ _)).trans ?_
  simp only [decodeLoad, mw_21_5, mw_16_5, mw_13_3, mw_11_2, mw_0_11, coded, need, BitVec.extractLsb'_eq_self, Nat.reduceLeDiff, Nat.reduceAdd, Nat.reduceSub, Nat.reduceLT, elemTyOf_code, rmOf_code, fmtOf3_code, hintOf_code, fsizeOf_code, redOpOf_code, voteKindOf_code, sgnOpOf_code, cmpOpOf_code, kOpOf_code, kCondOf_code, qOpOf_code, mtypeOf_code, scopeOf_code, ordOf_code, logOpOf_code, dirOf_code, topoOf_code, aselOf_code, bselOf_code]
  rfl

theorem RoundTrip.sb h rs ra i : Statement (.sb h rs ra i) := by
  intro hw x hx
  obtain rfl := Option.some.inj hx
  refine decode_of ?_ hw
  refine (major_decodeStore (mw_26_6 _ _ _ _ _ _)).trans ?_
  simp only [decodeStore, mw_21_5, mw_16_5, mw_13_3, mw_11_2, mw_0_11, coded, need, BitVec.extractLsb'_eq_self, Nat.reduceLeDiff, Nat.reduceAdd, Nat.reduceSub, Nat.reduceLT, elemTyOf_code, rmOf_code, fmtOf3_code, hintOf_code, fsizeOf_code, redOpOf_code, voteKindOf_code, sgnOpOf_code, cmpOpOf_code, kOpOf_code, kCondOf_code, qOpOf_code, mtypeOf_code, scopeOf_code, ordOf_code, logOpOf_code, dirOf_code, topoOf_code, aselOf_code, bselOf_code]
  rfl

theorem RoundTrip.sh h rs ra i : Statement (.sh h rs ra i) := by
  intro hw x hx
  obtain rfl := Option.some.inj hx
  refine decode_of ?_ hw
  refine (major_decodeStore (mw_26_6 _ _ _ _ _ _)).trans ?_
  simp only [decodeStore, mw_21_5, mw_16_5, mw_13_3, mw_11_2, mw_0_11, coded, need, BitVec.extractLsb'_eq_self, Nat.reduceLeDiff, Nat.reduceAdd, Nat.reduceSub, Nat.reduceLT, elemTyOf_code, rmOf_code, fmtOf3_code, hintOf_code, fsizeOf_code, redOpOf_code, voteKindOf_code, sgnOpOf_code, cmpOpOf_code, kOpOf_code, kCondOf_code, qOpOf_code, mtypeOf_code, scopeOf_code, ordOf_code, logOpOf_code, dirOf_code, topoOf_code, aselOf_code, bselOf_code]
  rfl

theorem RoundTrip.sw h rs ra i : Statement (.sw h rs ra i) := by
  intro hw x hx
  obtain rfl := Option.some.inj hx
  refine decode_of ?_ hw
  refine (major_decodeStore (mw_26_6 _ _ _ _ _ _)).trans ?_
  simp only [decodeStore, mw_21_5, mw_16_5, mw_13_3, mw_11_2, mw_0_11, coded, need, BitVec.extractLsb'_eq_self, Nat.reduceLeDiff, Nat.reduceAdd, Nat.reduceSub, Nat.reduceLT, elemTyOf_code, rmOf_code, fmtOf3_code, hintOf_code, fsizeOf_code, redOpOf_code, voteKindOf_code, sgnOpOf_code, cmpOpOf_code, kOpOf_code, kCondOf_code, qOpOf_code, mtypeOf_code, scopeOf_code, ordOf_code, logOpOf_code, dirOf_code, topoOf_code, aselOf_code, bselOf_code]
  rfl

theorem RoundTrip.sd h rs ra i : Statement (.sd h rs ra i) := by
  intro hw x hx
  obtain rfl := Option.some.inj hx
  refine decode_of ?_ hw
  refine (major_decodeStore (mw_26_6 _ _ _ _ _ _)).trans ?_
  simp only [decodeStore, mw_21_5, mw_16_5, mw_13_3, mw_11_2, mw_0_11, coded, need, BitVec.extractLsb'_eq_self, Nat.reduceLeDiff, Nat.reduceAdd, Nat.reduceSub, Nat.reduceLT, elemTyOf_code, rmOf_code, fmtOf3_code, hintOf_code, fsizeOf_code, redOpOf_code, voteKindOf_code, sgnOpOf_code, cmpOpOf_code, kOpOf_code, kCondOf_code, qOpOf_code, mtypeOf_code, scopeOf_code, ordOf_code, logOpOf_code, dirOf_code, topoOf_code, aselOf_code, bselOf_code]
  rfl

theorem RoundTrip.amoadd sz sc o rd ra rb : Statement (.amoadd sz sc o rd ra rb) := by
  intro hw x hx
  obtain rfl := Option.some.inj hx
  refine decode_of ?_ hw
  refine (major_decodeAtom (aw_26_6 _ _ _ _ _ _ _)).trans ?_
  simp only [decodeAtom, aw_21_5, aw_16_5, aw_11_5, aw_7_4, aw_4_3, aw_2_2, aw_b1, aw_b0, coded, need, BitVec.extractLsb'_eq_self, Nat.reduceLeDiff, Nat.reduceAdd, Nat.reduceSub, Nat.reduceLT, elemTyOf_code, rmOf_code, fmtOf3_code, hintOf_code, fsizeOf_code, redOpOf_code, voteKindOf_code, sgnOpOf_code, cmpOpOf_code, kOpOf_code, kCondOf_code, qOpOf_code, mtypeOf_code, scopeOf_code, ordOf_code, logOpOf_code, dirOf_code, topoOf_code, aselOf_code, bselOf_code]
  rfl

theorem RoundTrip.amoand sz sc o rd ra rb : Statement (.amoand sz sc o rd ra rb) := by
  intro hw x hx
  obtain rfl := Option.some.inj hx
  refine decode_of ?_ hw
  refine (major_decodeAtom (aw_26_6 _ _ _ _ _ _ _)).trans ?_
  simp only [decodeAtom, aw_21_5, aw_16_5, aw_11_5, aw_7_4, aw_4_3, aw_2_2, aw_b1, aw_b0, coded, need, BitVec.extractLsb'_eq_self, Nat.reduceLeDiff, Nat.reduceAdd, Nat.reduceSub, Nat.reduceLT, elemTyOf_code, rmOf_code, fmtOf3_code, hintOf_code, fsizeOf_code, redOpOf_code, voteKindOf_code, sgnOpOf_code, cmpOpOf_code, kOpOf_code, kCondOf_code, qOpOf_code, mtypeOf_code, scopeOf_code, ordOf_code, logOpOf_code, dirOf_code, topoOf_code, aselOf_code, bselOf_code]
  rfl

theorem RoundTrip.amoor sz sc o rd ra rb : Statement (.amoor sz sc o rd ra rb) := by
  intro hw x hx
  obtain rfl := Option.some.inj hx
  refine decode_of ?_ hw
  refine (major_decodeAtom (aw_26_6 _ _ _ _ _ _ _)).trans ?_
  simp only [decodeAtom, aw_21_5, aw_16_5, aw_11_5, aw_7_4, aw_4_3, aw_2_2, aw_b1, aw_b0, coded, need, BitVec.extractLsb'_eq_self, Nat.reduceLeDiff, Nat.reduceAdd, Nat.reduceSub, Nat.reduceLT, elemTyOf_code, rmOf_code, fmtOf3_code, hintOf_code, fsizeOf_code, redOpOf_code, voteKindOf_code, sgnOpOf_code, cmpOpOf_code, kOpOf_code, kCondOf_code, qOpOf_code, mtypeOf_code, scopeOf_code, ordOf_code, logOpOf_code, dirOf_code, topoOf_code, aselOf_code, bselOf_code]
  rfl

theorem RoundTrip.amoxor sz sc o rd ra rb : Statement (.amoxor sz sc o rd ra rb) := by
  intro hw x hx
  obtain rfl := Option.some.inj hx
  refine decode_of ?_ hw
  refine (major_decodeAtom (aw_26_6 _ _ _ _ _ _ _)).trans ?_
  simp only [decodeAtom, aw_21_5, aw_16_5, aw_11_5, aw_7_4, aw_4_3, aw_2_2, aw_b1, aw_b0, coded, need, BitVec.extractLsb'_eq_self, Nat.reduceLeDiff, Nat.reduceAdd, Nat.reduceSub, Nat.reduceLT, elemTyOf_code, rmOf_code, fmtOf3_code, hintOf_code, fsizeOf_code, redOpOf_code, voteKindOf_code, sgnOpOf_code, cmpOpOf_code, kOpOf_code, kCondOf_code, qOpOf_code, mtypeOf_code, scopeOf_code, ordOf_code, logOpOf_code, dirOf_code, topoOf_code, aselOf_code, bselOf_code]
  rfl

theorem RoundTrip.amomin sz sc o rd ra rb : Statement (.amomin sz sc o rd ra rb) := by
  intro hw x hx
  obtain rfl := Option.some.inj hx
  refine decode_of ?_ hw
  refine (major_decodeAtom (aw_26_6 _ _ _ _ _ _ _)).trans ?_
  simp only [decodeAtom, aw_21_5, aw_16_5, aw_11_5, aw_7_4, aw_4_3, aw_2_2, aw_b1, aw_b0, coded, need, BitVec.extractLsb'_eq_self, Nat.reduceLeDiff, Nat.reduceAdd, Nat.reduceSub, Nat.reduceLT, elemTyOf_code, rmOf_code, fmtOf3_code, hintOf_code, fsizeOf_code, redOpOf_code, voteKindOf_code, sgnOpOf_code, cmpOpOf_code, kOpOf_code, kCondOf_code, qOpOf_code, mtypeOf_code, scopeOf_code, ordOf_code, logOpOf_code, dirOf_code, topoOf_code, aselOf_code, bselOf_code]
  rfl

theorem RoundTrip.amomax sz sc o rd ra rb : Statement (.amomax sz sc o rd ra rb) := by
  intro hw x hx
  obtain rfl := Option.some.inj hx
  refine decode_of ?_ hw
  refine (major_decodeAtom (aw_26_6 _ _ _ _ _ _ _)).trans ?_
  simp only [decodeAtom, aw_21_5, aw_16_5, aw_11_5, aw_7_4, aw_4_3, aw_2_2, aw_b1, aw_b0, coded, need, BitVec.extractLsb'_eq_self, Nat.reduceLeDiff, Nat.reduceAdd, Nat.reduceSub, Nat.reduceLT, elemTyOf_code, rmOf_code, fmtOf3_code, hintOf_code, fsizeOf_code, redOpOf_code, voteKindOf_code, sgnOpOf_code, cmpOpOf_code, kOpOf_code, kCondOf_code, qOpOf_code, mtypeOf_code, scopeOf_code, ordOf_code, logOpOf_code, dirOf_code, topoOf_code, aselOf_code, bselOf_code]
  rfl

theorem RoundTrip.amominu sz sc o rd ra rb : Statement (.amominu sz sc o rd ra rb) := by
  intro hw x hx
  obtain rfl := Option.some.inj hx
  refine decode_of ?_ hw
  refine (major_decodeAtom (aw_26_6 _ _ _ _ _ _ _)).trans ?_
  simp only [decodeAtom, aw_21_5, aw_16_5, aw_11_5, aw_7_4, aw_4_3, aw_2_2, aw_b1, aw_b0, coded, need, BitVec.extractLsb'_eq_self, Nat.reduceLeDiff, Nat.reduceAdd, Nat.reduceSub, Nat.reduceLT, elemTyOf_code, rmOf_code, fmtOf3_code, hintOf_code, fsizeOf_code, redOpOf_code, voteKindOf_code, sgnOpOf_code, cmpOpOf_code, kOpOf_code, kCondOf_code, qOpOf_code, mtypeOf_code, scopeOf_code, ordOf_code, logOpOf_code, dirOf_code, topoOf_code, aselOf_code, bselOf_code]
  rfl

theorem RoundTrip.amomaxu sz sc o rd ra rb : Statement (.amomaxu sz sc o rd ra rb) := by
  intro hw x hx
  obtain rfl := Option.some.inj hx
  refine decode_of ?_ hw
  refine (major_decodeAtom (aw_26_6 _ _ _ _ _ _ _)).trans ?_
  simp only [decodeAtom, aw_21_5, aw_16_5, aw_11_5, aw_7_4, aw_4_3, aw_2_2, aw_b1, aw_b0, coded, need, BitVec.extractLsb'_eq_self, Nat.reduceLeDiff, Nat.reduceAdd, Nat.reduceSub, Nat.reduceLT, elemTyOf_code, rmOf_code, fmtOf3_code, hintOf_code, fsizeOf_code, redOpOf_code, voteKindOf_code, sgnOpOf_code, cmpOpOf_code, kOpOf_code, kCondOf_code, qOpOf_code, mtypeOf_code, scopeOf_code, ordOf_code, logOpOf_code, dirOf_code, topoOf_code, aselOf_code, bselOf_code]
  rfl

theorem RoundTrip.amoswap sz sc o rd ra rb : Statement (.amoswap sz sc o rd ra rb) := by
  intro hw x hx
  obtain rfl := Option.some.inj hx
  refine decode_of ?_ hw
  refine (major_decodeAtom (aw_26_6 _ _ _ _ _ _ _)).trans ?_
  simp only [decodeAtom, aw_21_5, aw_16_5, aw_11_5, aw_7_4, aw_4_3, aw_2_2, aw_b1, aw_b0, coded, need, BitVec.extractLsb'_eq_self, Nat.reduceLeDiff, Nat.reduceAdd, Nat.reduceSub, Nat.reduceLT, elemTyOf_code, rmOf_code, fmtOf3_code, hintOf_code, fsizeOf_code, redOpOf_code, voteKindOf_code, sgnOpOf_code, cmpOpOf_code, kOpOf_code, kCondOf_code, qOpOf_code, mtypeOf_code, scopeOf_code, ordOf_code, logOpOf_code, dirOf_code, topoOf_code, aselOf_code, bselOf_code]
  rfl

theorem RoundTrip.amofadd sz sc o rd ra rb : Statement (.amofadd sz sc o rd ra rb) := by
  intro hw x hx
  obtain rfl := Option.some.inj hx
  refine decode_of ?_ hw
  refine (major_decodeAtom (aw_26_6 _ _ _ _ _ _ _)).trans ?_
  simp only [decodeAtom, aw_21_5, aw_16_5, aw_11_5, aw_7_4, aw_4_3, aw_2_2, aw_b1, aw_b0, coded, need, BitVec.extractLsb'_eq_self, Nat.reduceLeDiff, Nat.reduceAdd, Nat.reduceSub, Nat.reduceLT, elemTyOf_code, rmOf_code, fmtOf3_code, hintOf_code, fsizeOf_code, redOpOf_code, voteKindOf_code, sgnOpOf_code, cmpOpOf_code, kOpOf_code, kCondOf_code, qOpOf_code, mtypeOf_code, scopeOf_code, ordOf_code, logOpOf_code, dirOf_code, topoOf_code, aselOf_code, bselOf_code]
  rfl

theorem RoundTrip.amocas sz sc o rd ra rb : Statement (.amocas sz sc o rd ra rb) := by
  intro hw x hx
  obtain rfl := Option.some.inj hx
  refine decode_of ?_ hw
  refine (major_decodeAtom (aw_26_6 _ _ _ _ _ _ _)).trans ?_
  simp only [decodeAtom, aw_21_5, aw_16_5, aw_11_5, aw_7_4, aw_4_3, aw_2_2, aw_b1, aw_b0, coded, need, BitVec.extractLsb'_eq_self, Nat.reduceLeDiff, Nat.reduceAdd, Nat.reduceSub, Nat.reduceLT, elemTyOf_code, rmOf_code, fmtOf3_code, hintOf_code, fsizeOf_code, redOpOf_code, voteKindOf_code, sgnOpOf_code, cmpOpOf_code, kOpOf_code, kCondOf_code, qOpOf_code, mtypeOf_code, scopeOf_code, ordOf_code, logOpOf_code, dirOf_code, topoOf_code, aselOf_code, bselOf_code]
  rfl

theorem RoundTrip.ldaq sz sc rd ra : Statement (.ldaq sz sc rd ra) := by
  intro hw x hx
  obtain rfl := Option.some.inj hx
  refine decode_of ?_ hw
  refine (major_decodeAtom (aw_26_6 _ _ _ _ _ _ _)).trans ?_
  simp only [decodeAtom, aw_21_5, aw_16_5, aw_11_5, aw_7_4, aw_4_3, aw_2_2, aw_b1, aw_b0, coded, need, BitVec.extractLsb'_eq_self, Nat.reduceLeDiff, Nat.reduceAdd, Nat.reduceSub, Nat.reduceLT, elemTyOf_code, rmOf_code, fmtOf3_code, hintOf_code, fsizeOf_code, redOpOf_code, voteKindOf_code, sgnOpOf_code, cmpOpOf_code, kOpOf_code, kCondOf_code, qOpOf_code, mtypeOf_code, scopeOf_code, ordOf_code, logOpOf_code, dirOf_code, topoOf_code, aselOf_code, bselOf_code]
  rfl

theorem RoundTrip.strl sz sc ra rb : Statement (.strl sz sc ra rb) := by
  intro hw x hx
  obtain rfl := Option.some.inj hx
  refine decode_of ?_ hw
  refine (major_decodeAtom (aw_26_6 _ _ _ _ _ _ _)).trans ?_
  simp only [decodeAtom, aw_21_5, aw_16_5, aw_11_5, aw_7_4, aw_4_3, aw_2_2, aw_b1, aw_b0, coded, need, BitVec.extractLsb'_eq_self, Nat.reduceLeDiff, Nat.reduceAdd, Nat.reduceSub, Nat.reduceLT, elemTyOf_code, rmOf_code, fmtOf3_code, hintOf_code, fsizeOf_code, redOpOf_code, voteKindOf_code, sgnOpOf_code, cmpOpOf_code, kOpOf_code, kCondOf_code, qOpOf_code, mtypeOf_code, scopeOf_code, ordOf_code, logOpOf_code, dirOf_code, topoOf_code, aselOf_code, bselOf_code]
  rfl

theorem RoundTrip.fence sc k io ra : Statement (.fence sc k io ra) := by
  intro hw x hx
  obtain rfl := Option.some.inj hx
  refine decode_of ?_ hw
  unfold rrfA
  refine (major_decodeSync (rrf_26_6 _ _ _ _ _)).trans ?_
  simp only [decodeSync, rrf_z15, rrf_z10, vfn_7_4, vfn_3_4, vfn_0_3, ffn_6_5, ffn_4_2, ffn_1_3, ffn_b0, afn_5_6, afn_0_5, afn_mod, afn_bit, hbM_0_4, hbM_b4, z14_0_4, z14_b4, z23_0_3, z23_3_2, z32_0_2, z32_3_2, z32_2_3, z32_b2, ktM_0_2, ktM_3_2, ktM_b2, rc23_3_2, rc23_0_3, rc32_2_3, rc32_0_2, obM_0_2, obM_b2, obM_b3, obM_b4, cvtF_9_2, cvtF_5_4, cvtF_2_3, cvtF_0_2, vcvtF_9_2, vcvtF_6_3, vcvtF_3_3, vcvtF_0_3, vscF_9_2, vscF_7_2, vscF_5_2, vscF_2_3, vscF_0_2, sfuF_8_3, sfuF_b7, sfuF_3_4, sfuF_0_3, rrf_21_5, rrf_16_5, rrf_11_5, rrf_rd, rrf_ra, rrf_rb, rrf_fn, rrf_bit, rrf_rb_bit, rrf_ra_bit, rrf_rd_bit, coded, need, BitVec.extractLsb'_eq_self, Nat.reduceLeDiff, Nat.reduceAdd, Nat.reduceSub, Nat.reduceLT, elemTyOf_code, rmOf_code, fmtOf3_code, hintOf_code, fsizeOf_code, redOpOf_code, voteKindOf_code, sgnOpOf_code, cmpOpOf_code, kOpOf_code, kCondOf_code, qOpOf_code, mtypeOf_code, scopeOf_code, ordOf_code, logOpOf_code, dirOf_code, topoOf_code, aselOf_code, bselOf_code]
  cases io <;> cases sc <;> rfl

theorem RoundTrip.ifence  : Statement (.ifence ) := by
  intro hw x hx
  obtain rfl := Option.some.inj hx
  refine decode_of ?_ hw
  unfold rrfA
  refine (major_decodeSync (rrf_26_6 _ _ _ _ _)).trans ?_
  simp only [decodeSync, rrf_z15, rrf_z10, vfn_7_4, vfn_3_4, vfn_0_3, ffn_6_5, ffn_4_2, ffn_1_3, ffn_b0, afn_5_6, afn_0_5, afn_mod, afn_bit, hbM_0_4, hbM_b4, z14_0_4, z14_b4, z23_0_3, z23_3_2, z32_0_2, z32_3_2, z32_2_3, z32_b2, ktM_0_2, ktM_3_2, ktM_b2, rc23_3_2, rc23_0_3, rc32_2_3, rc32_0_2, obM_0_2, obM_b2, obM_b3, obM_b4, cvtF_9_2, cvtF_5_4, cvtF_2_3, cvtF_0_2, vcvtF_9_2, vcvtF_6_3, vcvtF_3_3, vcvtF_0_3, vscF_9_2, vscF_7_2, vscF_5_2, vscF_2_3, vscF_0_2, sfuF_8_3, sfuF_b7, sfuF_3_4, sfuF_0_3, rrf_21_5, rrf_16_5, rrf_11_5, rrf_rd, rrf_ra, rrf_rb, rrf_fn, rrf_bit, rrf_rb_bit, rrf_ra_bit, rrf_rd_bit, coded, need, BitVec.extractLsb'_eq_self, Nat.reduceLeDiff, Nat.reduceAdd, Nat.reduceSub, Nat.reduceLT, elemTyOf_code, rmOf_code, fmtOf3_code, hintOf_code, fsizeOf_code, redOpOf_code, voteKindOf_code, sgnOpOf_code, cmpOpOf_code, kOpOf_code, kCondOf_code, qOpOf_code, mtypeOf_code, scopeOf_code, ordOf_code, logOpOf_code, dirOf_code, topoOf_code, aselOf_code, bselOf_code]
  rfl

theorem RoundTrip.waitf m : Statement (.waitf m) := by
  intro hw x hx
  obtain rfl := Option.some.inj hx
  refine decode_of ?_ hw
  refine (major_decodeSync (waitf_26_6 m)).trans ?_
  simp only [decodeSync, waitf_14_12, waitf_11_3, waitf_5_6, waitf_0_5, coded, need, BitVec.extractLsb'_eq_self, Nat.reduceLeDiff, Nat.reduceAdd, Nat.reduceSub, Nat.reduceLT, elemTyOf_code, rmOf_code, fmtOf3_code, hintOf_code, fsizeOf_code, redOpOf_code, voteKindOf_code, sgnOpOf_code, cmpOpOf_code, kOpOf_code, kCondOf_code, qOpOf_code, mtypeOf_code, scopeOf_code, ordOf_code, logOpOf_code, dirOf_code, topoOf_code, aselOf_code, bselOf_code]
  rfl

theorem RoundTrip.txbegin rd : Statement (.txbegin rd) := by
  intro hw x hx
  obtain rfl := Option.some.inj hx
  refine decode_of ?_ hw
  unfold rrfA
  refine (major_decodeSync (rrf_26_6 _ _ _ _ _)).trans ?_
  simp only [decodeSync, rrf_z15, rrf_z10, vfn_7_4, vfn_3_4, vfn_0_3, ffn_6_5, ffn_4_2, ffn_1_3, ffn_b0, afn_5_6, afn_0_5, afn_mod, afn_bit, hbM_0_4, hbM_b4, z14_0_4, z14_b4, z23_0_3, z23_3_2, z32_0_2, z32_3_2, z32_2_3, z32_b2, ktM_0_2, ktM_3_2, ktM_b2, rc23_3_2, rc23_0_3, rc32_2_3, rc32_0_2, obM_0_2, obM_b2, obM_b3, obM_b4, cvtF_9_2, cvtF_5_4, cvtF_2_3, cvtF_0_2, vcvtF_9_2, vcvtF_6_3, vcvtF_3_3, vcvtF_0_3, vscF_9_2, vscF_7_2, vscF_5_2, vscF_2_3, vscF_0_2, sfuF_8_3, sfuF_b7, sfuF_3_4, sfuF_0_3, rrf_21_5, rrf_16_5, rrf_11_5, rrf_rd, rrf_ra, rrf_rb, rrf_fn, rrf_bit, rrf_rb_bit, rrf_ra_bit, rrf_rd_bit, coded, need, BitVec.extractLsb'_eq_self, Nat.reduceLeDiff, Nat.reduceAdd, Nat.reduceSub, Nat.reduceLT, elemTyOf_code, rmOf_code, fmtOf3_code, hintOf_code, fsizeOf_code, redOpOf_code, voteKindOf_code, sgnOpOf_code, cmpOpOf_code, kOpOf_code, kCondOf_code, qOpOf_code, mtypeOf_code, scopeOf_code, ordOf_code, logOpOf_code, dirOf_code, topoOf_code, aselOf_code, bselOf_code]
  rfl

theorem RoundTrip.txend  : Statement (.txend ) := by
  intro hw x hx
  obtain rfl := Option.some.inj hx
  refine decode_of ?_ hw
  unfold rrfA
  refine (major_decodeSync (rrf_26_6 _ _ _ _ _)).trans ?_
  simp only [decodeSync, rrf_z15, rrf_z10, vfn_7_4, vfn_3_4, vfn_0_3, ffn_6_5, ffn_4_2, ffn_1_3, ffn_b0, afn_5_6, afn_0_5, afn_mod, afn_bit, hbM_0_4, hbM_b4, z14_0_4, z14_b4, z23_0_3, z23_3_2, z32_0_2, z32_3_2, z32_2_3, z32_b2, ktM_0_2, ktM_3_2, ktM_b2, rc23_3_2, rc23_0_3, rc32_2_3, rc32_0_2, obM_0_2, obM_b2, obM_b3, obM_b4, cvtF_9_2, cvtF_5_4, cvtF_2_3, cvtF_0_2, vcvtF_9_2, vcvtF_6_3, vcvtF_3_3, vcvtF_0_3, vscF_9_2, vscF_7_2, vscF_5_2, vscF_2_3, vscF_0_2, sfuF_8_3, sfuF_b7, sfuF_3_4, sfuF_0_3, rrf_21_5, rrf_16_5, rrf_11_5, rrf_rd, rrf_ra, rrf_rb, rrf_fn, rrf_bit, rrf_rb_bit, rrf_ra_bit, rrf_rd_bit, coded, need, BitVec.extractLsb'_eq_self, Nat.reduceLeDiff, Nat.reduceAdd, Nat.reduceSub, Nat.reduceLT, elemTyOf_code, rmOf_code, fmtOf3_code, hintOf_code, fsizeOf_code, redOpOf_code, voteKindOf_code, sgnOpOf_code, cmpOpOf_code, kOpOf_code, kCondOf_code, qOpOf_code, mtypeOf_code, scopeOf_code, ordOf_code, logOpOf_code, dirOf_code, topoOf_code, aselOf_code, bselOf_code]
  rfl

theorem RoundTrip.txabort c : Statement (.txabort c) := by
  intro hw x hx
  obtain rfl := Option.some.inj hx
  refine decode_of ?_ hw
  refine (major_decodeSync (txabort_26_6 c)).trans ?_
  simp only [decodeSync, txabort_18_8, txabort_11_7, txabort_5_6, txabort_0_5, coded, need, BitVec.extractLsb'_eq_self, Nat.reduceLeDiff, Nat.reduceAdd, Nat.reduceSub, Nat.reduceLT, elemTyOf_code, rmOf_code, fmtOf3_code, hintOf_code, fsizeOf_code, redOpOf_code, voteKindOf_code, sgnOpOf_code, cmpOpOf_code, kOpOf_code, kCondOf_code, qOpOf_code, mtypeOf_code, scopeOf_code, ordOf_code, logOpOf_code, dirOf_code, topoOf_code, aselOf_code, bselOf_code]
  rfl

theorem RoundTrip.txstat rd : Statement (.txstat rd) := by
  intro hw x hx
  obtain rfl := Option.some.inj hx
  refine decode_of ?_ hw
  unfold rrfA
  refine (major_decodeSync (rrf_26_6 _ _ _ _ _)).trans ?_
  simp only [decodeSync, rrf_z15, rrf_z10, vfn_7_4, vfn_3_4, vfn_0_3, ffn_6_5, ffn_4_2, ffn_1_3, ffn_b0, afn_5_6, afn_0_5, afn_mod, afn_bit, hbM_0_4, hbM_b4, z14_0_4, z14_b4, z23_0_3, z23_3_2, z32_0_2, z32_3_2, z32_2_3, z32_b2, ktM_0_2, ktM_3_2, ktM_b2, rc23_3_2, rc23_0_3, rc32_2_3, rc32_0_2, obM_0_2, obM_b2, obM_b3, obM_b4, cvtF_9_2, cvtF_5_4, cvtF_2_3, cvtF_0_2, vcvtF_9_2, vcvtF_6_3, vcvtF_3_3, vcvtF_0_3, vscF_9_2, vscF_7_2, vscF_5_2, vscF_2_3, vscF_0_2, sfuF_8_3, sfuF_b7, sfuF_3_4, sfuF_0_3, rrf_21_5, rrf_16_5, rrf_11_5, rrf_rd, rrf_ra, rrf_rb, rrf_fn, rrf_bit, rrf_rb_bit, rrf_ra_bit, rrf_rd_bit, coded, need, BitVec.extractLsb'_eq_self, Nat.reduceLeDiff, Nat.reduceAdd, Nat.reduceSub, Nat.reduceLT, elemTyOf_code, rmOf_code, fmtOf3_code, hintOf_code, fsizeOf_code, redOpOf_code, voteKindOf_code, sgnOpOf_code, cmpOpOf_code, kOpOf_code, kCondOf_code, qOpOf_code, mtypeOf_code, scopeOf_code, ordOf_code, logOpOf_code, dirOf_code, topoOf_code, aselOf_code, bselOf_code]
  rfl

theorem RoundTrip.acqh  : Statement (.acqh ) := by
  intro hw x hx
  obtain rfl := Option.some.inj hx
  refine decode_of ?_ hw
  unfold rrfA
  refine (major_decodeSync (rrf_26_6 _ _ _ _ _)).trans ?_
  simp only [decodeSync, rrf_z15, rrf_z10, vfn_7_4, vfn_3_4, vfn_0_3, ffn_6_5, ffn_4_2, ffn_1_3, ffn_b0, afn_5_6, afn_0_5, afn_mod, afn_bit, hbM_0_4, hbM_b4, z14_0_4, z14_b4, z23_0_3, z23_3_2, z32_0_2, z32_3_2, z32_2_3, z32_b2, ktM_0_2, ktM_3_2, ktM_b2, rc23_3_2, rc23_0_3, rc32_2_3, rc32_0_2, obM_0_2, obM_b2, obM_b3, obM_b4, cvtF_9_2, cvtF_5_4, cvtF_2_3, cvtF_0_2, vcvtF_9_2, vcvtF_6_3, vcvtF_3_3, vcvtF_0_3, vscF_9_2, vscF_7_2, vscF_5_2, vscF_2_3, vscF_0_2, sfuF_8_3, sfuF_b7, sfuF_3_4, sfuF_0_3, rrf_21_5, rrf_16_5, rrf_11_5, rrf_rd, rrf_ra, rrf_rb, rrf_fn, rrf_bit, rrf_rb_bit, rrf_ra_bit, rrf_rd_bit, coded, need, BitVec.extractLsb'_eq_self, Nat.reduceLeDiff, Nat.reduceAdd, Nat.reduceSub, Nat.reduceLT, elemTyOf_code, rmOf_code, fmtOf3_code, hintOf_code, fsizeOf_code, redOpOf_code, voteKindOf_code, sgnOpOf_code, cmpOpOf_code, kOpOf_code, kCondOf_code, qOpOf_code, mtypeOf_code, scopeOf_code, ordOf_code, logOpOf_code, dirOf_code, topoOf_code, aselOf_code, bselOf_code]
  rfl

theorem RoundTrip.relh  : Statement (.relh ) := by
  intro hw x hx
  obtain rfl := Option.some.inj hx
  refine decode_of ?_ hw
  unfold rrfA
  refine (major_decodeSync (rrf_26_6 _ _ _ _ _)).trans ?_
  simp only [decodeSync, rrf_z15, rrf_z10, vfn_7_4, vfn_3_4, vfn_0_3, ffn_6_5, ffn_4_2, ffn_1_3, ffn_b0, afn_5_6, afn_0_5, afn_mod, afn_bit, hbM_0_4, hbM_b4, z14_0_4, z14_b4, z23_0_3, z23_3_2, z32_0_2, z32_3_2, z32_2_3, z32_b2, ktM_0_2, ktM_3_2, ktM_b2, rc23_3_2, rc23_0_3, rc32_2_3, rc32_0_2, obM_0_2, obM_b2, obM_b3, obM_b4, cvtF_9_2, cvtF_5_4, cvtF_2_3, cvtF_0_2, vcvtF_9_2, vcvtF_6_3, vcvtF_3_3, vcvtF_0_3, vscF_9_2, vscF_7_2, vscF_5_2, vscF_2_3, vscF_0_2, sfuF_8_3, sfuF_b7, sfuF_3_4, sfuF_0_3, rrf_21_5, rrf_16_5, rrf_11_5, rrf_rd, rrf_ra, rrf_rb, rrf_fn, rrf_bit, rrf_rb_bit, rrf_ra_bit, rrf_rd_bit, coded, need, BitVec.extractLsb'_eq_self, Nat.reduceLeDiff, Nat.reduceAdd, Nat.reduceSub, Nat.reduceLT, elemTyOf_code, rmOf_code, fmtOf3_code, hintOf_code, fsizeOf_code, redOpOf_code, voteKindOf_code, sgnOpOf_code, cmpOpOf_code, kOpOf_code, kCondOf_code, qOpOf_code, mtypeOf_code, scopeOf_code, ordOf_code, logOpOf_code, dirOf_code, topoOf_code, aselOf_code, bselOf_code]
  rfl

theorem RoundTrip.fadd f rm rd ra rb : Statement (.fadd f rm rd ra rb) := by
  intro hw x hx
  obtain rfl := Option.some.inj hx
  refine decode_of ?_ hw
  unfold rrfF
  refine (major_decodeFps (rrf_26_6 _ _ _ _ _)).trans ?_
  simp only [decodeFps, rrf_z15, rrf_z10, vfn_7_4, vfn_3_4, vfn_0_3, ffn_6_5, ffn_4_2, ffn_1_3, ffn_b0, afn_5_6, afn_0_5, afn_mod, afn_bit, hbM_0_4, hbM_b4, z14_0_4, z14_b4, z23_0_3, z23_3_2, z32_0_2, z32_3_2, z32_2_3, z32_b2, ktM_0_2, ktM_3_2, ktM_b2, rc23_3_2, rc23_0_3, rc32_2_3, rc32_0_2, obM_0_2, obM_b2, obM_b3, obM_b4, cvtF_9_2, cvtF_5_4, cvtF_2_3, cvtF_0_2, vcvtF_9_2, vcvtF_6_3, vcvtF_3_3, vcvtF_0_3, vscF_9_2, vscF_7_2, vscF_5_2, vscF_2_3, vscF_0_2, sfuF_8_3, sfuF_b7, sfuF_3_4, sfuF_0_3, rrf_21_5, rrf_16_5, rrf_11_5, rrf_rd, rrf_ra, rrf_rb, rrf_fn, rrf_bit, rrf_rb_bit, rrf_ra_bit, rrf_rd_bit, coded, need, BitVec.extractLsb'_eq_self, Nat.reduceLeDiff, Nat.reduceAdd, Nat.reduceSub, Nat.reduceLT, elemTyOf_code, rmOf_code, fmtOf3_code, hintOf_code, fsizeOf_code, redOpOf_code, voteKindOf_code, sgnOpOf_code, cmpOpOf_code, kOpOf_code, kCondOf_code, qOpOf_code, mtypeOf_code, scopeOf_code, ordOf_code, logOpOf_code, dirOf_code, topoOf_code, aselOf_code, bselOf_code]
  cases f <;> first | rfl | exact Bool.noConfusion hw

theorem RoundTrip.fsub f rm rd ra rb : Statement (.fsub f rm rd ra rb) := by
  intro hw x hx
  obtain rfl := Option.some.inj hx
  refine decode_of ?_ hw
  unfold rrfF
  refine (major_decodeFps (rrf_26_6 _ _ _ _ _)).trans ?_
  simp only [decodeFps, rrf_z15, rrf_z10, vfn_7_4, vfn_3_4, vfn_0_3, ffn_6_5, ffn_4_2, ffn_1_3, ffn_b0, afn_5_6, afn_0_5, afn_mod, afn_bit, hbM_0_4, hbM_b4, z14_0_4, z14_b4, z23_0_3, z23_3_2, z32_0_2, z32_3_2, z32_2_3, z32_b2, ktM_0_2, ktM_3_2, ktM_b2, rc23_3_2, rc23_0_3, rc32_2_3, rc32_0_2, obM_0_2, obM_b2, obM_b3, obM_b4, cvtF_9_2, cvtF_5_4, cvtF_2_3, cvtF_0_2, vcvtF_9_2, vcvtF_6_3, vcvtF_3_3, vcvtF_0_3, vscF_9_2, vscF_7_2, vscF_5_2, vscF_2_3, vscF_0_2, sfuF_8_3, sfuF_b7, sfuF_3_4, sfuF_0_3, rrf_21_5, rrf_16_5, rrf_11_5, rrf_rd, rrf_ra, rrf_rb, rrf_fn, rrf_bit, rrf_rb_bit, rrf_ra_bit, rrf_rd_bit, coded, need, BitVec.extractLsb'_eq_self, Nat.reduceLeDiff, Nat.reduceAdd, Nat.reduceSub, Nat.reduceLT, elemTyOf_code, rmOf_code, fmtOf3_code, hintOf_code, fsizeOf_code, redOpOf_code, voteKindOf_code, sgnOpOf_code, cmpOpOf_code, kOpOf_code, kCondOf_code, qOpOf_code, mtypeOf_code, scopeOf_code, ordOf_code, logOpOf_code, dirOf_code, topoOf_code, aselOf_code, bselOf_code]
  cases f <;> first | rfl | exact Bool.noConfusion hw

theorem RoundTrip.fmul f rm rd ra rb : Statement (.fmul f rm rd ra rb) := by
  intro hw x hx
  obtain rfl := Option.some.inj hx
  refine decode_of ?_ hw
  unfold rrfF
  refine (major_decodeFps (rrf_26_6 _ _ _ _ _)).trans ?_
  simp only [decodeFps, rrf_z15, rrf_z10, vfn_7_4, vfn_3_4, vfn_0_3, ffn_6_5, ffn_4_2, ffn_1_3, ffn_b0, afn_5_6, afn_0_5, afn_mod, afn_bit, hbM_0_4, hbM_b4, z14_0_4, z14_b4, z23_0_3, z23_3_2, z32_0_2, z32_3_2, z32_2_3, z32_b2, ktM_0_2, ktM_3_2, ktM_b2, rc23_3_2, rc23_0_3, rc32_2_3, rc32_0_2, obM_0_2, obM_b2, obM_b3, obM_b4, cvtF_9_2, cvtF_5_4, cvtF_2_3, cvtF_0_2, vcvtF_9_2, vcvtF_6_3, vcvtF_3_3, vcvtF_0_3, vscF_9_2, vscF_7_2, vscF_5_2, vscF_2_3, vscF_0_2, sfuF_8_3, sfuF_b7, sfuF_3_4, sfuF_0_3, rrf_21_5, rrf_16_5, rrf_11_5, rrf_rd, rrf_ra, rrf_rb, rrf_fn, rrf_bit, rrf_rb_bit, rrf_ra_bit, rrf_rd_bit, coded, need, BitVec.extractLsb'_eq_self, Nat.reduceLeDiff, Nat.reduceAdd, Nat.reduceSub, Nat.reduceLT, elemTyOf_code, rmOf_code, fmtOf3_code, hintOf_code, fsizeOf_code, redOpOf_code, voteKindOf_code, sgnOpOf_code, cmpOpOf_code, kOpOf_code, kCondOf_code, qOpOf_code, mtypeOf_code, scopeOf_code, ordOf_code, logOpOf_code, dirOf_code, topoOf_code, aselOf_code, bselOf_code]
  cases f <;> first | rfl | exact Bool.noConfusion hw

theorem RoundTrip.fdiv f rm rd ra rb : Statement (.fdiv f rm rd ra rb) := by
  intro hw x hx
  obtain rfl := Option.some.inj hx
  refine decode_of ?_ hw
  unfold rrfF
  refine (major_decodeFps (rrf_26_6 _ _ _ _ _)).trans ?_
  simp only [decodeFps, rrf_z15, rrf_z10, vfn_7_4, vfn_3_4, vfn_0_3, ffn_6_5, ffn_4_2, ffn_1_3, ffn_b0, afn_5_6, afn_0_5, afn_mod, afn_bit, hbM_0_4, hbM_b4, z14_0_4, z14_b4, z23_0_3, z23_3_2, z32_0_2, z32_3_2, z32_2_3, z32_b2, ktM_0_2, ktM_3_2, ktM_b2, rc23_3_2, rc23_0_3, rc32_2_3, rc32_0_2, obM_0_2, obM_b2, obM_b3, obM_b4, cvtF_9_2, cvtF_5_4, cvtF_2_3, cvtF_0_2, vcvtF_9_2, vcvtF_6_3, vcvtF_3_3, vcvtF_0_3, vscF_9_2, vscF_7_2, vscF_5_2, vscF_2_3, vscF_0_2, sfuF_8_3, sfuF_b7, sfuF_3_4, sfuF_0_3, rrf_21_5, rrf_16_5, rrf_11_5, rrf_rd, rrf_ra, rrf_rb, rrf_fn, rrf_bit, rrf_rb_bit, rrf_ra_bit, rrf_rd_bit, coded, need, BitVec.extractLsb'_eq_self, Nat.reduceLeDiff, Nat.reduceAdd, Nat.reduceSub, Nat.reduceLT, elemTyOf_code, rmOf_code, fmtOf3_code, hintOf_code, fsizeOf_code, redOpOf_code, voteKindOf_code, sgnOpOf_code, cmpOpOf_code, kOpOf_code, kCondOf_code, qOpOf_code, mtypeOf_code, scopeOf_code, ordOf_code, logOpOf_code, dirOf_code, topoOf_code, aselOf_code, bselOf_code]
  cases f <;> first | rfl | exact Bool.noConfusion hw

theorem RoundTrip.fsqrt f rm rd ra : Statement (.fsqrt f rm rd ra) := by
  intro hw x hx
  obtain rfl := Option.some.inj hx
  refine decode_of ?_ hw
  unfold rrfF
  refine (major_decodeFps (rrf_26_6 _ _ _ _ _)).trans ?_
  simp only [decodeFps, rrf_z15, rrf_z10, vfn_7_4, vfn_3_4, vfn_0_3, ffn_6_5, ffn_4_2, ffn_1_3, ffn_b0, afn_5_6, afn_0_5, afn_mod, afn_bit, hbM_0_4, hbM_b4, z14_0_4, z14_b4, z23_0_3, z23_3_2, z32_0_2, z32_3_2, z32_2_3, z32_b2, ktM_0_2, ktM_3_2, ktM_b2, rc23_3_2, rc23_0_3, rc32_2_3, rc32_0_2, obM_0_2, obM_b2, obM_b3, obM_b4, cvtF_9_2, cvtF_5_4, cvtF_2_3, cvtF_0_2, vcvtF_9_2, vcvtF_6_3, vcvtF_3_3, vcvtF_0_3, vscF_9_2, vscF_7_2, vscF_5_2, vscF_2_3, vscF_0_2, sfuF_8_3, sfuF_b7, sfuF_3_4, sfuF_0_3, rrf_21_5, rrf_16_5, rrf_11_5, rrf_rd, rrf_ra, rrf_rb, rrf_fn, rrf_bit, rrf_rb_bit, rrf_ra_bit, rrf_rd_bit, coded, need, BitVec.extractLsb'_eq_self, Nat.reduceLeDiff, Nat.reduceAdd, Nat.reduceSub, Nat.reduceLT, elemTyOf_code, rmOf_code, fmtOf3_code, hintOf_code, fsizeOf_code, redOpOf_code, voteKindOf_code, sgnOpOf_code, cmpOpOf_code, kOpOf_code, kCondOf_code, qOpOf_code, mtypeOf_code, scopeOf_code, ordOf_code, logOpOf_code, dirOf_code, topoOf_code, aselOf_code, bselOf_code]
  cases f <;> first | rfl | exact Bool.noConfusion hw

theorem RoundTrip.fmin f rd ra rb : Statement (.fmin f rd ra rb) := by
  intro hw x hx
  obtain rfl := Option.some.inj hx
  refine decode_of ?_ hw
  unfold rrfF
  refine (major_decodeFps (rrf_26_6 _ _ _ _ _)).trans ?_
  simp only [decodeFps, rrf_z15, rrf_z10, vfn_7_4, vfn_3_4, vfn_0_3, ffn_6_5, ffn_4_2, ffn_1_3, ffn_b0, afn_5_6, afn_0_5, afn_mod, afn_bit, hbM_0_4, hbM_b4, z14_0_4, z14_b4, z23_0_3, z23_3_2, z32_0_2, z32_3_2, z32_2_3, z32_b2, ktM_0_2, ktM_3_2, ktM_b2, rc23_3_2, rc23_0_3, rc32_2_3, rc32_0_2, obM_0_2, obM_b2, obM_b3, obM_b4, cvtF_9_2, cvtF_5_4, cvtF_2_3, cvtF_0_2, vcvtF_9_2, vcvtF_6_3, vcvtF_3_3, vcvtF_0_3, vscF_9_2, vscF_7_2, vscF_5_2, vscF_2_3, vscF_0_2, sfuF_8_3, sfuF_b7, sfuF_3_4, sfuF_0_3, rrf_21_5, rrf_16_5, rrf_11_5, rrf_rd, rrf_ra, rrf_rb, rrf_fn, rrf_bit, rrf_rb_bit, rrf_ra_bit, rrf_rd_bit, coded, need, BitVec.extractLsb'_eq_self, Nat.reduceLeDiff, Nat.reduceAdd, Nat.reduceSub, Nat.reduceLT, elemTyOf_code, rmOf_code, fmtOf3_code, hintOf_code, fsizeOf_code, redOpOf_code, voteKindOf_code, sgnOpOf_code, cmpOpOf_code, kOpOf_code, kCondOf_code, qOpOf_code, mtypeOf_code, scopeOf_code, ordOf_code, logOpOf_code, dirOf_code, topoOf_code, aselOf_code, bselOf_code]
  cases f <;> first | rfl | exact Bool.noConfusion hw

theorem RoundTrip.fmax f rd ra rb : Statement (.fmax f rd ra rb) := by
  intro hw x hx
  obtain rfl := Option.some.inj hx
  refine decode_of ?_ hw
  unfold rrfF
  refine (major_decodeFps (rrf_26_6 _ _ _ _ _)).trans ?_
  simp only [decodeFps, rrf_z15, rrf_z10, vfn_7_4, vfn_3_4, vfn_0_3, ffn_6_5, ffn_4_2, ffn_1_3, ffn_b0, afn_5_6, afn_0_5, afn_mod, afn_bit, hbM_0_4, hbM_b4, z14_0_4, z14_b4, z23_0_3, z23_3_2, z32_0_2, z32_3_2, z32_2_3, z32_b2, ktM_0_2, ktM_3_2, ktM_b2, rc23_3_2, rc23_0_3, rc32_2_3, rc32_0_2, obM_0_2, obM_b2, obM_b3, obM_b4, cvtF_9_2, cvtF_5_4, cvtF_2_3, cvtF_0_2, vcvtF_9_2, vcvtF_6_3, vcvtF_3_3, vcvtF_0_3, vscF_9_2, vscF_7_2, vscF_5_2, vscF_2_3, vscF_0_2, sfuF_8_3, sfuF_b7, sfuF_3_4, sfuF_0_3, rrf_21_5, rrf_16_5, rrf_11_5, rrf_rd, rrf_ra, rrf_rb, rrf_fn, rrf_bit, rrf_rb_bit, rrf_ra_bit, rrf_rd_bit, coded, need, BitVec.extractLsb'_eq_self, Nat.reduceLeDiff, Nat.reduceAdd, Nat.reduceSub, Nat.reduceLT, elemTyOf_code, rmOf_code, fmtOf3_code, hintOf_code, fsizeOf_code, redOpOf_code, voteKindOf_code, sgnOpOf_code, cmpOpOf_code, kOpOf_code, kCondOf_code, qOpOf_code, mtypeOf_code, scopeOf_code, ordOf_code, logOpOf_code, dirOf_code, topoOf_code, aselOf_code, bselOf_code]
  cases f <;> first | rfl | exact Bool.noConfusion hw

theorem RoundTrip.fsgn f op rd ra rb : Statement (.fsgn f op rd ra rb) := by
  intro hw x hx
  obtain rfl := Option.some.inj hx
  refine decode_of ?_ hw
  unfold rrfF
  refine (major_decodeFps (rrf_26_6 _ _ _ _ _)).trans ?_
  simp only [decodeFps, rrf_z15, rrf_z10, vfn_7_4, vfn_3_4, vfn_0_3, ffn_6_5, ffn_4_2, ffn_1_3, ffn_b0, afn_5_6, afn_0_5, afn_mod, afn_bit, hbM_0_4, hbM_b4, z14_0_4, z14_b4, z23_0_3, z23_3_2, z32_0_2, z32_3_2, z32_2_3, z32_b2, ktM_0_2, ktM_3_2, ktM_b2, rc23_3_2, rc23_0_3, rc32_2_3, rc32_0_2, obM_0_2, obM_b2, obM_b3, obM_b4, cvtF_9_2, cvtF_5_4, cvtF_2_3, cvtF_0_2, vcvtF_9_2, vcvtF_6_3, vcvtF_3_3, vcvtF_0_3, vscF_9_2, vscF_7_2, vscF_5_2, vscF_2_3, vscF_0_2, sfuF_8_3, sfuF_b7, sfuF_3_4, sfuF_0_3, rrf_21_5, rrf_16_5, rrf_11_5, rrf_rd, rrf_ra, rrf_rb, rrf_fn, rrf_bit, rrf_rb_bit, rrf_ra_bit, rrf_rd_bit, coded, need, BitVec.extractLsb'_eq_self, Nat.reduceLeDiff, Nat.reduceAdd, Nat.reduceSub, Nat.reduceLT, elemTyOf_code, rmOf_code, fmtOf3_code, hintOf_code, fsizeOf_code, redOpOf_code, voteKindOf_code, sgnOpOf_code, cmpOpOf_code, kOpOf_code, kCondOf_code, qOpOf_code, mtypeOf_code, scopeOf_code, ordOf_code, logOpOf_code, dirOf_code, topoOf_code, aselOf_code, bselOf_code]
  cases f <;> first | rfl | exact Bool.noConfusion hw

theorem RoundTrip.fcmp f op rd ra rb : Statement (.fcmp f op rd ra rb) := by
  intro hw x hx
  obtain rfl := Option.some.inj hx
  refine decode_of ?_ hw
  unfold rrfF
  refine (major_decodeFps (rrf_26_6 _ _ _ _ _)).trans ?_
  simp only [decodeFps, rrf_z15, rrf_z10, vfn_7_4, vfn_3_4, vfn_0_3, ffn_6_5, ffn_4_2, ffn_1_3, ffn_b0, afn_5_6, afn_0_5, afn_mod, afn_bit, hbM_0_4, hbM_b4, z14_0_4, z14_b4, z23_0_3, z23_3_2, z32_0_2, z32_3_2, z32_2_3, z32_b2, ktM_0_2, ktM_3_2, ktM_b2, rc23_3_2, rc23_0_3, rc32_2_3, rc32_0_2, obM_0_2, obM_b2, obM_b3, obM_b4, cvtF_9_2, cvtF_5_4, cvtF_2_3, cvtF_0_2, vcvtF_9_2, vcvtF_6_3, vcvtF_3_3, vcvtF_0_3, vscF_9_2, vscF_7_2, vscF_5_2, vscF_2_3, vscF_0_2, sfuF_8_3, sfuF_b7, sfuF_3_4, sfuF_0_3, rrf_21_5, rrf_16_5, rrf_11_5, rrf_rd, rrf_ra, rrf_rb, rrf_fn, rrf_bit, rrf_rb_bit, rrf_ra_bit, rrf_rd_bit, coded, need, BitVec.extractLsb'_eq_self, Nat.reduceLeDiff, Nat.reduceAdd, Nat.reduceSub, Nat.reduceLT, elemTyOf_code, rmOf_code, fmtOf3_code, hintOf_code, fsizeOf_code, redOpOf_code, voteKindOf_code, sgnOpOf_code, cmpOpOf_code, kOpOf_code, kCondOf_code, qOpOf_code, mtypeOf_code, scopeOf_code, ordOf_code, logOpOf_code, dirOf_code, topoOf_code, aselOf_code, bselOf_code]
  cases f <;> first | rfl | exact Bool.noConfusion hw

theorem RoundTrip.fclass f rd ra : Statement (.fclass f rd ra) := by
  intro hw x hx
  obtain rfl := Option.some.inj hx
  refine decode_of ?_ hw
  unfold rrfF
  refine (major_decodeFps (rrf_26_6 _ _ _ _ _)).trans ?_
  simp only [decodeFps, rrf_z15, rrf_z10, vfn_7_4, vfn_3_4, vfn_0_3, ffn_6_5, ffn_4_2, ffn_1_3, ffn_b0, afn_5_6, afn_0_5, afn_mod, afn_bit, hbM_0_4, hbM_b4, z14_0_4, z14_b4, z23_0_3, z23_3_2, z32_0_2, z32_3_2, z32_2_3, z32_b2, ktM_0_2, ktM_3_2, ktM_b2, rc23_3_2, rc23_0_3, rc32_2_3, rc32_0_2, obM_0_2, obM_b2, obM_b3, obM_b4, cvtF_9_2, cvtF_5_4, cvtF_2_3, cvtF_0_2, vcvtF_9_2, vcvtF_6_3, vcvtF_3_3, vcvtF_0_3, vscF_9_2, vscF_7_2, vscF_5_2, vscF_2_3, vscF_0_2, sfuF_8_3, sfuF_b7, sfuF_3_4, sfuF_0_3, rrf_21_5, rrf_16_5, rrf_11_5, rrf_rd, rrf_ra, rrf_rb, rrf_fn, rrf_bit, rrf_rb_bit, rrf_ra_bit, rrf_rd_bit, coded, need, BitVec.extractLsb'_eq_self, Nat.reduceLeDiff, Nat.reduceAdd, Nat.reduceSub, Nat.reduceLT, elemTyOf_code, rmOf_code, fmtOf3_code, hintOf_code, fsizeOf_code, redOpOf_code, voteKindOf_code, sgnOpOf_code, cmpOpOf_code, kOpOf_code, kCondOf_code, qOpOf_code, mtypeOf_code, scopeOf_code, ordOf_code, logOpOf_code, dirOf_code, topoOf_code, aselOf_code, bselOf_code]
  cases f <;> first | rfl | exact Bool.noConfusion hw

theorem RoundTrip.fma p n1 n0 rm rd ra rb rc : Statement (.fma p n1 n0 rm rd ra rb rc) := by
  intro hw x hx
  obtain rfl := Option.some.inj hx
  refine decode_of ?_ hw
  refine (major_decodeFma (rrrr_26_6 _ _ _ _ _ _ _ _ _)).trans ?_
  simp only [decodeFma, rrrr_21_5, rrrr_16_5, rrrr_11_5, rrrr_6_5, rrrr_b5, rrrr_b4, rrrr_b3, rrrr_0_3, coded, need, BitVec.extractLsb'_eq_self, Nat.reduceLeDiff, Nat.reduceAdd, Nat.reduceSub, Nat.reduceLT, elemTyOf_code, rmOf_code, fmtOf3_code, hintOf_code, fsizeOf_code, redOpOf_code, voteKindOf_code, sgnOpOf_code, cmpOpOf_code, kOpOf_code, kCondOf_code, qOpOf_code, mtypeOf_code, scopeOf_code, ordOf_code, logOpOf_code, dirOf_code, topoOf_code, aselOf_code, bselOf_code]
  

theorem RoundTrip.vadd et q rd ra rb : Statement (.vadd et q rd ra rb) := by
  intro hw x hx
  obtain rfl := Option.some.inj hx
  refine decode_of ?_ hw
  unfold rrfV
  refine (major_decodeVint (rrf_26_6 _ _ _ _ _)).trans ?_
  simp only [decodeVint, rrf_z15, rrf_z10, vfn_7_4, vfn_3_4, vfn_0_3, ffn_6_5, ffn_4_2, ffn_1_3, ffn_b0, afn_5_6, afn_0_5, afn_mod, afn_bit, hbM_0_4, hbM_b4, z14_0_4, z14_b4, z23_0_3, z23_3_2, z32_0_2, z32_3_2, z32_2_3, z32_b2, ktM_0_2, ktM_3_2, ktM_b2, rc23_3_2, rc23_0_3, rc32_2_3, rc32_0_2, obM_0_2, obM_b2, obM_b3, obM_b4, cvtF_9_2, cvtF_5_4, cvtF_2_3, cvtF_0_2, vcvtF_9_2, vcvtF_6_3, vcvtF_3_3, vcvtF_0_3, vscF_9_2, vscF_7_2, vscF_5_2, vscF_2_3, vscF_0_2, sfuF_8_3, sfuF_b7, sfuF_3_4, sfuF_0_3, rrf_21_5, rrf_16_5, rrf_11_5, rrf_rd, rrf_ra, rrf_rb, rrf_fn, rrf_bit, rrf_rb_bit, rrf_ra_bit, rrf_rd_bit, coded, need, BitVec.extractLsb'_eq_self, Nat.reduceLeDiff, Nat.reduceAdd, Nat.reduceSub, Nat.reduceLT, elemTyOf_code, rmOf_code, fmtOf3_code, hintOf_code, fsizeOf_code, redOpOf_code, voteKindOf_code, sgnOpOf_code, cmpOpOf_code, kOpOf_code, kCondOf_code, qOpOf_code, mtypeOf_code, scopeOf_code, ordOf_code, logOpOf_code, dirOf_code, topoOf_code, aselOf_code, bselOf_code]
  rfl

theorem RoundTrip.vsub et q rd ra rb : Statement (.vsub et q rd ra rb) := by
  intro hw x hx
  obtain rfl := Option.some.inj hx
  refine decode_of ?_ hw
  unfold rrfV
  refine (major_decodeVint (rrf_26_6 _ _ _ _ _)).trans ?_
  simp only [decodeVint, rrf_z15, rrf_z10, vfn_7_4, vfn_3_4, vfn_0_3, ffn_6_5, ffn_4_2, ffn_1_3, ffn_b0, afn_5_6, afn_0_5, afn_mod, afn_bit, hbM_0_4, hbM_b4, z14_0_4, z14_b4, z23_0_3, z23_3_2, z32_0_2, z32_3_2, z32_2_3, z32_b2, ktM_0_2, ktM_3_2, ktM_b2, rc23_3_2, rc23_0_3, rc32_2_3, rc32_0_2, obM_0_2, obM_b2, obM_b3, obM_b4, cvtF_9_2, cvtF_5_4, cvtF_2_3, cvtF_0_2, vcvtF_9_2, vcvtF_6_3, vcvtF_3_3, vcvtF_0_3, vscF_9_2, vscF_7_2, vscF_5_2, vscF_2_3, vscF_0_2, sfuF_8_3, sfuF_b7, sfuF_3_4, sfuF_0_3, rrf_21_5, rrf_16_5, rrf_11_5, rrf_rd, rrf_ra, rrf_rb, rrf_fn, rrf_bit, rrf_rb_bit, rrf_ra_bit, rrf_rd_bit, coded, need, BitVec.extractLsb'_eq_self, Nat.reduceLeDiff, Nat.reduceAdd, Nat.reduceSub, Nat.reduceLT, elemTyOf_code, rmOf_code, fmtOf3_code, hintOf_code, fsizeOf_code, redOpOf_code, voteKindOf_code, sgnOpOf_code, cmpOpOf_code, kOpOf_code, kCondOf_code, qOpOf_code, mtypeOf_code, scopeOf_code, ordOf_code, logOpOf_code, dirOf_code, topoOf_code, aselOf_code, bselOf_code]
  rfl

theorem RoundTrip.vmul et q rd ra rb : Statement (.vmul et q rd ra rb) := by
  intro hw x hx
  obtain rfl := Option.some.inj hx
  refine decode_of ?_ hw
  unfold rrfV
  refine (major_decodeVint (rrf_26_6 _ _ _ _ _)).trans ?_
  simp only [decodeVint, rrf_z15, rrf_z10, vfn_7_4, vfn_3_4, vfn_0_3, ffn_6_5, ffn_4_2, ffn_1_3, ffn_b0, afn_5_6, afn_0_5, afn_mod, afn_bit, hbM_0_4, hbM_b4, z14_0_4, z14_b4, z23_0_3, z23_3_2, z32_0_2, z32_3_2, z32_2_3, z32_b2, ktM_0_2, ktM_3_2, ktM_b2, rc23_3_2, rc23_0_3, rc32_2_3, rc32_0_2, obM_0_2, obM_b2, obM_b3, obM_b4, cvtF_9_2, cvtF_5_4, cvtF_2_3, cvtF_0_2, vcvtF_9_2, vcvtF_6_3, vcvtF_3_3, vcvtF_0_3, vscF_9_2, vscF_7_2, vscF_5_2, vscF_2_3, vscF_0_2, sfuF_8_3, sfuF_b7, sfuF_3_4, sfuF_0_3, rrf_21_5, rrf_16_5, rrf_11_5, rrf_rd, rrf_ra, rrf_rb, rrf_fn, rrf_bit, rrf_rb_bit, rrf_ra_bit, rrf_rd_bit, coded, need, BitVec.extractLsb'_eq_self, Nat.reduceLeDiff, Nat.reduceAdd, Nat.reduceSub, Nat.reduceLT, elemTyOf_code, rmOf_code, fmtOf3_code, hintOf_code, fsizeOf_code, redOpOf_code, voteKindOf_code, sgnOpOf_code, cmpOpOf_code, kOpOf_code, kCondOf_code, qOpOf_code, mtypeOf_code, scopeOf_code, ordOf_code, logOpOf_code, dirOf_code, topoOf_code, aselOf_code, bselOf_code]
  rfl

theorem RoundTrip.vmin et q rd ra rb : Statement (.vmin et q rd ra rb) := by
  intro hw x hx
  obtain rfl := Option.some.inj hx
  refine decode_of ?_ hw
  unfold rrfV
  refine (major_decodeVint (rrf_26_6 _ _ _ _ _)).trans ?_
  simp only [decodeVint, rrf_z15, rrf_z10, vfn_7_4, vfn_3_4, vfn_0_3, ffn_6_5, ffn_4_2, ffn_1_3, ffn_b0, afn_5_6, afn_0_5, afn_mod, afn_bit, hbM_0_4, hbM_b4, z14_0_4, z14_b4, z23_0_3, z23_3_2, z32_0_2, z32_3_2, z32_2_3, z32_b2, ktM_0_2, ktM_3_2, ktM_b2, rc23_3_2, rc23_0_3, rc32_2_3, rc32_0_2, obM_0_2, obM_b2, obM_b3, obM_b4, cvtF_9_2, cvtF_5_4, cvtF_2_3, cvtF_0_2, vcvtF_9_2, vcvtF_6_3, vcvtF_3_3, vcvtF_0_3, vscF_9_2, vscF_7_2, vscF_5_2, vscF_2_3, vscF_0_2, sfuF_8_3, sfuF_b7, sfuF_3_4, sfuF_0_3, rrf_21_5, rrf_16_5, rrf_11_5, rrf_rd, rrf_ra, rrf_rb, rrf_fn, rrf_bit, rrf_rb_bit, rrf_ra_bit, rrf_rd_bit, coded, need, BitVec.extractLsb'_eq_self, Nat.reduceLeDiff, Nat.reduceAdd, Nat.reduceSub, Nat.reduceLT, elemTyOf_code, rmOf_code, fmtOf3_code, hintOf_code, fsizeOf_code, redOpOf_code, voteKindOf_code, sgnOpOf_code, cmpOpOf_code, kOpOf_code, kCondOf_code, qOpOf_code, mtypeOf_code, scopeOf_code, ordOf_code, logOpOf_code, dirOf_code, topoOf_code, aselOf_code, bselOf_code]
  rfl

theorem RoundTrip.vmax et q rd ra rb : Statement (.vmax et q rd ra rb) := by
  intro hw x hx
  obtain rfl := Option.some.inj hx
  refine decode_of ?_ hw
  unfold rrfV
  refine (major_decodeVint (rrf_26_6 _ _ _ _ _)).trans ?_
  simp only [decodeVint, rrf_z15, rrf_z10, vfn_7_4, vfn_3_4, vfn_0_3, ffn_6_5, ffn_4_2, ffn_1_3, ffn_b0, afn_5_6, afn_0_5, afn_mod, afn_bit, hbM_0_4, hbM_b4, z14_0_4, z14_b4, z23_0_3, z23_3_2, z32_0_2, z32_3_2, z32_2_3, z32_b2, ktM_0_2, ktM_3_2, ktM_b2, rc23_3_2, rc23_0_3, rc32_2_3, rc32_0_2, obM_0_2, obM_b2, obM_b3, obM_b4, cvtF_9_2, cvtF_5_4, cvtF_2_3, cvtF_0_2, vcvtF_9_2, vcvtF_6_3, vcvtF_3_3, vcvtF_0_3, vscF_9_2, vscF_7_2, vscF_5_2, vscF_2_3, vscF_0_2, sfuF_8_3, sfuF_b7, sfuF_3_4, sfuF_0_3, rrf_21_5, rrf_16_5, rrf_11_5, rrf_rd, rrf_ra, rrf_rb, rrf_fn, rrf_bit, rrf_rb_bit, rrf_ra_bit, rrf_rd_bit, coded, need, BitVec.extractLsb'_eq_self, Nat.reduceLeDiff, Nat.reduceAdd, Nat.reduceSub, Nat.reduceLT, elemTyOf_code, rmOf_code, fmtOf3_code, hintOf_code, fsizeOf_code, redOpOf_code, voteKindOf_code, sgnOpOf_code, cmpOpOf_code, kOpOf_code, kCondOf_code, qOpOf_code, mtypeOf_code, scopeOf_code, ordOf_code, logOpOf_code, dirOf_code, topoOf_code, aselOf_code, bselOf_code]
  rfl

theorem RoundTrip.vlog op q rd ra rb : Statement (.vlog op q rd ra rb) := by
  intro hw x hx
  obtain rfl := Option.some.inj hx
  refine decode_of ?_ hw
  unfold rrfV
  refine (major_decodeVint (rrf_26_6 _ _ _ _ _)).trans ?_
  simp only [decodeVint, rrf_z15, rrf_z10, vfn_7_4, vfn_3_4, vfn_0_3, ffn_6_5, ffn_4_2, ffn_1_3, ffn_b0, afn_5_6, afn_0_5, afn_mod, afn_bit, hbM_0_4, hbM_b4, z14_0_4, z14_b4, z23_0_3, z23_3_2, z32_0_2, z32_3_2, z32_2_3, z32_b2, ktM_0_2, ktM_3_2, ktM_b2, rc23_3_2, rc23_0_3, rc32_2_3, rc32_0_2, obM_0_2, obM_b2, obM_b3, obM_b4, cvtF_9_2, cvtF_5_4, cvtF_2_3, cvtF_0_2, vcvtF_9_2, vcvtF_6_3, vcvtF_3_3, vcvtF_0_3, vscF_9_2, vscF_7_2, vscF_5_2, vscF_2_3, vscF_0_2, sfuF_8_3, sfuF_b7, sfuF_3_4, sfuF_0_3, rrf_21_5, rrf_16_5, rrf_11_5, rrf_rd, rrf_ra, rrf_rb, rrf_fn, rrf_bit, rrf_rb_bit, rrf_ra_bit, rrf_rd_bit, vfn_3_2, coded, need, BitVec.extractLsb'_eq_self, Nat.reduceLeDiff, Nat.reduceAdd, Nat.reduceSub, Nat.reduceLT, elemTyOf_code, rmOf_code, fmtOf3_code, hintOf_code, fsizeOf_code, redOpOf_code, voteKindOf_code, sgnOpOf_code, cmpOpOf_code, kOpOf_code, kCondOf_code, qOpOf_code, mtypeOf_code, scopeOf_code, ordOf_code, logOpOf_code, dirOf_code, topoOf_code, aselOf_code, bselOf_code]
  cases op <;> rfl

theorem RoundTrip.vsh et q rd ra rb : Statement (.vsh et q rd ra rb) := by
  intro hw x hx
  obtain rfl := Option.some.inj hx
  refine decode_of ?_ hw
  unfold rrfV
  refine (major_decodeVint (rrf_26_6 _ _ _ _ _)).trans ?_
  simp only [decodeVint, rrf_z15, rrf_z10, vfn_7_4, vfn_3_4, vfn_0_3, ffn_6_5, ffn_4_2, ffn_1_3, ffn_b0, afn_5_6, afn_0_5, afn_mod, afn_bit, hbM_0_4, hbM_b4, z14_0_4, z14_b4, z23_0_3, z23_3_2, z32_0_2, z32_3_2, z32_2_3, z32_b2, ktM_0_2, ktM_3_2, ktM_b2, rc23_3_2, rc23_0_3, rc32_2_3, rc32_0_2, obM_0_2, obM_b2, obM_b3, obM_b4, cvtF_9_2, cvtF_5_4, cvtF_2_3, cvtF_0_2, vcvtF_9_2, vcvtF_6_3, vcvtF_3_3, vcvtF_0_3, vscF_9_2, vscF_7_2, vscF_5_2, vscF_2_3, vscF_0_2, sfuF_8_3, sfuF_b7, sfuF_3_4, sfuF_0_3, rrf_21_5, rrf_16_5, rrf_11_5, rrf_rd, rrf_ra, rrf_rb, rrf_fn, rrf_bit, rrf_rb_bit, rrf_ra_bit, rrf_rd_bit, coded, need, BitVec.extractLsb'_eq_self, Nat.reduceLeDiff, Nat.reduceAdd, Nat.reduceSub, Nat.reduceLT, elemTyOf_code, rmOf_code, fmtOf3_code, hintOf_code, fsizeOf_code, redOpOf_code, voteKindOf_code, sgnOpOf_code, cmpOpOf_code, kOpOf_code, kCondOf_code, qOpOf_code, mtypeOf_code, scopeOf_code, ordOf_code, logOpOf_code, dirOf_code, topoOf_code, aselOf_code, bselOf_code]
  rfl

theorem RoundTrip.vfadd et q rd ra rb : Statement (.vfadd et q rd ra rb) := by
  intro hw x hx
  obtain rfl := Option.some.inj hx
  refine decode_of ?_ hw
  unfold rrfV
  refine (major_decodeVfp (rrf_26_6 _ _ _ _ _)).trans ?_
  simp only [decodeVfp, rrf_z15, rrf_z10, vfn_7_4, vfn_3_4, vfn_0_3, ffn_6_5, ffn_4_2, ffn_1_3, ffn_b0, afn_5_6, afn_0_5, afn_mod, afn_bit, hbM_0_4, hbM_b4, z14_0_4, z14_b4, z23_0_3, z23_3_2, z32_0_2, z32_3_2, z32_2_3, z32_b2, ktM_0_2, ktM_3_2, ktM_b2, rc23_3_2, rc23_0_3, rc32_2_3, rc32_0_2, obM_0_2, obM_b2, obM_b3, obM_b4, cvtF_9_2, cvtF_5_4, cvtF_2_3, cvtF_0_2, vcvtF_9_2, vcvtF_6_3, vcvtF_3_3, vcvtF_0_3, vscF_9_2, vscF_7_2, vscF_5_2, vscF_2_3, vscF_0_2, sfuF_8_3, sfuF_b7, sfuF_3_4, sfuF_0_3, rrf_21_5, rrf_16_5, rrf_11_5, rrf_rd, rrf_ra, rrf_rb, rrf_fn, rrf_bit, rrf_rb_bit, rrf_ra_bit, rrf_rd_bit, coded, need, BitVec.extractLsb'_eq_self, Nat.reduceLeDiff, Nat.reduceAdd, Nat.reduceSub, Nat.reduceLT, elemTyOf_code, rmOf_code, fmtOf3_code, hintOf_code, fsizeOf_code, redOpOf_code, voteKindOf_code, sgnOpOf_code, cmpOpOf_code, kOpOf_code, kCondOf_code, qOpOf_code, mtypeOf_code, scopeOf_code, ordOf_code, logOpOf_code, dirOf_code, topoOf_code, aselOf_code, bselOf_code]
  rfl

theorem RoundTrip.vfsub et q rd ra rb : Statement (.vfsub et q rd ra rb) := by
  intro hw x hx
  obtain rfl := Option.some.inj hx
  refine decode_of ?_ hw
  unfold rrfV
  refine (major_decodeVfp (rrf_26_6 _ _ _ _ _)).trans ?_
  simp only [decodeVfp, rrf_z15, rrf_z10, vfn_7_4, vfn_3_4, vfn_0_3, ffn_6_5, ffn_4_2, ffn_1_3, ffn_b0, afn_5_6, afn_0_5, afn_mod, afn_bit, hbM_0_4, hbM_b4, z14_0_4, z14_b4, z23_0_3, z23_3_2, z32_0_2, z32_3_2, z32_2_3, z32_b2, ktM_0_2, ktM_3_2, ktM_b2, rc23_3_2, rc23_0_3, rc32_2_3, rc32_0_2, obM_0_2, obM_b2, obM_b3, obM_b4, cvtF_9_2, cvtF_5_4, cvtF_2_3, cvtF_0_2, vcvtF_9_2, vcvtF_6_3, vcvtF_3_3, vcvtF_0_3, vscF_9_2, vscF_7_2, vscF_5_2, vscF_2_3, vscF_0_2, sfuF_8_3, sfuF_b7, sfuF_3_4, sfuF_0_3, rrf_21_5, rrf_16_5, rrf_11_5, rrf_rd, rrf_ra, rrf_rb, rrf_fn, rrf_bit, rrf_rb_bit, rrf_ra_bit, rrf_rd_bit, coded, need, BitVec.extractLsb'_eq_self, Nat.reduceLeDiff, Nat.reduceAdd, Nat.reduceSub, Nat.reduceLT, elemTyOf_code, rmOf_code, fmtOf3_code, hintOf_code, fsizeOf_code, redOpOf_code, voteKindOf_code, sgnOpOf_code, cmpOpOf_code, kOpOf_code, kCondOf_code, qOpOf_code, mtypeOf_code, scopeOf_code, ordOf_code, logOpOf_code, dirOf_code, topoOf_code, aselOf_code, bselOf_code]
  rfl

theorem RoundTrip.vfmul et q rd ra rb : Statement (.vfmul et q rd ra rb) := by
  intro hw x hx
  obtain rfl := Option.some.inj hx
  refine decode_of ?_ hw
  unfold rrfV
  refine (major_decodeVfp (rrf_26_6 _ _ _ _ _)).trans ?_
  simp only [decodeVfp, rrf_z15, rrf_z10, vfn_7_4, vfn_3_4, vfn_0_3, ffn_6_5, ffn_4_2, ffn_1_3, ffn_b0, afn_5_6, afn_0_5, afn_mod, afn_bit, hbM_0_4, hbM_b4, z14_0_4, z14_b4, z23_0_3, z23_3_2, z32_0_2, z32_3_2, z32_2_3, z32_b2, ktM_0_2, ktM_3_2, ktM_b2, rc23_3_2, rc23_0_3, rc32_2_3, rc32_0_2, obM_0_2, obM_b2, obM_b3, obM_b4, cvtF_9_2, cvtF_5_4, cvtF_2_3, cvtF_0_2, vcvtF_9_2, vcvtF_6_3, vcvtF_3_3, vcvtF_0_3, vscF_9_2, vscF_7_2, vscF_5_2, vscF_2_3, vscF_0_2, sfuF_8_3, sfuF_b7, sfuF_3_4, sfuF_0_3, rrf_21_5, rrf_16_5, rrf_11_5, rrf_rd, rrf_ra, rrf_rb, rrf_fn, rrf_bit, rrf_rb_bit, rrf_ra_bit, rrf_rd_bit, coded, need, BitVec.extractLsb'_eq_self, Nat.reduceLeDiff, Nat.reduceAdd, Nat.reduceSub, Nat.reduceLT, elemTyOf_code, rmOf_code, fmtOf3_code, hintOf_code, fsizeOf_code, redOpOf_code, voteKindOf_code, sgnOpOf_code, cmpOpOf_code, kOpOf_code, kCondOf_code, qOpOf_code, mtypeOf_code, scopeOf_code, ordOf_code, logOpOf_code, dirOf_code, topoOf_code, aselOf_code, bselOf_code]
  rfl

theorem RoundTrip.vfmin et q rd ra rb : Statement (.vfmin et q rd ra rb) := by
  intro hw x hx
  obtain rfl := Option.some.inj hx
  refine decode_of ?_ hw
  unfold rrfV
  refine (major_decodeVfp (rrf_26_6 _ _ _ _ _)).trans ?_
  simp only [decodeVfp, rrf_z15, rrf_z10, vfn_7_4, vfn_3_4, vfn_0_3, ffn_6_5, ffn_4_2, ffn_1_3, ffn_b0, afn_5_6, afn_0_5, afn_mod, afn_bit, hbM_0_4, hbM_b4, z14_0_4, z14_b4, z23_0_3, z23_3_2, z32_0_2, z32_3_2, z32_2_3, z32_b2, ktM_0_2, ktM_3_2, ktM_b2, rc23_3_2, rc23_0_3, rc32_2_3, rc32_0_2, obM_0_2, obM_b2, obM_b3, obM_b4, cvtF_9_2, cvtF_5_4, cvtF_2_3, cvtF_0_2, vcvtF_9_2, vcvtF_6_3, vcvtF_3_3, vcvtF_0_3, vscF_9_2, vscF_7_2, vscF_5_2, vscF_2_3, vscF_0_2, sfuF_8_3, sfuF_b7, sfuF_3_4, sfuF_0_3, rrf_21_5, rrf_16_5, rrf_11_5, rrf_rd, rrf_ra, rrf_rb, rrf_fn, rrf_bit, rrf_rb_bit, rrf_ra_bit, rrf_rd_bit, coded, need, BitVec.extractLsb'_eq_self, Nat.reduceLeDiff, Nat.reduceAdd, Nat.reduceSub, Nat.reduceLT, elemTyOf_code, rmOf_code, fmtOf3_code, hintOf_code, fsizeOf_code, redOpOf_code, voteKindOf_code, sgnOpOf_code, cmpOpOf_code, kOpOf_code, kCondOf_code, qOpOf_code, mtypeOf_code, scopeOf_code, ordOf_code, logOpOf_code, dirOf_code, topoOf_code, aselOf_code, bselOf_code]
  rfl

theorem RoundTrip.vfmax et q rd ra rb : Statement (.vfmax et q rd ra rb) := by
  intro hw x hx
  obtain rfl := Option.some.inj hx
  refine decode_of ?_ hw
  unfold rrfV
  refine (major_decodeVfp (rrf_26_6 _ _ _ _ _)).trans ?_
  simp only [decodeVfp, rrf_z15, rrf_z10, vfn_7_4, vfn_3_4, vfn_0_3, ffn_6_5, ffn_4_2, ffn_1_3, ffn_b0, afn_5_6, afn_0_5, afn_mod, afn_bit, hbM_0_4, hbM_b4, z14_0_4, z14_b4, z23_0_3, z23_3_2, z32_0_2, z32_3_2, z32_2_3, z32_b2, ktM_0_2, ktM_3_2, ktM_b2, rc23_3_2, rc23_0_3, rc32_2_3, rc32_0_2, obM_0_2, obM_b2, obM_b3, obM_b4, cvtF_9_2, cvtF_5_4, cvtF_2_3, cvtF_0_2, vcvtF_9_2, vcvtF_6_3, vcvtF_3_3, vcvtF_0_3, vscF_9_2, vscF_7_2, vscF_5_2, vscF_2_3, vscF_0_2, sfuF_8_3, sfuF_b7, sfuF_3_4, sfuF_0_3, rrf_21_5, rrf_16_5, rrf_11_5, rrf_rd, rrf_ra, rrf_rb, rrf_fn, rrf_bit, rrf_rb_bit, rrf_ra_bit, rrf_rd_bit, coded, need, BitVec.extractLsb'_eq_self, Nat.reduceLeDiff, Nat.reduceAdd, Nat.reduceSub, Nat.reduceLT, elemTyOf_code, rmOf_code, fmtOf3_code, hintOf_code, fsizeOf_code, redOpOf_code, voteKindOf_code, sgnOpOf_code, cmpOpOf_code, kOpOf_code, kCondOf_code, qOpOf_code, mtypeOf_code, scopeOf_code, ordOf_code, logOpOf_code, dirOf_code, topoOf_code, aselOf_code, bselOf_code]
  rfl

theorem RoundTrip.vfcmp et q rd ra rb : Statement (.vfcmp et q rd ra rb) := by
  intro hw x hx
  obtain rfl := Option.some.inj hx
  refine decode_of ?_ hw
  unfold rrfV
  refine (major_decodeVfp (rrf_26_6 _ _ _ _ _)).trans ?_
  simp only [decodeVfp, rrf_z15, rrf_z10, vfn_7_4, vfn_3_4, vfn_0_3, ffn_6_5, ffn_4_2, ffn_1_3, ffn_b0, afn_5_6, afn_0_5, afn_mod, afn_bit, hbM_0_4, hbM_b4, z14_0_4, z14_b4, z23_0_3, z23_3_2, z32_0_2, z32_3_2, z32_2_3, z32_b2, ktM_0_2, ktM_3_2, ktM_b2, rc23_3_2, rc23_0_3, rc32_2_3, rc32_0_2, obM_0_2, obM_b2, obM_b3, obM_b4, cvtF_9_2, cvtF_5_4, cvtF_2_3, cvtF_0_2, vcvtF_9_2, vcvtF_6_3, vcvtF_3_3, vcvtF_0_3, vscF_9_2, vscF_7_2, vscF_5_2, vscF_2_3, vscF_0_2, sfuF_8_3, sfuF_b7, sfuF_3_4, sfuF_0_3, rrf_21_5, rrf_16_5, rrf_11_5, rrf_rd, rrf_ra, rrf_rb, rrf_fn, rrf_bit, rrf_rb_bit, rrf_ra_bit, rrf_rd_bit, coded, need, BitVec.extractLsb'_eq_self, Nat.reduceLeDiff, Nat.reduceAdd, Nat.reduceSub, Nat.reduceLT, elemTyOf_code, rmOf_code, fmtOf3_code, hintOf_code, fsizeOf_code, redOpOf_code, voteKindOf_code, sgnOpOf_code, cmpOpOf_code, kOpOf_code, kCondOf_code, qOpOf_code, mtypeOf_code, scopeOf_code, ordOf_code, logOpOf_code, dirOf_code, topoOf_code, aselOf_code, bselOf_code]
  rfl

theorem RoundTrip.vcmp et q rd ra rb : Statement (.vcmp et q rd ra rb) := by
  intro hw x hx
  obtain rfl := Option.some.inj hx
  refine decode_of ?_ hw
  unfold rrfV
  refine (major_decodeVfp (rrf_26_6 _ _ _ _ _)).trans ?_
  simp only [decodeVfp, rrf_z15, rrf_z10, vfn_7_4, vfn_3_4, vfn_0_3, ffn_6_5, ffn_4_2, ffn_1_3, ffn_b0, afn_5_6, afn_0_5, afn_mod, afn_bit, hbM_0_4, hbM_b4, z14_0_4, z14_b4, z23_0_3, z23_3_2, z32_0_2, z32_3_2, z32_2_3, z32_b2, ktM_0_2, ktM_3_2, ktM_b2, rc23_3_2, rc23_0_3, rc32_2_3, rc32_0_2, obM_0_2, obM_b2, obM_b3, obM_b4, cvtF_9_2, cvtF_5_4, cvtF_2_3, cvtF_0_2, vcvtF_9_2, vcvtF_6_3, vcvtF_3_3, vcvtF_0_3, vscF_9_2, vscF_7_2, vscF_5_2, vscF_2_3, vscF_0_2, sfuF_8_3, sfuF_b7, sfuF_3_4, sfuF_0_3, rrf_21_5, rrf_16_5, rrf_11_5, rrf_rd, rrf_ra, rrf_rb, rrf_fn, rrf_bit, rrf_rb_bit, rrf_ra_bit, rrf_rd_bit, coded, need, BitVec.extractLsb'_eq_self, Nat.reduceLeDiff, Nat.reduceAdd, Nat.reduceSub, Nat.reduceLT, elemTyOf_code, rmOf_code, fmtOf3_code, hintOf_code, fsizeOf_code, redOpOf_code, voteKindOf_code, sgnOpOf_code, cmpOpOf_code, kOpOf_code, kCondOf_code, qOpOf_code, mtypeOf_code, scopeOf_code, ordOf_code, logOpOf_code, dirOf_code, topoOf_code, aselOf_code, bselOf_code]
  rfl

theorem RoundTrip.vfma p n1 n0 rm rd ra rb rc : Statement (.vfma p n1 n0 rm rd ra rb rc) := by
  intro hw x hx
  obtain rfl := Option.some.inj hx
  refine decode_of ?_ hw
  refine (major_decodeVfma (rrrr_26_6 _ _ _ _ _ _ _ _ _)).trans ?_
  simp only [decodeVfma, rrrr_21_5, rrrr_16_5, rrrr_11_5, rrrr_6_5, rrrr_b5, rrrr_b4, rrrr_b3, rrrr_0_3, coded, need, BitVec.extractLsb'_eq_self, Nat.reduceLeDiff, Nat.reduceAdd, Nat.reduceSub, Nat.reduceLT, elemTyOf_code, rmOf_code, fmtOf3_code, hintOf_code, fsizeOf_code, redOpOf_code, voteKindOf_code, sgnOpOf_code, cmpOpOf_code, kOpOf_code, kCondOf_code, qOpOf_code, mtypeOf_code, scopeOf_code, ordOf_code, logOpOf_code, dirOf_code, topoOf_code, aselOf_code, bselOf_code]
  

theorem RoundTrip.vsel et q rd ra rb : Statement (.vsel et q rd ra rb) := by
  intro hw x hx
  obtain rfl := Option.some.inj hx
  refine decode_of ?_ hw
  unfold rrfV
  refine (major_decodeVmisc (rrf_26_6 _ _ _ _ _)).trans ?_
  simp only [decodeVmisc, rrf_z15, rrf_z10, vfn_7_4, vfn_3_4, vfn_0_3, ffn_6_5, ffn_4_2, ffn_1_3, ffn_b0, afn_5_6, afn_0_5, afn_mod, afn_bit, hbM_0_4, hbM_b4, z14_0_4, z14_b4, z23_0_3, z23_3_2, z32_0_2, z32_3_2, z32_2_3, z32_b2, ktM_0_2, ktM_3_2, ktM_b2, rc23_3_2, rc23_0_3, rc32_2_3, rc32_0_2, obM_0_2, obM_b2, obM_b3, obM_b4, cvtF_9_2, cvtF_5_4, cvtF_2_3, cvtF_0_2, vcvtF_9_2, vcvtF_6_3, vcvtF_3_3, vcvtF_0_3, vscF_9_2, vscF_7_2, vscF_5_2, vscF_2_3, vscF_0_2, sfuF_8_3, sfuF_b7, sfuF_3_4, sfuF_0_3, rrf_21_5, rrf_16_5, rrf_11_5, rrf_rd, rrf_ra, rrf_rb, rrf_fn, rrf_bit, rrf_rb_bit, rrf_ra_bit, rrf_rd_bit, coded, need, BitVec.extractLsb'_eq_self, Nat.reduceLeDiff, Nat.reduceAdd, Nat.reduceSub, Nat.reduceLT, elemTyOf_code, rmOf_code, fmtOf3_code, hintOf_code, fsizeOf_code, redOpOf_code, voteKindOf_code, sgnOpOf_code, cmpOpOf_code, kOpOf_code, kCondOf_code, qOpOf_code, mtypeOf_code, scopeOf_code, ordOf_code, logOpOf_code, dirOf_code, topoOf_code, aselOf_code, bselOf_code]
  rfl

theorem RoundTrip.vsplat et q rd ra : Statement (.vsplat et q rd ra) := by
  intro hw x hx
  obtain rfl := Option.some.inj hx
  refine decode_of ?_ hw
  unfold rrfV
  refine (major_decodeVmisc (rrf_26_6 _ _ _ _ _)).trans ?_
  simp only [decodeVmisc, rrf_z15, rrf_z10, vfn_7_4, vfn_3_4, vfn_0_3, ffn_6_5, ffn_4_2, ffn_1_3, ffn_b0, afn_5_6, afn_0_5, afn_mod, afn_bit, hbM_0_4, hbM_b4, z14_0_4, z14_b4, z23_0_3, z23_3_2, z32_0_2, z32_3_2, z32_2_3, z32_b2, ktM_0_2, ktM_3_2, ktM_b2, rc23_3_2, rc23_0_3, rc32_2_3, rc32_0_2, obM_0_2, obM_b2, obM_b3, obM_b4, cvtF_9_2, cvtF_5_4, cvtF_2_3, cvtF_0_2, vcvtF_9_2, vcvtF_6_3, vcvtF_3_3, vcvtF_0_3, vscF_9_2, vscF_7_2, vscF_5_2, vscF_2_3, vscF_0_2, sfuF_8_3, sfuF_b7, sfuF_3_4, sfuF_0_3, rrf_21_5, rrf_16_5, rrf_11_5, rrf_rd, rrf_ra, rrf_rb, rrf_fn, rrf_bit, rrf_rb_bit, rrf_ra_bit, rrf_rd_bit, coded, need, BitVec.extractLsb'_eq_self, Nat.reduceLeDiff, Nat.reduceAdd, Nat.reduceSub, Nat.reduceLT, elemTyOf_code, rmOf_code, fmtOf3_code, hintOf_code, fsizeOf_code, redOpOf_code, voteKindOf_code, sgnOpOf_code, cmpOpOf_code, kOpOf_code, kCondOf_code, qOpOf_code, mtypeOf_code, scopeOf_code, ordOf_code, logOpOf_code, dirOf_code, topoOf_code, aselOf_code, bselOf_code]
  rfl

theorem RoundTrip.vext et rd ra rb : Statement (.vext et rd ra rb) := by
  intro hw x hx
  obtain rfl := Option.some.inj hx
  refine decode_of ?_ hw
  unfold rrfV
  refine (major_decodeVmisc (rrf_26_6 _ _ _ _ _)).trans ?_
  simp only [decodeVmisc, rrf_z15, rrf_z10, vfn_7_4, vfn_3_4, vfn_0_3, ffn_6_5, ffn_4_2, ffn_1_3, ffn_b0, afn_5_6, afn_0_5, afn_mod, afn_bit, hbM_0_4, hbM_b4, z14_0_4, z14_b4, z23_0_3, z23_3_2, z32_0_2, z32_3_2, z32_2_3, z32_b2, ktM_0_2, ktM_3_2, ktM_b2, rc23_3_2, rc23_0_3, rc32_2_3, rc32_0_2, obM_0_2, obM_b2, obM_b3, obM_b4, cvtF_9_2, cvtF_5_4, cvtF_2_3, cvtF_0_2, vcvtF_9_2, vcvtF_6_3, vcvtF_3_3, vcvtF_0_3, vscF_9_2, vscF_7_2, vscF_5_2, vscF_2_3, vscF_0_2, sfuF_8_3, sfuF_b7, sfuF_3_4, sfuF_0_3, rrf_21_5, rrf_16_5, rrf_11_5, rrf_rd, rrf_ra, rrf_rb, rrf_fn, rrf_bit, rrf_rb_bit, rrf_ra_bit, rrf_rd_bit, coded, need, BitVec.extractLsb'_eq_self, Nat.reduceLeDiff, Nat.reduceAdd, Nat.reduceSub, Nat.reduceLT, elemTyOf_code, rmOf_code, fmtOf3_code, hintOf_code, fsizeOf_code, redOpOf_code, voteKindOf_code, sgnOpOf_code, cmpOpOf_code, kOpOf_code, kCondOf_code, qOpOf_code, mtypeOf_code, scopeOf_code, ordOf_code, logOpOf_code, dirOf_code, topoOf_code, aselOf_code, bselOf_code]
  rfl

theorem RoundTrip.vins et rd ra rb : Statement (.vins et rd ra rb) := by
  intro hw x hx
  obtain rfl := Option.some.inj hx
  refine decode_of ?_ hw
  unfold rrfV
  refine (major_decodeVmisc (rrf_26_6 _ _ _ _ _)).trans ?_
  simp only [decodeVmisc, rrf_z15, rrf_z10, vfn_7_4, vfn_3_4, vfn_0_3, ffn_6_5, ffn_4_2, ffn_1_3, ffn_b0, afn_5_6, afn_0_5, afn_mod, afn_bit, hbM_0_4, hbM_b4, z14_0_4, z14_b4, z23_0_3, z23_3_2, z32_0_2, z32_3_2, z32_2_3, z32_b2, ktM_0_2, ktM_3_2, ktM_b2, rc23_3_2, rc23_0_3, rc32_2_3, rc32_0_2, obM_0_2, obM_b2, obM_b3, obM_b4, cvtF_9_2, cvtF_5_4, cvtF_2_3, cvtF_0_2, vcvtF_9_2, vcvtF_6_3, vcvtF_3_3, vcvtF_0_3, vscF_9_2, vscF_7_2, vscF_5_2, vscF_2_3, vscF_0_2, sfuF_8_3, sfuF_b7, sfuF_3_4, sfuF_0_3, rrf_21_5, rrf_16_5, rrf_11_5, rrf_rd, rrf_ra, rrf_rb, rrf_fn, rrf_bit, rrf_rb_bit, rrf_ra_bit, rrf_rd_bit, coded, need, BitVec.extractLsb'_eq_self, Nat.reduceLeDiff, Nat.reduceAdd, Nat.reduceSub, Nat.reduceLT, elemTyOf_code, rmOf_code, fmtOf3_code, hintOf_code, fsizeOf_code, redOpOf_code, voteKindOf_code, sgnOpOf_code, cmpOpOf_code, kOpOf_code, kCondOf_code, qOpOf_code, mtypeOf_code, scopeOf_code, ordOf_code, logOpOf_code, dirOf_code, topoOf_code, aselOf_code, bselOf_code]
  rfl

theorem RoundTrip.vperm et q rd ra rb : Statement (.vperm et q rd ra rb) := by
  intro hw x hx
  obtain rfl := Option.some.inj hx
  refine decode_of ?_ hw
  unfold rrfV
  refine (major_decodeVmisc (rrf_26_6 _ _ _ _ _)).trans ?_
  simp only [decodeVmisc, rrf_z15, rrf_z10, vfn_7_4, vfn_3_4, vfn_0_3, ffn_6_5, ffn_4_2, ffn_1_3, ffn_b0, afn_5_6, afn_0_5, afn_mod, afn_bit, hbM_0_4, hbM_b4, z14_0_4, z14_b4, z23_0_3, z23_3_2, z32_0_2, z32_3_2, z32_2_3, z32_b2, ktM_0_2, ktM_3_2, ktM_b2, rc23_3_2, rc23_0_3, rc32_2_3, rc32_0_2, obM_0_2, obM_b2, obM_b3, obM_b4, cvtF_9_2, cvtF_5_4, cvtF_2_3, cvtF_0_2, vcvtF_9_2, vcvtF_6_3, vcvtF_3_3, vcvtF_0_3, vscF_9_2, vscF_7_2, vscF_5_2, vscF_2_3, vscF_0_2, sfuF_8_3, sfuF_b7, sfuF_3_4, sfuF_0_3, rrf_21_5, rrf_16_5, rrf_11_5, rrf_rd, rrf_ra, rrf_rb, rrf_fn, rrf_bit, rrf_rb_bit, rrf_ra_bit, rrf_rd_bit, coded, need, BitVec.extractLsb'_eq_self, Nat.reduceLeDiff, Nat.reduceAdd, Nat.reduceSub, Nat.reduceLT, elemTyOf_code, rmOf_code, fmtOf3_code, hintOf_code, fsizeOf_code, redOpOf_code, voteKindOf_code, sgnOpOf_code, cmpOpOf_code, kOpOf_code, kCondOf_code, qOpOf_code, mtypeOf_code, scopeOf_code, ordOf_code, logOpOf_code, dirOf_code, topoOf_code, aselOf_code, bselOf_code]
  rfl

theorem RoundTrip.vred et op q rd ra : Statement (.vred et op q rd ra) := by
  intro hw x hx
  obtain rfl := Option.some.inj hx
  refine decode_of ?_ hw
  unfold rrfV
  refine (major_decodeVmisc (rrf_26_6 _ _ _ _ _)).trans ?_
  simp only [decodeVmisc, rrf_z15, rrf_z10, vfn_7_4, vfn_3_4, vfn_0_3, ffn_6_5, ffn_4_2, ffn_1_3, ffn_b0, afn_5_6, afn_0_5, afn_mod, afn_bit, hbM_0_4, hbM_b4, z14_0_4, z14_b4, z23_0_3, z23_3_2, z32_0_2, z32_3_2, z32_2_3, z32_b2, ktM_0_2, ktM_3_2, ktM_b2, rc23_3_2, rc23_0_3, rc32_2_3, rc32_0_2, obM_0_2, obM_b2, obM_b3, obM_b4, cvtF_9_2, cvtF_5_4, cvtF_2_3, cvtF_0_2, vcvtF_9_2, vcvtF_6_3, vcvtF_3_3, vcvtF_0_3, vscF_9_2, vscF_7_2, vscF_5_2, vscF_2_3, vscF_0_2, sfuF_8_3, sfuF_b7, sfuF_3_4, sfuF_0_3, rrf_21_5, rrf_16_5, rrf_11_5, rrf_rd, rrf_ra, rrf_rb, rrf_fn, rrf_bit, rrf_rb_bit, rrf_ra_bit, rrf_rd_bit, coded, need, BitVec.extractLsb'_eq_self, Nat.reduceLeDiff, Nat.reduceAdd, Nat.reduceSub, Nat.reduceLT, elemTyOf_code, rmOf_code, fmtOf3_code, hintOf_code, fsizeOf_code, redOpOf_code, voteKindOf_code, sgnOpOf_code, cmpOpOf_code, kOpOf_code, kCondOf_code, qOpOf_code, mtypeOf_code, scopeOf_code, ordOf_code, logOpOf_code, dirOf_code, topoOf_code, aselOf_code, bselOf_code]
  cases op <;> rfl

theorem RoundTrip.vdot et q rd ra rb : Statement (.vdot et q rd ra rb) := by
  intro hw x hx
  obtain rfl := Option.some.inj hx
  refine decode_of ?_ hw
  unfold rrfV
  refine (major_decodeVmisc (rrf_26_6 _ _ _ _ _)).trans ?_
  simp only [decodeVmisc, rrf_z15, rrf_z10, vfn_7_4, vfn_3_4, vfn_0_3, ffn_6_5, ffn_4_2, ffn_1_3, ffn_b0, afn_5_6, afn_0_5, afn_mod, afn_bit, hbM_0_4, hbM_b4, z14_0_4, z14_b4, z23_0_3, z23_3_2, z32_0_2, z32_3_2, z32_2_3, z32_b2, ktM_0_2, ktM_3_2, ktM_b2, rc23_3_2, rc23_0_3, rc32_2_3, rc32_0_2, obM_0_2, obM_b2, obM_b3, obM_b4, cvtF_9_2, cvtF_5_4, cvtF_2_3, cvtF_0_2, vcvtF_9_2, vcvtF_6_3, vcvtF_3_3, vcvtF_0_3, vscF_9_2, vscF_7_2, vscF_5_2, vscF_2_3, vscF_0_2, sfuF_8_3, sfuF_b7, sfuF_3_4, sfuF_0_3, rrf_21_5, rrf_16_5, rrf_11_5, rrf_rd, rrf_ra, rrf_rb, rrf_fn, rrf_bit, rrf_rb_bit, rrf_ra_bit, rrf_rd_bit, coded, need, BitVec.extractLsb'_eq_self, Nat.reduceLeDiff, Nat.reduceAdd, Nat.reduceSub, Nat.reduceLT, elemTyOf_code, rmOf_code, fmtOf3_code, hintOf_code, fsizeOf_code, redOpOf_code, voteKindOf_code, sgnOpOf_code, cmpOpOf_code, kOpOf_code, kCondOf_code, qOpOf_code, mtypeOf_code, scopeOf_code, ordOf_code, logOpOf_code, dirOf_code, topoOf_code, aselOf_code, bselOf_code]
  rfl

theorem RoundTrip.vld et q rd ra rb : Statement (.vld et q rd ra rb) := by
  intro hw x hx
  obtain rfl := Option.some.inj hx
  refine decode_of ?_ hw
  unfold rrfV
  refine (major_decodeVmem (rrf_26_6 _ _ _ _ _)).trans ?_
  simp only [decodeVmem, rrf_z15, rrf_z10, vfn_7_4, vfn_3_4, vfn_0_3, ffn_6_5, ffn_4_2, ffn_1_3, ffn_b0, afn_5_6, afn_0_5, afn_mod, afn_bit, hbM_0_4, hbM_b4, z14_0_4, z14_b4, z23_0_3, z23_3_2, z32_0_2, z32_3_2, z32_2_3, z32_b2, ktM_0_2, ktM_3_2, ktM_b2, rc23_3_2, rc23_0_3, rc32_2_3, rc32_0_2, obM_0_2, obM_b2, obM_b3, obM_b4, cvtF_9_2, cvtF_5_4, cvtF_2_3, cvtF_0_2, vcvtF_9_2, vcvtF_6_3, vcvtF_3_3, vcvtF_0_3, vscF_9_2, vscF_7_2, vscF_5_2, vscF_2_3, vscF_0_2, sfuF_8_3, sfuF_b7, sfuF_3_4, sfuF_0_3, rrf_21_5, rrf_16_5, rrf_11_5, rrf_rd, rrf_ra, rrf_rb, rrf_fn, rrf_bit, rrf_rb_bit, rrf_ra_bit, rrf_rd_bit, coded, need, BitVec.extractLsb'_eq_self, Nat.reduceLeDiff, Nat.reduceAdd, Nat.reduceSub, Nat.reduceLT, elemTyOf_code, rmOf_code, fmtOf3_code, hintOf_code, fsizeOf_code, redOpOf_code, voteKindOf_code, sgnOpOf_code, cmpOpOf_code, kOpOf_code, kCondOf_code, qOpOf_code, mtypeOf_code, scopeOf_code, ordOf_code, logOpOf_code, dirOf_code, topoOf_code, aselOf_code, bselOf_code]
  rfl

theorem RoundTrip.vst et q rd ra rb : Statement (.vst et q rd ra rb) := by
  intro hw x hx
  obtain rfl := Option.some.inj hx
  refine decode_of ?_ hw
  unfold rrfV
  refine (major_decodeVmem (rrf_26_6 _ _ _ _ _)).trans ?_
  simp only [decodeVmem, rrf_z15, rrf_z10, vfn_7_4, vfn_3_4, vfn_0_3, ffn_6_5, ffn_4_2, ffn_1_3, ffn_b0, afn_5_6, afn_0_5, afn_mod, afn_bit, hbM_0_4, hbM_b4, z14_0_4, z14_b4, z23_0_3, z23_3_2, z32_0_2, z32_3_2, z32_2_3, z32_b2, ktM_0_2, ktM_3_2, ktM_b2, rc23_3_2, rc23_0_3, rc32_2_3, rc32_0_2, obM_0_2, obM_b2, obM_b3, obM_b4, cvtF_9_2, cvtF_5_4, cvtF_2_3, cvtF_0_2, vcvtF_9_2, vcvtF_6_3, vcvtF_3_3, vcvtF_0_3, vscF_9_2, vscF_7_2, vscF_5_2, vscF_2_3, vscF_0_2, sfuF_8_3, sfuF_b7, sfuF_3_4, sfuF_0_3, rrf_21_5, rrf_16_5, rrf_11_5, rrf_rd, rrf_ra, rrf_rb, rrf_fn, rrf_bit, rrf_rb_bit, rrf_ra_bit, rrf_rd_bit, coded, need, BitVec.extractLsb'_eq_self, Nat.reduceLeDiff, Nat.reduceAdd, Nat.reduceSub, Nat.reduceLT, elemTyOf_code, rmOf_code, fmtOf3_code, hintOf_code, fsizeOf_code, redOpOf_code, voteKindOf_code, sgnOpOf_code, cmpOpOf_code, kOpOf_code, kCondOf_code, qOpOf_code, mtypeOf_code, scopeOf_code, ordOf_code, logOpOf_code, dirOf_code, topoOf_code, aselOf_code, bselOf_code]
  rfl

theorem RoundTrip.vlds et q rd ra rb : Statement (.vlds et q rd ra rb) := by
  intro hw x hx
  obtain rfl := Option.some.inj hx
  refine decode_of ?_ hw
  unfold rrfV
  refine (major_decodeVmem (rrf_26_6 _ _ _ _ _)).trans ?_
  simp only [decodeVmem, rrf_z15, rrf_z10, vfn_7_4, vfn_3_4, vfn_0_3, ffn_6_5, ffn_4_2, ffn_1_3, ffn_b0, afn_5_6, afn_0_5, afn_mod, afn_bit, hbM_0_4, hbM_b4, z14_0_4, z14_b4, z23_0_3, z23_3_2, z32_0_2, z32_3_2, z32_2_3, z32_b2, ktM_0_2, ktM_3_2, ktM_b2, rc23_3_2, rc23_0_3, rc32_2_3, rc32_0_2, obM_0_2, obM_b2, obM_b3, obM_b4, cvtF_9_2, cvtF_5_4, cvtF_2_3, cvtF_0_2, vcvtF_9_2, vcvtF_6_3, vcvtF_3_3, vcvtF_0_3, vscF_9_2, vscF_7_2, vscF_5_2, vscF_2_3, vscF_0_2, sfuF_8_3, sfuF_b7, sfuF_3_4, sfuF_0_3, rrf_21_5, rrf_16_5, rrf_11_5, rrf_rd, rrf_ra, rrf_rb, rrf_fn, rrf_bit, rrf_rb_bit, rrf_ra_bit, rrf_rd_bit, coded, need, BitVec.extractLsb'_eq_self, Nat.reduceLeDiff, Nat.reduceAdd, Nat.reduceSub, Nat.reduceLT, elemTyOf_code, rmOf_code, fmtOf3_code, hintOf_code, fsizeOf_code, redOpOf_code, voteKindOf_code, sgnOpOf_code, cmpOpOf_code, kOpOf_code, kCondOf_code, qOpOf_code, mtypeOf_code, scopeOf_code, ordOf_code, logOpOf_code, dirOf_code, topoOf_code, aselOf_code, bselOf_code]
  rfl

theorem RoundTrip.vgath et q rd ra rb : Statement (.vgath et q rd ra rb) := by
  intro hw x hx
  obtain rfl := Option.some.inj hx
  refine decode_of ?_ hw
  unfold rrfV
  refine (major_decodeVmem (rrf_26_6 _ _ _ _ _)).trans ?_
  simp only [decodeVmem, rrf_z15, rrf_z10, vfn_7_4, vfn_3_4, vfn_0_3, ffn_6_5, ffn_4_2, ffn_1_3, ffn_b0, afn_5_6, afn_0_5, afn_mod, afn_bit, hbM_0_4, hbM_b4, z14_0_4, z14_b4, z23_0_3, z23_3_2, z32_0_2, z32_3_2, z32_2_3, z32_b2, ktM_0_2, ktM_3_2, ktM_b2, rc23_3_2, rc23_0_3, rc32_2_3, rc32_0_2, obM_0_2, obM_b2, obM_b3, obM_b4, cvtF_9_2, cvtF_5_4, cvtF_2_3, cvtF_0_2, vcvtF_9_2, vcvtF_6_3, vcvtF_3_3, vcvtF_0_3, vscF_9_2, vscF_7_2, vscF_5_2, vscF_2_3, vscF_0_2, sfuF_8_3, sfuF_b7, sfuF_3_4, sfuF_0_3, rrf_21_5, rrf_16_5, rrf_11_5, rrf_rd, rrf_ra, rrf_rb, rrf_fn, rrf_bit, rrf_rb_bit, rrf_ra_bit, rrf_rd_bit, coded, need, BitVec.extractLsb'_eq_self, Nat.reduceLeDiff, Nat.reduceAdd, Nat.reduceSub, Nat.reduceLT, elemTyOf_code, rmOf_code, fmtOf3_code, hintOf_code, fsizeOf_code, redOpOf_code, voteKindOf_code, sgnOpOf_code, cmpOpOf_code, kOpOf_code, kCondOf_code, qOpOf_code, mtypeOf_code, scopeOf_code, ordOf_code, logOpOf_code, dirOf_code, topoOf_code, aselOf_code, bselOf_code]
  rfl

theorem RoundTrip.vscat et q rd ra rb : Statement (.vscat et q rd ra rb) := by
  intro hw x hx
  obtain rfl := Option.some.inj hx
  refine decode_of ?_ hw
  unfold rrfV
  refine (major_decodeVmem (rrf_26_6 _ _ _ _ _)).trans ?_
  simp only [decodeVmem, rrf_z15, rrf_z10, vfn_7_4, vfn_3_4, vfn_0_3, ffn_6_5, ffn_4_2, ffn_1_3, ffn_b0, afn_5_6, afn_0_5, afn_mod, afn_bit, hbM_0_4, hbM_b4, z14_0_4, z14_b4, z23_0_3, z23_3_2, z32_0_2, z32_3_2, z32_2_3, z32_b2, ktM_0_2, ktM_3_2, ktM_b2, rc23_3_2, rc23_0_3, rc32_2_3, rc32_0_2, obM_0_2, obM_b2, obM_b3, obM_b4, cvtF_9_2, cvtF_5_4, cvtF_2_3, cvtF_0_2, vcvtF_9_2, vcvtF_6_3, vcvtF_3_3, vcvtF_0_3, vscF_9_2, vscF_7_2, vscF_5_2, vscF_2_3, vscF_0_2, sfuF_8_3, sfuF_b7, sfuF_3_4, sfuF_0_3, rrf_21_5, rrf_16_5, rrf_11_5, rrf_rd, rrf_ra, rrf_rb, rrf_fn, rrf_bit, rrf_rb_bit, rrf_ra_bit, rrf_rd_bit, coded, need, BitVec.extractLsb'_eq_self, Nat.reduceLeDiff, Nat.reduceAdd, Nat.reduceSub, Nat.reduceLT, elemTyOf_code, rmOf_code, fmtOf3_code, hintOf_code, fsizeOf_code, redOpOf_code, voteKindOf_code, sgnOpOf_code, cmpOpOf_code, kOpOf_code, kCondOf_code, qOpOf_code, mtypeOf_code, scopeOf_code, ordOf_code, logOpOf_code, dirOf_code, topoOf_code, aselOf_code, bselOf_code]
  rfl

theorem RoundTrip.lshfl et q rd ra rb : Statement (.lshfl et q rd ra rb) := by
  intro hw x hx
  obtain rfl := Option.some.inj hx
  refine decode_of ?_ hw
  unfold rrfV
  refine (major_decodeLane (rrf_26_6 _ _ _ _ _)).trans ?_
  simp only [decodeLane, rrf_z15, rrf_z10, vfn_7_4, vfn_3_4, vfn_0_3, ffn_6_5, ffn_4_2, ffn_1_3, ffn_b0, afn_5_6, afn_0_5, afn_mod, afn_bit, hbM_0_4, hbM_b4, z14_0_4, z14_b4, z23_0_3, z23_3_2, z32_0_2, z32_3_2, z32_2_3, z32_b2, ktM_0_2, ktM_3_2, ktM_b2, rc23_3_2, rc23_0_3, rc32_2_3, rc32_0_2, obM_0_2, obM_b2, obM_b3, obM_b4, cvtF_9_2, cvtF_5_4, cvtF_2_3, cvtF_0_2, vcvtF_9_2, vcvtF_6_3, vcvtF_3_3, vcvtF_0_3, vscF_9_2, vscF_7_2, vscF_5_2, vscF_2_3, vscF_0_2, sfuF_8_3, sfuF_b7, sfuF_3_4, sfuF_0_3, rrf_21_5, rrf_16_5, rrf_11_5, rrf_rd, rrf_ra, rrf_rb, rrf_fn, rrf_bit, rrf_rb_bit, rrf_ra_bit, rrf_rd_bit, coded, need, BitVec.extractLsb'_eq_self, Nat.reduceLeDiff, Nat.reduceAdd, Nat.reduceSub, Nat.reduceLT, elemTyOf_code, rmOf_code, fmtOf3_code, hintOf_code, fsizeOf_code, redOpOf_code, voteKindOf_code, sgnOpOf_code, cmpOpOf_code, kOpOf_code, kCondOf_code, qOpOf_code, mtypeOf_code, scopeOf_code, ordOf_code, logOpOf_code, dirOf_code, topoOf_code, aselOf_code, bselOf_code]
  rfl

theorem RoundTrip.lbcast et q rd ra rb : Statement (.lbcast et q rd ra rb) := by
  intro hw x hx
  obtain rfl := Option.some.inj hx
  refine decode_of ?_ hw
  unfold rrfV
  refine (major_decodeLane (rrf_26_6 _ _ _ _ _)).trans ?_
  simp only [decodeLane, rrf_z15, rrf_z10, vfn_7_4, vfn_3_4, vfn_0_3, ffn_6_5, ffn_4_2, ffn_1_3, ffn_b0, afn_5_6, afn_0_5, afn_mod, afn_bit, hbM_0_4, hbM_b4, z14_0_4, z14_b4, z23_0_3, z23_3_2, z32_0_2, z32_3_2, z32_2_3, z32_b2, ktM_0_2, ktM_3_2, ktM_b2, rc23_3_2, rc23_0_3, rc32_2_3, rc32_0_2, obM_0_2, obM_b2, obM_b3, obM_b4, cvtF_9_2, cvtF_5_4, cvtF_2_3, cvtF_0_2, vcvtF_9_2, vcvtF_6_3, vcvtF_3_3, vcvtF_0_3, vscF_9_2, vscF_7_2, vscF_5_2, vscF_2_3, vscF_0_2, sfuF_8_3, sfuF_b7, sfuF_3_4, sfuF_0_3, rrf_21_5, rrf_16_5, rrf_11_5, rrf_rd, rrf_ra, rrf_rb, rrf_fn, rrf_bit, rrf_rb_bit, rrf_ra_bit, rrf_rd_bit, coded, need, BitVec.extractLsb'_eq_self, Nat.reduceLeDiff, Nat.reduceAdd, Nat.reduceSub, Nat.reduceLT, elemTyOf_code, rmOf_code, fmtOf3_code, hintOf_code, fsizeOf_code, redOpOf_code, voteKindOf_code, sgnOpOf_code, cmpOpOf_code, kOpOf_code, kCondOf_code, qOpOf_code, mtypeOf_code, scopeOf_code, ordOf_code, logOpOf_code, dirOf_code, topoOf_code, aselOf_code, bselOf_code]
  rfl

theorem RoundTrip.lrot et q rd ra rb : Statement (.lrot et q rd ra rb) := by
  intro hw x hx
  obtain rfl := Option.some.inj hx
  refine decode_of ?_ hw
  unfold rrfV
  refine (major_decodeLane (rrf_26_6 _ _ _ _ _)).trans ?_
  simp only [decodeLane, rrf_z15, rrf_z10, vfn_7_4, vfn_3_4, vfn_0_3, ffn_6_5, ffn_4_2, ffn_1_3, ffn_b0, afn_5_6, afn_0_5, afn_mod, afn_bit, hbM_0_4, hbM_b4, z14_0_4, z14_b4, z23_0_3, z23_3_2, z32_0_2, z32_3_2, z32_2_3, z32_b2, ktM_0_2, ktM_3_2, ktM_b2, rc23_3_2, rc23_0_3, rc32_2_3, rc32_0_2, obM_0_2, obM_b2, obM_b3, obM_b4, cvtF_9_2, cvtF_5_4, cvtF_2_3, cvtF_0_2, vcvtF_9_2, vcvtF_6_3, vcvtF_3_3, vcvtF_0_3, vscF_9_2, vscF_7_2, vscF_5_2, vscF_2_3, vscF_0_2, sfuF_8_3, sfuF_b7, sfuF_3_4, sfuF_0_3, rrf_21_5, rrf_16_5, rrf_11_5, rrf_rd, rrf_ra, rrf_rb, rrf_fn, rrf_bit, rrf_rb_bit, rrf_ra_bit, rrf_rd_bit, coded, need, BitVec.extractLsb'_eq_self, Nat.reduceLeDiff, Nat.reduceAdd, Nat.reduceSub, Nat.reduceLT, elemTyOf_code, rmOf_code, fmtOf3_code, hintOf_code, fsizeOf_code, redOpOf_code, voteKindOf_code, sgnOpOf_code, cmpOpOf_code, kOpOf_code, kCondOf_code, qOpOf_code, mtypeOf_code, scopeOf_code, ordOf_code, logOpOf_code, dirOf_code, topoOf_code, aselOf_code, bselOf_code]
  rfl

theorem RoundTrip.lred et op q rd ra : Statement (.lred et op q rd ra) := by
  intro hw x hx
  obtain rfl := Option.some.inj hx
  refine decode_of ?_ hw
  unfold rrfV
  refine (major_decodeLane (rrf_26_6 _ _ _ _ _)).trans ?_
  simp only [decodeLane, rrf_z15, rrf_z10, vfn_7_4, vfn_3_4, vfn_0_3, ffn_6_5, ffn_4_2, ffn_1_3, ffn_b0, afn_5_6, afn_0_5, afn_mod, afn_bit, hbM_0_4, hbM_b4, z14_0_4, z14_b4, z23_0_3, z23_3_2, z32_0_2, z32_3_2, z32_2_3, z32_b2, ktM_0_2, ktM_3_2, ktM_b2, rc23_3_2, rc23_0_3, rc32_2_3, rc32_0_2, obM_0_2, obM_b2, obM_b3, obM_b4, cvtF_9_2, cvtF_5_4, cvtF_2_3, cvtF_0_2, vcvtF_9_2, vcvtF_6_3, vcvtF_3_3, vcvtF_0_3, vscF_9_2, vscF_7_2, vscF_5_2, vscF_2_3, vscF_0_2, sfuF_8_3, sfuF_b7, sfuF_3_4, sfuF_0_3, rrf_21_5, rrf_16_5, rrf_11_5, rrf_rd, rrf_ra, rrf_rb, rrf_fn, rrf_bit, rrf_rb_bit, rrf_ra_bit, rrf_rd_bit, coded, need, BitVec.extractLsb'_eq_self, Nat.reduceLeDiff, Nat.reduceAdd, Nat.reduceSub, Nat.reduceLT, elemTyOf_code, rmOf_code, fmtOf3_code, hintOf_code, fsizeOf_code, redOpOf_code, voteKindOf_code, sgnOpOf_code, cmpOpOf_code, kOpOf_code, kCondOf_code, qOpOf_code, mtypeOf_code, scopeOf_code, ordOf_code, logOpOf_code, dirOf_code, topoOf_code, aselOf_code, bselOf_code]
  rfl

theorem RoundTrip.lscan et x op q rd ra : Statement (.lscan et x op q rd ra) := by
  intro hw x hx
  obtain rfl := Option.some.inj hx
  refine decode_of ?_ hw
  unfold rrfV
  refine (major_decodeLane (rrf_26_6 _ _ _ _ _)).trans ?_
  simp only [decodeLane, rrf_z15, rrf_z10, vfn_7_4, vfn_3_4, vfn_0_3, ffn_6_5, ffn_4_2, ffn_1_3, ffn_b0, afn_5_6, afn_0_5, afn_mod, afn_bit, hbM_0_4, hbM_b4, z14_0_4, z14_b4, z23_0_3, z23_3_2, z32_0_2, z32_3_2, z32_2_3, z32_b2, ktM_0_2, ktM_3_2, ktM_b2, rc23_3_2, rc23_0_3, rc32_2_3, rc32_0_2, obM_0_2, obM_b2, obM_b3, obM_b4, cvtF_9_2, cvtF_5_4, cvtF_2_3, cvtF_0_2, vcvtF_9_2, vcvtF_6_3, vcvtF_3_3, vcvtF_0_3, vscF_9_2, vscF_7_2, vscF_5_2, vscF_2_3, vscF_0_2, sfuF_8_3, sfuF_b7, sfuF_3_4, sfuF_0_3, rrf_21_5, rrf_16_5, rrf_11_5, rrf_rd, rrf_ra, rrf_rb, rrf_fn, rrf_bit, rrf_rb_bit, rrf_ra_bit, rrf_rd_bit, coded, need, BitVec.extractLsb'_eq_self, Nat.reduceLeDiff, Nat.reduceAdd, Nat.reduceSub, Nat.reduceLT, elemTyOf_code, rmOf_code, fmtOf3_code, hintOf_code, fsizeOf_code, redOpOf_code, voteKindOf_code, sgnOpOf_code, cmpOpOf_code, kOpOf_code, kCondOf_code, qOpOf_code, mtypeOf_code, scopeOf_code, ordOf_code, logOpOf_code, dirOf_code, topoOf_code, aselOf_code, bselOf_code]
  rfl

theorem RoundTrip.vote k rd ra : Statement (.vote k rd ra) := by
  intro hw x hx
  obtain rfl := Option.some.inj hx
  refine decode_of ?_ hw
  unfold rrfV
  refine (major_decodeLane (rrf_26_6 _ _ _ _ _)).trans ?_
  simp only [decodeLane, rrf_z15, rrf_z10, vfn_7_4, vfn_3_4, vfn_0_3, ffn_6_5, ffn_4_2, ffn_1_3, ffn_b0, afn_5_6, afn_0_5, afn_mod, afn_bit, hbM_0_4, hbM_b4, z14_0_4, z14_b4, z23_0_3, z23_3_2, z32_0_2, z32_3_2, z32_2_3, z32_b2, ktM_0_2, ktM_3_2, ktM_b2, rc23_3_2, rc23_0_3, rc32_2_3, rc32_0_2, obM_0_2, obM_b2, obM_b3, obM_b4, cvtF_9_2, cvtF_5_4, cvtF_2_3, cvtF_0_2, vcvtF_9_2, vcvtF_6_3, vcvtF_3_3, vcvtF_0_3, vscF_9_2, vscF_7_2, vscF_5_2, vscF_2_3, vscF_0_2, sfuF_8_3, sfuF_b7, sfuF_3_4, sfuF_0_3, rrf_21_5, rrf_16_5, rrf_11_5, rrf_rd, rrf_ra, rrf_rb, rrf_fn, rrf_bit, rrf_rb_bit, rrf_ra_bit, rrf_rd_bit, coded, need, BitVec.extractLsb'_eq_self, Nat.reduceLeDiff, Nat.reduceAdd, Nat.reduceSub, Nat.reduceLT, elemTyOf_code, rmOf_code, fmtOf3_code, hintOf_code, fsizeOf_code, redOpOf_code, voteKindOf_code, sgnOpOf_code, cmpOpOf_code, kOpOf_code, kCondOf_code, qOpOf_code, mtypeOf_code, scopeOf_code, ordOf_code, logOpOf_code, dirOf_code, topoOf_code, aselOf_code, bselOf_code]
  rfl

theorem RoundTrip.cvt dst src rm rd ra : Statement (.cvt dst src rm rd ra) := by
  intro hw x hx
  obtain rfl := Option.some.inj hx
  refine decode_of ?_ hw
  refine (major_decodeCvt (rrf_26_6 _ _ _ _ _)).trans ?_
  simp only [decodeCvt, rrf_z15, rrf_z10, vfn_7_4, vfn_3_4, vfn_0_3, ffn_6_5, ffn_4_2, ffn_1_3, ffn_b0, afn_5_6, afn_0_5, afn_mod, afn_bit, hbM_0_4, hbM_b4, z14_0_4, z14_b4, z23_0_3, z23_3_2, z32_0_2, z32_3_2, z32_2_3, z32_b2, ktM_0_2, ktM_3_2, ktM_b2, rc23_3_2, rc23_0_3, rc32_2_3, rc32_0_2, obM_0_2, obM_b2, obM_b3, obM_b4, cvtF_9_2, cvtF_5_4, cvtF_2_3, cvtF_0_2, vcvtF_9_2, vcvtF_6_3, vcvtF_3_3, vcvtF_0_3, vscF_9_2, vscF_7_2, vscF_5_2, vscF_2_3, vscF_0_2, sfuF_8_3, sfuF_b7, sfuF_3_4, sfuF_0_3, rrf_21_5, rrf_16_5, rrf_11_5, rrf_rd, rrf_ra, rrf_rb, rrf_fn, rrf_bit, rrf_rb_bit, rrf_ra_bit, rrf_rd_bit, coded, need, BitVec.extractLsb'_eq_self, Nat.reduceLeDiff, Nat.reduceAdd, Nat.reduceSub, Nat.reduceLT, elemTyOf_code, rmOf_code, fmtOf3_code, hintOf_code, fsizeOf_code, redOpOf_code, voteKindOf_code, sgnOpOf_code, cmpOpOf_code, kOpOf_code, kCondOf_code, qOpOf_code, mtypeOf_code, scopeOf_code, ordOf_code, logOpOf_code, dirOf_code, topoOf_code, aselOf_code, bselOf_code]
  rfl

theorem RoundTrip.vcvt dst src rm p q rd ra : Statement (.vcvt dst src rm p q rd ra) := by
  intro hw x hx
  obtain rfl := Option.some.inj hx
  refine decode_of ?_ hw
  refine (major_decodeCvt (rrf_26_6 _ _ _ _ _)).trans ?_
  simp only [decodeCvt, rrf_z15, rrf_z10, vfn_7_4, vfn_3_4, vfn_0_3, ffn_6_5, ffn_4_2, ffn_1_3, ffn_b0, afn_5_6, afn_0_5, afn_mod, afn_bit, hbM_0_4, hbM_b4, z14_0_4, z14_b4, z23_0_3, z23_3_2, z32_0_2, z32_3_2, z32_2_3, z32_b2, ktM_0_2, ktM_3_2, ktM_b2, rc23_3_2, rc23_0_3, rc32_2_3, rc32_0_2, obM_0_2, obM_b2, obM_b3, obM_b4, cvtF_9_2, cvtF_5_4, cvtF_2_3, cvtF_0_2, vcvtF_9_2, vcvtF_6_3, vcvtF_3_3, vcvtF_0_3, vscF_9_2, vscF_7_2, vscF_5_2, vscF_2_3, vscF_0_2, sfuF_8_3, sfuF_b7, sfuF_3_4, sfuF_0_3, rrf_21_5, rrf_16_5, rrf_11_5, rrf_rd, rrf_ra, rrf_rb, rrf_fn, rrf_bit, rrf_rb_bit, rrf_ra_bit, rrf_rd_bit, coded, need, BitVec.extractLsb'_eq_self, Nat.reduceLeDiff, Nat.reduceAdd, Nat.reduceSub, Nat.reduceLT, elemTyOf_code, rmOf_code, fmtOf3_code, hintOf_code, fsizeOf_code, redOpOf_code, voteKindOf_code, sgnOpOf_code, cmpOpOf_code, kOpOf_code, kCondOf_code, qOpOf_code, mtypeOf_code, scopeOf_code, ordOf_code, logOpOf_code, dirOf_code, topoOf_code, aselOf_code, bselOf_code]
  rfl

theorem RoundTrip.vcvtsc dst src rm q rd ra rb : Statement (.vcvtsc dst src rm q rd ra rb) := by
  intro hw x hx
  obtain rfl := Option.some.inj hx
  refine decode_of ?_ hw
  refine (major_decodeCvt (rrf_26_6 _ _ _ _ _)).trans ?_
  simp only [decodeCvt, rrf_z15, rrf_z10, vfn_7_4, vfn_3_4, vfn_0_3, ffn_6_5, ffn_4_2, ffn_1_3, ffn_b0, afn_5_6, afn_0_5, afn_mod, afn_bit, hbM_0_4, hbM_b4, z14_0_4, z14_b4, z23_0_3, z23_3_2, z32_0_2, z32_3_2, z32_2_3, z32_b2, ktM_0_2, ktM_3_2, ktM_b2, rc23_3_2, rc23_0_3, rc32_2_3, rc32_0_2, obM_0_2, obM_b2, obM_b3, obM_b4, cvtF_9_2, cvtF_5_4, cvtF_2_3, cvtF_0_2, vcvtF_9_2, vcvtF_6_3, vcvtF_3_3, vcvtF_0_3, vscF_9_2, vscF_7_2, vscF_5_2, vscF_2_3, vscF_0_2, sfuF_8_3, sfuF_b7, sfuF_3_4, sfuF_0_3, rrf_21_5, rrf_16_5, rrf_11_5, rrf_rd, rrf_ra, rrf_rb, rrf_fn, rrf_bit, rrf_rb_bit, rrf_ra_bit, rrf_rd_bit, coded, need, BitVec.extractLsb'_eq_self, Nat.reduceLeDiff, Nat.reduceAdd, Nat.reduceSub, Nat.reduceLT, elemTyOf_code, rmOf_code, fmtOf3_code, hintOf_code, fsizeOf_code, redOpOf_code, voteKindOf_code, sgnOpOf_code, cmpOpOf_code, kOpOf_code, kCondOf_code, qOpOf_code, mtypeOf_code, scopeOf_code, ordOf_code, logOpOf_code, dirOf_code, topoOf_code, aselOf_code, bselOf_code]
  cases dst <;> cases src <;> first | rfl | exact Bool.noConfusion hw

theorem RoundTrip.vcvtus dst src rm p rd ra : Statement (.vcvtus dst src rm p rd ra) := by
  intro hw x hx
  obtain rfl := Option.some.inj hx
  refine decode_of ?_ hw
  refine (major_decodeCvt (rrf_26_6 _ _ _ _ _)).trans ?_
  simp only [decodeCvt, rrf_z15, rrf_z10, vfn_7_4, vfn_3_4, vfn_0_3, ffn_6_5, ffn_4_2, ffn_1_3, ffn_b0, afn_5_6, afn_0_5, afn_mod, afn_bit, hbM_0_4, hbM_b4, z14_0_4, z14_b4, z23_0_3, z23_3_2, z32_0_2, z32_3_2, z32_2_3, z32_b2, ktM_0_2, ktM_3_2, ktM_b2, rc23_3_2, rc23_0_3, rc32_2_3, rc32_0_2, obM_0_2, obM_b2, obM_b3, obM_b4, cvtF_9_2, cvtF_5_4, cvtF_2_3, cvtF_0_2, vcvtF_9_2, vcvtF_6_3, vcvtF_3_3, vcvtF_0_3, vscF_9_2, vscF_7_2, vscF_5_2, vscF_2_3, vscF_0_2, sfuF_8_3, sfuF_b7, sfuF_3_4, sfuF_0_3, rrf_21_5, rrf_16_5, rrf_11_5, rrf_rd, rrf_ra, rrf_rb, rrf_fn, rrf_bit, rrf_rb_bit, rrf_ra_bit, rrf_rd_bit, coded, need, BitVec.extractLsb'_eq_self, Nat.reduceLeDiff, Nat.reduceAdd, Nat.reduceSub, Nat.reduceLT, elemTyOf_code, rmOf_code, fmtOf3_code, hintOf_code, fsizeOf_code, redOpOf_code, voteKindOf_code, sgnOpOf_code, cmpOpOf_code, kOpOf_code, kCondOf_code, qOpOf_code, mtypeOf_code, scopeOf_code, ordOf_code, logOpOf_code, dirOf_code, topoOf_code, aselOf_code, bselOf_code]
  rfl

theorem RoundTrip.exp2 rd ra : Statement (.exp2 rd ra) := by
  intro hw x hx
  obtain rfl := Option.some.inj hx
  refine decode_of ?_ hw
  unfold sfuw
  refine (major_decodeSfu (rrf_26_6 _ _ _ _ _)).trans ?_
  simp only [decodeSfu, rrf_z15, rrf_z10, vfn_7_4, vfn_3_4, vfn_0_3, ffn_6_5, ffn_4_2, ffn_1_3, ffn_b0, afn_5_6, afn_0_5, afn_mod, afn_bit, hbM_0_4, hbM_b4, z14_0_4, z14_b4, z23_0_3, z23_3_2, z32_0_2, z32_3_2, z32_2_3, z32_b2, ktM_0_2, ktM_3_2, ktM_b2, rc23_3_2, rc23_0_3, rc32_2_3, rc32_0_2, obM_0_2, obM_b2, obM_b3, obM_b4, cvtF_9_2, cvtF_5_4, cvtF_2_3, cvtF_0_2, vcvtF_9_2, vcvtF_6_3, vcvtF_3_3, vcvtF_0_3, vscF_9_2, vscF_7_2, vscF_5_2, vscF_2_3, vscF_0_2, sfuF_8_3, sfuF_b7, sfuF_3_4, sfuF_0_3, rrf_21_5, rrf_16_5, rrf_11_5, rrf_rd, rrf_ra, rrf_rb, rrf_fn, rrf_bit, rrf_rb_bit, rrf_ra_bit, rrf_rd_bit, coded, need, BitVec.extractLsb'_eq_self, Nat.reduceLeDiff, Nat.reduceAdd, Nat.reduceSub, Nat.reduceLT, elemTyOf_code, rmOf_code, fmtOf3_code, hintOf_code, fsizeOf_code, redOpOf_code, voteKindOf_code, sgnOpOf_code, cmpOpOf_code, kOpOf_code, kCondOf_code, qOpOf_code, mtypeOf_code, scopeOf_code, ordOf_code, logOpOf_code, dirOf_code, topoOf_code, aselOf_code, bselOf_code]
  rfl

theorem RoundTrip.exp2V et q rd ra : Statement (.exp2V et q rd ra) := by
  intro hw x hx
  obtain rfl := Option.some.inj hx
  refine decode_of ?_ hw
  unfold sfuw
  refine (major_decodeSfu (rrf_26_6 _ _ _ _ _)).trans ?_
  simp only [decodeSfu, rrf_z15, rrf_z10, vfn_7_4, vfn_3_4, vfn_0_3, ffn_6_5, ffn_4_2, ffn_1_3, ffn_b0, afn_5_6, afn_0_5, afn_mod, afn_bit, hbM_0_4, hbM_b4, z14_0_4, z14_b4, z23_0_3, z23_3_2, z32_0_2, z32_3_2, z32_2_3, z32_b2, ktM_0_2, ktM_3_2, ktM_b2, rc23_3_2, rc23_0_3, rc32_2_3, rc32_0_2, obM_0_2, obM_b2, obM_b3, obM_b4, cvtF_9_2, cvtF_5_4, cvtF_2_3, cvtF_0_2, vcvtF_9_2, vcvtF_6_3, vcvtF_3_3, vcvtF_0_3, vscF_9_2, vscF_7_2, vscF_5_2, vscF_2_3, vscF_0_2, sfuF_8_3, sfuF_b7, sfuF_3_4, sfuF_0_3, rrf_21_5, rrf_16_5, rrf_11_5, rrf_rd, rrf_ra, rrf_rb, rrf_fn, rrf_bit, rrf_rb_bit, rrf_ra_bit, rrf_rd_bit, coded, need, BitVec.extractLsb'_eq_self, Nat.reduceLeDiff, Nat.reduceAdd, Nat.reduceSub, Nat.reduceLT, elemTyOf_code, rmOf_code, fmtOf3_code, hintOf_code, fsizeOf_code, redOpOf_code, voteKindOf_code, sgnOpOf_code, cmpOpOf_code, kOpOf_code, kCondOf_code, qOpOf_code, mtypeOf_code, scopeOf_code, ordOf_code, logOpOf_code, dirOf_code, topoOf_code, aselOf_code, bselOf_code]
  rfl

theorem RoundTrip.log2 rd ra : Statement (.log2 rd ra) := by
  intro hw x hx
  obtain rfl := Option.some.inj hx
  refine decode_of ?_ hw
  unfold sfuw
  refine (major_decodeSfu (rrf_26_6 _ _ _ _ _)).trans ?_
  simp only [decodeSfu, rrf_z15, rrf_z10, vfn_7_4, vfn_3_4, vfn_0_3, ffn_6_5, ffn_4_2, ffn_1_3, ffn_b0, afn_5_6, afn_0_5, afn_mod, afn_bit, hbM_0_4, hbM_b4, z14_0_4, z14_b4, z23_0_3, z23_3_2, z32_0_2, z32_3_2, z32_2_3, z32_b2, ktM_0_2, ktM_3_2, ktM_b2, rc23_3_2, rc23_0_3, rc32_2_3, rc32_0_2, obM_0_2, obM_b2, obM_b3, obM_b4, cvtF_9_2, cvtF_5_4, cvtF_2_3, cvtF_0_2, vcvtF_9_2, vcvtF_6_3, vcvtF_3_3, vcvtF_0_3, vscF_9_2, vscF_7_2, vscF_5_2, vscF_2_3, vscF_0_2, sfuF_8_3, sfuF_b7, sfuF_3_4, sfuF_0_3, rrf_21_5, rrf_16_5, rrf_11_5, rrf_rd, rrf_ra, rrf_rb, rrf_fn, rrf_bit, rrf_rb_bit, rrf_ra_bit, rrf_rd_bit, coded, need, BitVec.extractLsb'_eq_self, Nat.reduceLeDiff, Nat.reduceAdd, Nat.reduceSub, Nat.reduceLT, elemTyOf_code, rmOf_code, fmtOf3_code, hintOf_code, fsizeOf_code, redOpOf_code, voteKindOf_code, sgnOpOf_code, cmpOpOf_code, kOpOf_code, kCondOf_code, qOpOf_code, mtypeOf_code, scopeOf_code, ordOf_code, logOpOf_code, dirOf_code, topoOf_code, aselOf_code, bselOf_code]
  rfl

theorem RoundTrip.log2V et q rd ra : Statement (.log2V et q rd ra) := by
  intro hw x hx
  obtain rfl := Option.some.inj hx
  refine decode_of ?_ hw
  unfold sfuw
  refine (major_decodeSfu (rrf_26_6 _ _ _ _ _)).trans ?_
  simp only [decodeSfu, rrf_z15, rrf_z10, vfn_7_4, vfn_3_4, vfn_0_3, ffn_6_5, ffn_4_2, ffn_1_3, ffn_b0, afn_5_6, afn_0_5, afn_mod, afn_bit, hbM_0_4, hbM_b4, z14_0_4, z14_b4, z23_0_3, z23_3_2, z32_0_2, z32_3_2, z32_2_3, z32_b2, ktM_0_2, ktM_3_2, ktM_b2, rc23_3_2, rc23_0_3, rc32_2_3, rc32_0_2, obM_0_2, obM_b2, obM_b3, obM_b4, cvtF_9_2, cvtF_5_4, cvtF_2_3, cvtF_0_2, vcvtF_9_2, vcvtF_6_3, vcvtF_3_3, vcvtF_0_3, vscF_9_2, vscF_7_2, vscF_5_2, vscF_2_3, vscF_0_2, sfuF_8_3, sfuF_b7, sfuF_3_4, sfuF_0_3, rrf_21_5, rrf_16_5, rrf_11_5, rrf_rd, rrf_ra, rrf_rb, rrf_fn, rrf_bit, rrf_rb_bit, rrf_ra_bit, rrf_rd_bit, coded, need, BitVec.extractLsb'_eq_self, Nat.reduceLeDiff, Nat.reduceAdd, Nat.reduceSub, Nat.reduceLT, elemTyOf_code, rmOf_code, fmtOf3_code, hintOf_code, fsizeOf_code, redOpOf_code, voteKindOf_code, sgnOpOf_code, cmpOpOf_code, kOpOf_code, kCondOf_code, qOpOf_code, mtypeOf_code, scopeOf_code, ordOf_code, logOpOf_code, dirOf_code, topoOf_code, aselOf_code, bselOf_code]
  rfl

theorem RoundTrip.rcp rd ra : Statement (.rcp rd ra) := by
  intro hw x hx
  obtain rfl := Option.some.inj hx
  refine decode_of ?_ hw
  unfold sfuw
  refine (major_decodeSfu (rrf_26_6 _ _ _ _ _)).trans ?_
  simp only [decodeSfu, rrf_z15, rrf_z10, vfn_7_4, vfn_3_4, vfn_0_3, ffn_6_5, ffn_4_2, ffn_1_3, ffn_b0, afn_5_6, afn_0_5, afn_mod, afn_bit, hbM_0_4, hbM_b4, z14_0_4, z14_b4, z23_0_3, z23_3_2, z32_0_2, z32_3_2, z32_2_3, z32_b2, ktM_0_2, ktM_3_2, ktM_b2, rc23_3_2, rc23_0_3, rc32_2_3, rc32_0_2, obM_0_2, obM_b2, obM_b3, obM_b4, cvtF_9_2, cvtF_5_4, cvtF_2_3, cvtF_0_2, vcvtF_9_2, vcvtF_6_3, vcvtF_3_3, vcvtF_0_3, vscF_9_2, vscF_7_2, vscF_5_2, vscF_2_3, vscF_0_2, sfuF_8_3, sfuF_b7, sfuF_3_4, sfuF_0_3, rrf_21_5, rrf_16_5, rrf_11_5, rrf_rd, rrf_ra, rrf_rb, rrf_fn, rrf_bit, rrf_rb_bit, rrf_ra_bit, rrf_rd_bit, coded, need, BitVec.extractLsb'_eq_self, Nat.reduceLeDiff, Nat.reduceAdd, Nat.reduceSub, Nat.reduceLT, elemTyOf_code, rmOf_code, fmtOf3_code, hintOf_code, fsizeOf_code, redOpOf_code, voteKindOf_code, sgnOpOf_code, cmpOpOf_code, kOpOf_code, kCondOf_code, qOpOf_code, mtypeOf_code, scopeOf_code, ordOf_code, logOpOf_code, dirOf_code, topoOf_code, aselOf_code, bselOf_code]
  rfl

theorem RoundTrip.rcpV et q rd ra : Statement (.rcpV et q rd ra) := by
  intro hw x hx
  obtain rfl := Option.some.inj hx
  refine decode_of ?_ hw
  unfold sfuw
  refine (major_decodeSfu (rrf_26_6 _ _ _ _ _)).trans ?_
  simp only [decodeSfu, rrf_z15, rrf_z10, vfn_7_4, vfn_3_4, vfn_0_3, ffn_6_5, ffn_4_2, ffn_1_3, ffn_b0, afn_5_6, afn_0_5, afn_mod, afn_bit, hbM_0_4, hbM_b4, z14_0_4, z14_b4, z23_0_3, z23_3_2, z32_0_2, z32_3_2, z32_2_3, z32_b2, ktM_0_2, ktM_3_2, ktM_b2, rc23_3_2, rc23_0_3, rc32_2_3, rc32_0_2, obM_0_2, obM_b2, obM_b3, obM_b4, cvtF_9_2, cvtF_5_4, cvtF_2_3, cvtF_0_2, vcvtF_9_2, vcvtF_6_3, vcvtF_3_3, vcvtF_0_3, vscF_9_2, vscF_7_2, vscF_5_2, vscF_2_3, vscF_0_2, sfuF_8_3, sfuF_b7, sfuF_3_4, sfuF_0_3, rrf_21_5, rrf_16_5, rrf_11_5, rrf_rd, rrf_ra, rrf_rb, rrf_fn, rrf_bit, rrf_rb_bit, rrf_ra_bit, rrf_rd_bit, coded, need, BitVec.extractLsb'_eq_self, Nat.reduceLeDiff, Nat.reduceAdd, Nat.reduceSub, Nat.reduceLT, elemTyOf_code, rmOf_code, fmtOf3_code, hintOf_code, fsizeOf_code, redOpOf_code, voteKindOf_code, sgnOpOf_code, cmpOpOf_code, kOpOf_code, kCondOf_code, qOpOf_code, mtypeOf_code, scopeOf_code, ordOf_code, logOpOf_code, dirOf_code, topoOf_code, aselOf_code, bselOf_code]
  rfl

theorem RoundTrip.rsq rd ra : Statement (.rsq rd ra) := by
  intro hw x hx
  obtain rfl := Option.some.inj hx
  refine decode_of ?_ hw
  unfold sfuw
  refine (major_decodeSfu (rrf_26_6 _ _ _ _ _)).trans ?_
  simp only [decodeSfu, rrf_z15, rrf_z10, vfn_7_4, vfn_3_4, vfn_0_3, ffn_6_5, ffn_4_2, ffn_1_3, ffn_b0, afn_5_6, afn_0_5, afn_mod, afn_bit, hbM_0_4, hbM_b4, z14_0_4, z14_b4, z23_0_3, z23_3_2, z32_0_2, z32_3_2, z32_2_3, z32_b2, ktM_0_2, ktM_3_2, ktM_b2, rc23_3_2, rc23_0_3, rc32_2_3, rc32_0_2, obM_0_2, obM_b2, obM_b3, obM_b4, cvtF_9_2, cvtF_5_4, cvtF_2_3, cvtF_0_2, vcvtF_9_2, vcvtF_6_3, vcvtF_3_3, vcvtF_0_3, vscF_9_2, vscF_7_2, vscF_5_2, vscF_2_3, vscF_0_2, sfuF_8_3, sfuF_b7, sfuF_3_4, sfuF_0_3, rrf_21_5, rrf_16_5, rrf_11_5, rrf_rd, rrf_ra, rrf_rb, rrf_fn, rrf_bit, rrf_rb_bit, rrf_ra_bit, rrf_rd_bit, coded, need, BitVec.extractLsb'_eq_self, Nat.reduceLeDiff, Nat.reduceAdd, Nat.reduceSub, Nat.reduceLT, elemTyOf_code, rmOf_code, fmtOf3_code, hintOf_code, fsizeOf_code, redOpOf_code, voteKindOf_code, sgnOpOf_code, cmpOpOf_code, kOpOf_code, kCondOf_code, qOpOf_code, mtypeOf_code, scopeOf_code, ordOf_code, logOpOf_code, dirOf_code, topoOf_code, aselOf_code, bselOf_code]
  rfl

theorem RoundTrip.rsqV et q rd ra : Statement (.rsqV et q rd ra) := by
  intro hw x hx
  obtain rfl := Option.some.inj hx
  refine decode_of ?_ hw
  unfold sfuw
  refine (major_decodeSfu (rrf_26_6 _ _ _ _ _)).trans ?_
  simp only [decodeSfu, rrf_z15, rrf_z10, vfn_7_4, vfn_3_4, vfn_0_3, ffn_6_5, ffn_4_2, ffn_1_3, ffn_b0, afn_5_6, afn_0_5, afn_mod, afn_bit, hbM_0_4, hbM_b4, z14_0_4, z14_b4, z23_0_3, z23_3_2, z32_0_2, z32_3_2, z32_2_3, z32_b2, ktM_0_2, ktM_3_2, ktM_b2, rc23_3_2, rc23_0_3, rc32_2_3, rc32_0_2, obM_0_2, obM_b2, obM_b3, obM_b4, cvtF_9_2, cvtF_5_4, cvtF_2_3, cvtF_0_2, vcvtF_9_2, vcvtF_6_3, vcvtF_3_3, vcvtF_0_3, vscF_9_2, vscF_7_2, vscF_5_2, vscF_2_3, vscF_0_2, sfuF_8_3, sfuF_b7, sfuF_3_4, sfuF_0_3, rrf_21_5, rrf_16_5, rrf_11_5, rrf_rd, rrf_ra, rrf_rb, rrf_fn, rrf_bit, rrf_rb_bit, rrf_ra_bit, rrf_rd_bit, coded, need, BitVec.extractLsb'_eq_self, Nat.reduceLeDiff, Nat.reduceAdd, Nat.reduceSub, Nat.reduceLT, elemTyOf_code, rmOf_code, fmtOf3_code, hintOf_code, fsizeOf_code, redOpOf_code, voteKindOf_code, sgnOpOf_code, cmpOpOf_code, kOpOf_code, kCondOf_code, qOpOf_code, mtypeOf_code, scopeOf_code, ordOf_code, logOpOf_code, dirOf_code, topoOf_code, aselOf_code, bselOf_code]
  rfl

theorem RoundTrip.sin rd ra : Statement (.sin rd ra) := by
  intro hw x hx
  obtain rfl := Option.some.inj hx
  refine decode_of ?_ hw
  unfold sfuw
  refine (major_decodeSfu (rrf_26_6 _ _ _ _ _)).trans ?_
  simp only [decodeSfu, rrf_z15, rrf_z10, vfn_7_4, vfn_3_4, vfn_0_3, ffn_6_5, ffn_4_2, ffn_1_3, ffn_b0, afn_5_6, afn_0_5, afn_mod, afn_bit, hbM_0_4, hbM_b4, z14_0_4, z14_b4, z23_0_3, z23_3_2, z32_0_2, z32_3_2, z32_2_3, z32_b2, ktM_0_2, ktM_3_2, ktM_b2, rc23_3_2, rc23_0_3, rc32_2_3, rc32_0_2, obM_0_2, obM_b2, obM_b3, obM_b4, cvtF_9_2, cvtF_5_4, cvtF_2_3, cvtF_0_2, vcvtF_9_2, vcvtF_6_3, vcvtF_3_3, vcvtF_0_3, vscF_9_2, vscF_7_2, vscF_5_2, vscF_2_3, vscF_0_2, sfuF_8_3, sfuF_b7, sfuF_3_4, sfuF_0_3, rrf_21_5, rrf_16_5, rrf_11_5, rrf_rd, rrf_ra, rrf_rb, rrf_fn, rrf_bit, rrf_rb_bit, rrf_ra_bit, rrf_rd_bit, coded, need, BitVec.extractLsb'_eq_self, Nat.reduceLeDiff, Nat.reduceAdd, Nat.reduceSub, Nat.reduceLT, elemTyOf_code, rmOf_code, fmtOf3_code, hintOf_code, fsizeOf_code, redOpOf_code, voteKindOf_code, sgnOpOf_code, cmpOpOf_code, kOpOf_code, kCondOf_code, qOpOf_code, mtypeOf_code, scopeOf_code, ordOf_code, logOpOf_code, dirOf_code, topoOf_code, aselOf_code, bselOf_code]
  rfl

theorem RoundTrip.sinV et q rd ra : Statement (.sinV et q rd ra) := by
  intro hw x hx
  obtain rfl := Option.some.inj hx
  refine decode_of ?_ hw
  unfold sfuw
  refine (major_decodeSfu (rrf_26_6 _ _ _ _ _)).trans ?_
  simp only [decodeSfu, rrf_z15, rrf_z10, vfn_7_4, vfn_3_4, vfn_0_3, ffn_6_5, ffn_4_2, ffn_1_3, ffn_b0, afn_5_6, afn_0_5, afn_mod, afn_bit, hbM_0_4, hbM_b4, z14_0_4, z14_b4, z23_0_3, z23_3_2, z32_0_2, z32_3_2, z32_2_3, z32_b2, ktM_0_2, ktM_3_2, ktM_b2, rc23_3_2, rc23_0_3, rc32_2_3, rc32_0_2, obM_0_2, obM_b2, obM_b3, obM_b4, cvtF_9_2, cvtF_5_4, cvtF_2_3, cvtF_0_2, vcvtF_9_2, vcvtF_6_3, vcvtF_3_3, vcvtF_0_3, vscF_9_2, vscF_7_2, vscF_5_2, vscF_2_3, vscF_0_2, sfuF_8_3, sfuF_b7, sfuF_3_4, sfuF_0_3, rrf_21_5, rrf_16_5, rrf_11_5, rrf_rd, rrf_ra, rrf_rb, rrf_fn, rrf_bit, rrf_rb_bit, rrf_ra_bit, rrf_rd_bit, coded, need, BitVec.extractLsb'_eq_self, Nat.reduceLeDiff, Nat.reduceAdd, Nat.reduceSub, Nat.reduceLT, elemTyOf_code, rmOf_code, fmtOf3_code, hintOf_code, fsizeOf_code, redOpOf_code, voteKindOf_code, sgnOpOf_code, cmpOpOf_code, kOpOf_code, kCondOf_code, qOpOf_code, mtypeOf_code, scopeOf_code, ordOf_code, logOpOf_code, dirOf_code, topoOf_code, aselOf_code, bselOf_code]
  rfl

theorem RoundTrip.cos rd ra : Statement (.cos rd ra) := by
  intro hw x hx
  obtain rfl := Option.some.inj hx
  refine decode_of ?_ hw
  unfold sfuw
  refine (major_decodeSfu (rrf_26_6 _ _ _ _ _)).trans ?_
  simp only [decodeSfu, rrf_z15, rrf_z10, vfn_7_4, vfn_3_4, vfn_0_3, ffn_6_5, ffn_4_2, ffn_1_3, ffn_b0, afn_5_6, afn_0_5, afn_mod, afn_bit, hbM_0_4, hbM_b4, z14_0_4, z14_b4, z23_0_3, z23_3_2, z32_0_2, z32_3_2, z32_2_3, z32_b2, ktM_0_2, ktM_3_2, ktM_b2, rc23_3_2, rc23_0_3, rc32_2_3, rc32_0_2, obM_0_2, obM_b2, obM_b3, obM_b4, cvtF_9_2, cvtF_5_4, cvtF_2_3, cvtF_0_2, vcvtF_9_2, vcvtF_6_3, vcvtF_3_3, vcvtF_0_3, vscF_9_2, vscF_7_2, vscF_5_2, vscF_2_3, vscF_0_2, sfuF_8_3, sfuF_b7, sfuF_3_4, sfuF_0_3, rrf_21_5, rrf_16_5, rrf_11_5, rrf_rd, rrf_ra, rrf_rb, rrf_fn, rrf_bit, rrf_rb_bit, rrf_ra_bit, rrf_rd_bit, coded, need, BitVec.extractLsb'_eq_self, Nat.reduceLeDiff, Nat.reduceAdd, Nat.reduceSub, Nat.reduceLT, elemTyOf_code, rmOf_code, fmtOf3_code, hintOf_code, fsizeOf_code, redOpOf_code, voteKindOf_code, sgnOpOf_code, cmpOpOf_code, kOpOf_code, kCondOf_code, qOpOf_code, mtypeOf_code, scopeOf_code, ordOf_code, logOpOf_code, dirOf_code, topoOf_code, aselOf_code, bselOf_code]
  rfl

theorem RoundTrip.cosV et q rd ra : Statement (.cosV et q rd ra) := by
  intro hw x hx
  obtain rfl := Option.some.inj hx
  refine decode_of ?_ hw
  unfold sfuw
  refine (major_decodeSfu (rrf_26_6 _ _ _ _ _)).trans ?_
  simp only [decodeSfu, rrf_z15, rrf_z10, vfn_7_4, vfn_3_4, vfn_0_3, ffn_6_5, ffn_4_2, ffn_1_3, ffn_b0, afn_5_6, afn_0_5, afn_mod, afn_bit, hbM_0_4, hbM_b4, z14_0_4, z14_b4, z23_0_3, z23_3_2, z32_0_2, z32_3_2, z32_2_3, z32_b2, ktM_0_2, ktM_3_2, ktM_b2, rc23_3_2, rc23_0_3, rc32_2_3, rc32_0_2, obM_0_2, obM_b2, obM_b3, obM_b4, cvtF_9_2, cvtF_5_4, cvtF_2_3, cvtF_0_2, vcvtF_9_2, vcvtF_6_3, vcvtF_3_3, vcvtF_0_3, vscF_9_2, vscF_7_2, vscF_5_2, vscF_2_3, vscF_0_2, sfuF_8_3, sfuF_b7, sfuF_3_4, sfuF_0_3, rrf_21_5, rrf_16_5, rrf_11_5, rrf_rd, rrf_ra, rrf_rb, rrf_fn, rrf_bit, rrf_rb_bit, rrf_ra_bit, rrf_rd_bit, coded, need, BitVec.extractLsb'_eq_self, Nat.reduceLeDiff, Nat.reduceAdd, Nat.reduceSub, Nat.reduceLT, elemTyOf_code, rmOf_code, fmtOf3_code, hintOf_code, fsizeOf_code, redOpOf_code, voteKindOf_code, sgnOpOf_code, cmpOpOf_code, kOpOf_code, kCondOf_code, qOpOf_code, mtypeOf_code, scopeOf_code, ordOf_code, logOpOf_code, dirOf_code, topoOf_code, aselOf_code, bselOf_code]
  rfl

theorem RoundTrip.kalu op kd ka kb : Statement (.kalu op kd ka kb) := by
  intro hw x hx
  obtain rfl := Option.some.inj hx
  refine decode_of ?_ hw
  refine (major_decodeUni (rrf_26_6 _ _ _ _ _)).trans ?_
  simp only [decodeUni, rrf_z15, rrf_z10, vfn_7_4, vfn_3_4, vfn_0_3, ffn_6_5, ffn_4_2, ffn_1_3, ffn_b0, afn_5_6, afn_0_5, afn_mod, afn_bit, hbM_0_4, hbM_b4, z14_0_4, z14_b4, z23_0_3, z23_3_2, z32_0_2, z32_3_2, z32_2_3, z32_b2, ktM_0_2, ktM_3_2, ktM_b2, rc23_3_2, rc23_0_3, rc32_2_3, rc32_0_2, obM_0_2, obM_b2, obM_b3, obM_b4, cvtF_9_2, cvtF_5_4, cvtF_2_3, cvtF_0_2, vcvtF_9_2, vcvtF_6_3, vcvtF_3_3, vcvtF_0_3, vscF_9_2, vscF_7_2, vscF_5_2, vscF_2_3, vscF_0_2, sfuF_8_3, sfuF_b7, sfuF_3_4, sfuF_0_3, rrf_21_5, rrf_16_5, rrf_11_5, rrf_rd, rrf_ra, rrf_rb, rrf_fn, rrf_bit, rrf_rb_bit, rrf_ra_bit, rrf_rd_bit, coded, need, BitVec.extractLsb'_eq_self, Nat.reduceLeDiff, Nat.reduceAdd, Nat.reduceSub, Nat.reduceLT, elemTyOf_code, rmOf_code, fmtOf3_code, hintOf_code, fsizeOf_code, redOpOf_code, voteKindOf_code, sgnOpOf_code, cmpOpOf_code, kOpOf_code, kCondOf_code, qOpOf_code, mtypeOf_code, scopeOf_code, ordOf_code, logOpOf_code, dirOf_code, topoOf_code, aselOf_code, bselOf_code]
  rfl

theorem RoundTrip.kli kd i : Statement (.kli kd i) := by
  intro hw x hx
  obtain rfl := Option.some.inj hx
  refine decode_of ?_ hw
  refine (major_decodeUni (kli_26_6 kd i)).trans ?_
  simp only [decodeUni, kli_b25, kli_21_4, kli_3_18, kli_0_3, coded, need, BitVec.extractLsb'_eq_self, Nat.reduceLeDiff, Nat.reduceAdd, Nat.reduceSub, Nat.reduceLT, elemTyOf_code, rmOf_code, fmtOf3_code, hintOf_code, fsizeOf_code, redOpOf_code, voteKindOf_code, sgnOpOf_code, cmpOpOf_code, kOpOf_code, kCondOf_code, qOpOf_code, mtypeOf_code, scopeOf_code, ordOf_code, logOpOf_code, dirOf_code, topoOf_code, aselOf_code, bselOf_code]
  rfl

theorem RoundTrip.kget rd ka : Statement (.kget rd ka) := by
  intro hw x hx
  obtain rfl := Option.some.inj hx
  refine decode_of ?_ hw
  refine (major_decodeUni (rrf_26_6 _ _ _ _ _)).trans ?_
  simp only [decodeUni, rrf_z15, rrf_z10, vfn_7_4, vfn_3_4, vfn_0_3, ffn_6_5, ffn_4_2, ffn_1_3, ffn_b0, afn_5_6, afn_0_5, afn_mod, afn_bit, hbM_0_4, hbM_b4, z14_0_4, z14_b4, z23_0_3, z23_3_2, z32_0_2, z32_3_2, z32_2_3, z32_b2, ktM_0_2, ktM_3_2, ktM_b2, rc23_3_2, rc23_0_3, rc32_2_3, rc32_0_2, obM_0_2, obM_b2, obM_b3, obM_b4, cvtF_9_2, cvtF_5_4, cvtF_2_3, cvtF_0_2, vcvtF_9_2, vcvtF_6_3, vcvtF_3_3, vcvtF_0_3, vscF_9_2, vscF_7_2, vscF_5_2, vscF_2_3, vscF_0_2, sfuF_8_3, sfuF_b7, sfuF_3_4, sfuF_0_3, rrf_21_5, rrf_16_5, rrf_11_5, rrf_rd, rrf_ra, rrf_rb, rrf_fn, rrf_bit, rrf_rb_bit, rrf_ra_bit, rrf_rd_bit, coded, need, BitVec.extractLsb'_eq_self, Nat.reduceLeDiff, Nat.reduceAdd, Nat.reduceSub, Nat.reduceLT, elemTyOf_code, rmOf_code, fmtOf3_code, hintOf_code, fsizeOf_code, redOpOf_code, voteKindOf_code, sgnOpOf_code, cmpOpOf_code, kOpOf_code, kCondOf_code, qOpOf_code, mtypeOf_code, scopeOf_code, ordOf_code, logOpOf_code, dirOf_code, topoOf_code, aselOf_code, bselOf_code]
  rw [rrf_z15 _ _ _ _ (by decide)]
  rfl

theorem RoundTrip.kput kd ra : Statement (.kput kd ra) := by
  intro hw x hx
  obtain rfl := Option.some.inj hx
  refine decode_of ?_ hw
  refine (major_decodeUni (rrf_26_6 _ _ _ _ _)).trans ?_
  simp only [decodeUni, rrf_z15, rrf_z10, vfn_7_4, vfn_3_4, vfn_0_3, ffn_6_5, ffn_4_2, ffn_1_3, ffn_b0, afn_5_6, afn_0_5, afn_mod, afn_bit, hbM_0_4, hbM_b4, z14_0_4, z14_b4, z23_0_3, z23_3_2, z32_0_2, z32_3_2, z32_2_3, z32_b2, ktM_0_2, ktM_3_2, ktM_b2, rc23_3_2, rc23_0_3, rc32_2_3, rc32_0_2, obM_0_2, obM_b2, obM_b3, obM_b4, cvtF_9_2, cvtF_5_4, cvtF_2_3, cvtF_0_2, vcvtF_9_2, vcvtF_6_3, vcvtF_3_3, vcvtF_0_3, vscF_9_2, vscF_7_2, vscF_5_2, vscF_2_3, vscF_0_2, sfuF_8_3, sfuF_b7, sfuF_3_4, sfuF_0_3, rrf_21_5, rrf_16_5, rrf_11_5, rrf_rd, rrf_ra, rrf_rb, rrf_fn, rrf_bit, rrf_rb_bit, rrf_ra_bit, rrf_rd_bit, coded, need, BitVec.extractLsb'_eq_self, Nat.reduceLeDiff, Nat.reduceAdd, Nat.reduceSub, Nat.reduceLT, elemTyOf_code, rmOf_code, fmtOf3_code, hintOf_code, fsizeOf_code, redOpOf_code, voteKindOf_code, sgnOpOf_code, cmpOpOf_code, kOpOf_code, kCondOf_code, qOpOf_code, mtypeOf_code, scopeOf_code, ordOf_code, logOpOf_code, dirOf_code, topoOf_code, aselOf_code, bselOf_code]
  rw [rrf_z15 _ _ _ _ (by decide)]
  rfl

theorem RoundTrip.kbr c ka o : Statement (.kbr c ka o) := by
  intro hw x hx
  obtain rfl := Option.some.inj hx
  refine decode_of ?_ hw
  refine (major_decodeUni (kbr_26_6 c ka o)).trans ?_
  simp only [decodeUni, kbr_b25, kbr_21_4, kbr_18_3, kbr_3_15, kbr_0_3, coded, need, BitVec.extractLsb'_eq_self, Nat.reduceLeDiff, Nat.reduceAdd, Nat.reduceSub, Nat.reduceLT, elemTyOf_code, rmOf_code, fmtOf3_code, hintOf_code, fsizeOf_code, redOpOf_code, voteKindOf_code, sgnOpOf_code, cmpOpOf_code, kOpOf_code, kCondOf_code, qOpOf_code, mtypeOf_code, scopeOf_code, ordOf_code, logOpOf_code, dirOf_code, topoOf_code, aselOf_code, bselOf_code]
  rfl

theorem RoundTrip.qlog op qd qa qb : Statement (.qlog op qd qa qb) := by
  intro hw x hx
  obtain rfl := Option.some.inj hx
  refine decode_of ?_ hw
  refine (major_decodeUni (rrf_26_6 _ _ _ _ _)).trans ?_
  simp only [decodeUni, rrf_z15, rrf_z10, vfn_7_4, vfn_3_4, vfn_0_3, ffn_6_5, ffn_4_2, ffn_1_3, ffn_b0, afn_5_6, afn_0_5, afn_mod, afn_bit, hbM_0_4, hbM_b4, z14_0_4, z14_b4, z23_0_3, z23_3_2, z32_0_2, z32_3_2, z32_2_3, z32_b2, ktM_0_2, ktM_3_2, ktM_b2, rc23_3_2, rc23_0_3, rc32_2_3, rc32_0_2, obM_0_2, obM_b2, obM_b3, obM_b4, cvtF_9_2, cvtF_5_4, cvtF_2_3, cvtF_0_2, vcvtF_9_2, vcvtF_6_3, vcvtF_3_3, vcvtF_0_3, vscF_9_2, vscF_7_2, vscF_5_2, vscF_2_3, vscF_0_2, sfuF_8_3, sfuF_b7, sfuF_3_4, sfuF_0_3, rrf_21_5, rrf_16_5, rrf_11_5, rrf_rd, rrf_ra, rrf_rb, rrf_fn, rrf_bit, rrf_rb_bit, rrf_ra_bit, rrf_rd_bit, coded, need, BitVec.extractLsb'_eq_self, Nat.reduceLeDiff, Nat.reduceAdd, Nat.reduceSub, Nat.reduceLT, elemTyOf_code, rmOf_code, fmtOf3_code, hintOf_code, fsizeOf_code, redOpOf_code, voteKindOf_code, sgnOpOf_code, cmpOpOf_code, kOpOf_code, kCondOf_code, qOpOf_code, mtypeOf_code, scopeOf_code, ordOf_code, logOpOf_code, dirOf_code, topoOf_code, aselOf_code, bselOf_code]
  rfl

theorem RoundTrip.qfrom et st qd ra : Statement (.qfrom et st qd ra) := by
  intro hw x hx
  obtain rfl := Option.some.inj hx
  refine decode_of ?_ hw
  refine (major_decodeUni (qfrom_26_6 et st qd ra)).trans ?_
  simp only [decodeUni, qfrom_24_2, qfrom_21_3, qfrom_16_5, qfrom_12_4, qfrom_7_5, qfrom_b6, qfrom_3_3, qfrom_0_3, coded, need, BitVec.extractLsb'_eq_self, Nat.reduceLeDiff, Nat.reduceAdd, Nat.reduceSub, Nat.reduceLT, elemTyOf_code, rmOf_code, fmtOf3_code, hintOf_code, fsizeOf_code, redOpOf_code, voteKindOf_code, sgnOpOf_code, cmpOpOf_code, kOpOf_code, kCondOf_code, qOpOf_code, mtypeOf_code, scopeOf_code, ordOf_code, logOpOf_code, dirOf_code, topoOf_code, aselOf_code, bselOf_code]
  rfl

theorem RoundTrip.qfromS qd ra : Statement (.qfromS qd ra) := by
  intro hw x hx
  obtain rfl := Option.some.inj hx
  refine decode_of ?_ hw
  refine (major_decodeUni (qfromS_26_6 qd ra)).trans ?_
  simp only [decodeUni, qfromS_24_2, qfromS_21_3, qfromS_16_5, qfromS_7_9, qfromS_b6, qfromS_3_3, qfromS_0_3, coded, need, BitVec.extractLsb'_eq_self, Nat.reduceLeDiff, Nat.reduceAdd, Nat.reduceSub, Nat.reduceLT, elemTyOf_code, rmOf_code, fmtOf3_code, hintOf_code, fsizeOf_code, redOpOf_code, voteKindOf_code, sgnOpOf_code, cmpOpOf_code, kOpOf_code, kCondOf_code, qOpOf_code, mtypeOf_code, scopeOf_code, ordOf_code, logOpOf_code, dirOf_code, topoOf_code, aselOf_code, bselOf_code]
  rfl

theorem RoundTrip.qto rd qa : Statement (.qto rd qa) := by
  intro hw x hx
  obtain rfl := Option.some.inj hx
  refine decode_of ?_ hw
  refine (major_decodeUni (rrf_26_6 _ _ _ _ _)).trans ?_
  simp only [decodeUni, rrf_z15, rrf_z10, vfn_7_4, vfn_3_4, vfn_0_3, ffn_6_5, ffn_4_2, ffn_1_3, ffn_b0, afn_5_6, afn_0_5, afn_mod, afn_bit, hbM_0_4, hbM_b4, z14_0_4, z14_b4, z23_0_3, z23_3_2, z32_0_2, z32_3_2, z32_2_3, z32_b2, ktM_0_2, ktM_3_2, ktM_b2, rc23_3_2, rc23_0_3, rc32_2_3, rc32_0_2, obM_0_2, obM_b2, obM_b3, obM_b4, cvtF_9_2, cvtF_5_4, cvtF_2_3, cvtF_0_2, vcvtF_9_2, vcvtF_6_3, vcvtF_3_3, vcvtF_0_3, vscF_9_2, vscF_7_2, vscF_5_2, vscF_2_3, vscF_0_2, sfuF_8_3, sfuF_b7, sfuF_3_4, sfuF_0_3, rrf_21_5, rrf_16_5, rrf_11_5, rrf_rd, rrf_ra, rrf_rb, rrf_fn, rrf_bit, rrf_rb_bit, rrf_ra_bit, rrf_rd_bit, coded, need, BitVec.extractLsb'_eq_self, Nat.reduceLeDiff, Nat.reduceAdd, Nat.reduceSub, Nat.reduceLT, elemTyOf_code, rmOf_code, fmtOf3_code, hintOf_code, fsizeOf_code, redOpOf_code, voteKindOf_code, sgnOpOf_code, cmpOpOf_code, kOpOf_code, kCondOf_code, qOpOf_code, mtypeOf_code, scopeOf_code, ordOf_code, logOpOf_code, dirOf_code, topoOf_code, aselOf_code, bselOf_code]
  rw [rrf_z15 _ _ _ _ (by decide)]
  rfl

theorem RoundTrip.fuse f : Statement (.fuse f) := by
  intro hw x hx
  obtain rfl := Option.some.inj hx
  refine decode_of ?_ hw
  unfold rrfA
  refine (major_decodeMode (rrf_26_6 _ _ _ _ _)).trans ?_
  simp only [decodeMode, rrf_z15, rrf_z10, vfn_7_4, vfn_3_4, vfn_0_3, ffn_6_5, ffn_4_2, ffn_1_3, ffn_b0, afn_5_6, afn_0_5, afn_mod, afn_bit, hbM_0_4, hbM_b4, z14_0_4, z14_b4, z23_0_3, z23_3_2, z32_0_2, z32_3_2, z32_2_3, z32_b2, ktM_0_2, ktM_3_2, ktM_b2, rc23_3_2, rc23_0_3, rc32_2_3, rc32_0_2, obM_0_2, obM_b2, obM_b3, obM_b4, cvtF_9_2, cvtF_5_4, cvtF_2_3, cvtF_0_2, vcvtF_9_2, vcvtF_6_3, vcvtF_3_3, vcvtF_0_3, vscF_9_2, vscF_7_2, vscF_5_2, vscF_2_3, vscF_0_2, sfuF_8_3, sfuF_b7, sfuF_3_4, sfuF_0_3, rrf_21_5, rrf_16_5, rrf_11_5, rrf_rd, rrf_ra, rrf_rb, rrf_fn, rrf_bit, rrf_rb_bit, rrf_ra_bit, rrf_rd_bit, coded, need, BitVec.extractLsb'_eq_self, Nat.reduceLeDiff, Nat.reduceAdd, Nat.reduceSub, Nat.reduceLT, elemTyOf_code, rmOf_code, fmtOf3_code, hintOf_code, fsizeOf_code, redOpOf_code, voteKindOf_code, sgnOpOf_code, cmpOpOf_code, kOpOf_code, kCondOf_code, qOpOf_code, mtypeOf_code, scopeOf_code, ordOf_code, logOpOf_code, dirOf_code, topoOf_code, aselOf_code, bselOf_code]
  rfl

theorem RoundTrip.split  : Statement (.split ) := by
  intro hw x hx
  obtain rfl := Option.some.inj hx
  refine decode_of ?_ hw
  unfold rrfA
  refine (major_decodeMode (rrf_26_6 _ _ _ _ _)).trans ?_
  simp only [decodeMode, rrf_z15, rrf_z10, vfn_7_4, vfn_3_4, vfn_0_3, ffn_6_5, ffn_4_2, ffn_1_3, ffn_b0, afn_5_6, afn_0_5, afn_mod, afn_bit, hbM_0_4, hbM_b4, z14_0_4, z14_b4, z23_0_3, z23_3_2, z32_0_2, z32_3_2, z32_2_3, z32_b2, ktM_0_2, ktM_3_2, ktM_b2, rc23_3_2, rc23_0_3, rc32_2_3, rc32_0_2, obM_0_2, obM_b2, obM_b3, obM_b4, cvtF_9_2, cvtF_5_4, cvtF_2_3, cvtF_0_2, vcvtF_9_2, vcvtF_6_3, vcvtF_3_3, vcvtF_0_3, vscF_9_2, vscF_7_2, vscF_5_2, vscF_2_3, vscF_0_2, sfuF_8_3, sfuF_b7, sfuF_3_4, sfuF_0_3, rrf_21_5, rrf_16_5, rrf_11_5, rrf_rd, rrf_ra, rrf_rb, rrf_fn, rrf_bit, rrf_rb_bit, rrf_ra_bit, rrf_rd_bit, coded, need, BitVec.extractLsb'_eq_self, Nat.reduceLeDiff, Nat.reduceAdd, Nat.reduceSub, Nat.reduceLT, elemTyOf_code, rmOf_code, fmtOf3_code, hintOf_code, fsizeOf_code, redOpOf_code, voteKindOf_code, sgnOpOf_code, cmpOpOf_code, kOpOf_code, kCondOf_code, qOpOf_code, mtypeOf_code, scopeOf_code, ordOf_code, logOpOf_code, dirOf_code, topoOf_code, aselOf_code, bselOf_code]
  rfl

theorem RoundTrip.rejoin  : Statement (.rejoin ) := by
  intro hw x hx
  obtain rfl := Option.some.inj hx
  refine decode_of ?_ hw
  unfold rrfA
  refine (major_decodeMode (rrf_26_6 _ _ _ _ _)).trans ?_
  simp only [decodeMode, rrf_z15, rrf_z10, vfn_7_4, vfn_3_4, vfn_0_3, ffn_6_5, ffn_4_2, ffn_1_3, ffn_b0, afn_5_6, afn_0_5, afn_mod, afn_bit, hbM_0_4, hbM_b4, z14_0_4, z14_b4, z23_0_3, z23_3_2, z32_0_2, z32_3_2, z32_2_3, z32_b2, ktM_0_2, ktM_3_2, ktM_b2, rc23_3_2, rc23_0_3, rc32_2_3, rc32_0_2, obM_0_2, obM_b2, obM_b3, obM_b4, cvtF_9_2, cvtF_5_4, cvtF_2_3, cvtF_0_2, vcvtF_9_2, vcvtF_6_3, vcvtF_3_3, vcvtF_0_3, vscF_9_2, vscF_7_2, vscF_5_2, vscF_2_3, vscF_0_2, sfuF_8_3, sfuF_b7, sfuF_3_4, sfuF_0_3, rrf_21_5, rrf_16_5, rrf_11_5, rrf_rd, rrf_ra, rrf_rb, rrf_fn, rrf_bit, rrf_rb_bit, rrf_ra_bit, rrf_rd_bit, coded, need, BitVec.extractLsb'_eq_self, Nat.reduceLeDiff, Nat.reduceAdd, Nat.reduceSub, Nat.reduceLT, elemTyOf_code, rmOf_code, fmtOf3_code, hintOf_code, fsizeOf_code, redOpOf_code, voteKindOf_code, sgnOpOf_code, cmpOpOf_code, kOpOf_code, kCondOf_code, qOpOf_code, mtypeOf_code, scopeOf_code, ordOf_code, logOpOf_code, dirOf_code, topoOf_code, aselOf_code, bselOf_code]
  rfl

theorem RoundTrip.pcfg dr wr t : Statement (.pcfg dr wr t) := by
  intro hw x hx
  obtain rfl := Option.some.inj hx
  refine decode_of ?_ hw
  unfold rrfA
  refine (major_decodeMode (rrf_26_6 _ _ _ _ _)).trans ?_
  simp only [decodeMode, rrf_z15, rrf_z10, vfn_7_4, vfn_3_4, vfn_0_3, ffn_6_5, ffn_4_2, ffn_1_3, ffn_b0, afn_5_6, afn_0_5, afn_mod, afn_bit, hbM_0_4, hbM_b4, z14_0_4, z14_b4, z23_0_3, z23_3_2, z32_0_2, z32_3_2, z32_2_3, z32_b2, ktM_0_2, ktM_3_2, ktM_b2, rc23_3_2, rc23_0_3, rc32_2_3, rc32_0_2, obM_0_2, obM_b2, obM_b3, obM_b4, cvtF_9_2, cvtF_5_4, cvtF_2_3, cvtF_0_2, vcvtF_9_2, vcvtF_6_3, vcvtF_3_3, vcvtF_0_3, vscF_9_2, vscF_7_2, vscF_5_2, vscF_2_3, vscF_0_2, sfuF_8_3, sfuF_b7, sfuF_3_4, sfuF_0_3, rrf_21_5, rrf_16_5, rrf_11_5, rrf_rd, rrf_ra, rrf_rb, rrf_fn, rrf_bit, rrf_rb_bit, rrf_ra_bit, rrf_rd_bit, coded, need, BitVec.extractLsb'_eq_self, Nat.reduceLeDiff, Nat.reduceAdd, Nat.reduceSub, Nat.reduceLT, elemTyOf_code, rmOf_code, fmtOf3_code, hintOf_code, fsizeOf_code, redOpOf_code, voteKindOf_code, sgnOpOf_code, cmpOpOf_code, kOpOf_code, kCondOf_code, qOpOf_code, mtypeOf_code, scopeOf_code, ordOf_code, logOpOf_code, dirOf_code, topoOf_code, aselOf_code, bselOf_code]
  cases dr <;> cases wr <;> cases t <;> rfl

theorem RoundTrip.pqry rd dr : Statement (.pqry rd dr) := by
  intro hw x hx
  obtain rfl := Option.some.inj hx
  refine decode_of ?_ hw
  unfold rrfA
  refine (major_decodeMode (rrf_26_6 _ _ _ _ _)).trans ?_
  simp only [decodeMode, rrf_z15, rrf_z10, vfn_7_4, vfn_3_4, vfn_0_3, ffn_6_5, ffn_4_2, ffn_1_3, ffn_b0, afn_5_6, afn_0_5, afn_mod, afn_bit, hbM_0_4, hbM_b4, z14_0_4, z14_b4, z23_0_3, z23_3_2, z32_0_2, z32_3_2, z32_2_3, z32_b2, ktM_0_2, ktM_3_2, ktM_b2, rc23_3_2, rc23_0_3, rc32_2_3, rc32_0_2, obM_0_2, obM_b2, obM_b3, obM_b4, cvtF_9_2, cvtF_5_4, cvtF_2_3, cvtF_0_2, vcvtF_9_2, vcvtF_6_3, vcvtF_3_3, vcvtF_0_3, vscF_9_2, vscF_7_2, vscF_5_2, vscF_2_3, vscF_0_2, sfuF_8_3, sfuF_b7, sfuF_3_4, sfuF_0_3, rrf_21_5, rrf_16_5, rrf_11_5, rrf_rd, rrf_ra, rrf_rb, rrf_fn, rrf_bit, rrf_rb_bit, rrf_ra_bit, rrf_rd_bit, coded, need, BitVec.extractLsb'_eq_self, Nat.reduceLeDiff, Nat.reduceAdd, Nat.reduceSub, Nat.reduceLT, elemTyOf_code, rmOf_code, fmtOf3_code, hintOf_code, fsizeOf_code, redOpOf_code, voteKindOf_code, sgnOpOf_code, cmpOpOf_code, kOpOf_code, kCondOf_code, qOpOf_code, mtypeOf_code, scopeOf_code, ordOf_code, logOpOf_code, dirOf_code, topoOf_code, aselOf_code, bselOf_code]
  rfl

theorem RoundTrip.pwaite m : Statement (.pwaite m) := by
  intro hw x hx
  obtain rfl := Option.some.inj hx
  refine decode_of ?_ hw
  unfold rrfA
  refine (major_decodeMode (rrf_26_6 _ _ _ _ _)).trans ?_
  simp only [decodeMode, rrf_z15, rrf_z10, vfn_7_4, vfn_3_4, vfn_0_3, ffn_6_5, ffn_4_2, ffn_1_3, ffn_b0, afn_5_6, afn_0_5, afn_mod, afn_bit, hbM_0_4, hbM_b4, z14_0_4, z14_b4, z23_0_3, z23_3_2, z32_0_2, z32_3_2, z32_2_3, z32_b2, ktM_0_2, ktM_3_2, ktM_b2, rc23_3_2, rc23_0_3, rc32_2_3, rc32_0_2, obM_0_2, obM_b2, obM_b3, obM_b4, cvtF_9_2, cvtF_5_4, cvtF_2_3, cvtF_0_2, vcvtF_9_2, vcvtF_6_3, vcvtF_3_3, vcvtF_0_3, vscF_9_2, vscF_7_2, vscF_5_2, vscF_2_3, vscF_0_2, sfuF_8_3, sfuF_b7, sfuF_3_4, sfuF_0_3, rrf_21_5, rrf_16_5, rrf_11_5, rrf_rd, rrf_ra, rrf_rb, rrf_fn, rrf_bit, rrf_rb_bit, rrf_ra_bit, rrf_rd_bit, coded, need, BitVec.extractLsb'_eq_self, Nat.reduceLeDiff, Nat.reduceAdd, Nat.reduceSub, Nat.reduceLT, elemTyOf_code, rmOf_code, fmtOf3_code, hintOf_code, fsizeOf_code, redOpOf_code, voteKindOf_code, sgnOpOf_code, cmpOpOf_code, kOpOf_code, kCondOf_code, qOpOf_code, mtypeOf_code, scopeOf_code, ordOf_code, logOpOf_code, dirOf_code, topoOf_code, aselOf_code, bselOf_code]
  rfl

theorem RoundTrip.mma t sc z mrow acc a b : Statement (.mma t sc z mrow acc a b) := by
  intro hw x hx
  obtain rfl := Option.some.inj hx
  refine decode_of ?_ hw
  unfold rrfA
  refine (major_decodeMma (rrf_26_6 _ _ _ _ _)).trans ?_
  simp only [decodeMma, rrf_z15, rrf_z10, vfn_7_4, vfn_3_4, vfn_0_3, ffn_6_5, ffn_4_2, ffn_1_3, ffn_b0, afn_5_6, afn_0_5, afn_mod, afn_bit, hbM_0_4, hbM_b4, z14_0_4, z14_b4, z23_0_3, z23_3_2, z32_0_2, z32_3_2, z32_2_3, z32_b2, ktM_0_2, ktM_3_2, ktM_b2, rc23_3_2, rc23_0_3, rc32_2_3, rc32_0_2, obM_0_2, obM_b2, obM_b3, obM_b4, cvtF_9_2, cvtF_5_4, cvtF_2_3, cvtF_0_2, vcvtF_9_2, vcvtF_6_3, vcvtF_3_3, vcvtF_0_3, vscF_9_2, vscF_7_2, vscF_5_2, vscF_2_3, vscF_0_2, sfuF_8_3, sfuF_b7, sfuF_3_4, sfuF_0_3, rrf_21_5, rrf_16_5, rrf_11_5, rrf_rd, rrf_ra, rrf_rb, rrf_fn, rrf_bit, rrf_rb_bit, rrf_ra_bit, rrf_rd_bit, coded, need, BitVec.extractLsb'_eq_self, Nat.reduceLeDiff, Nat.reduceAdd, Nat.reduceSub, Nat.reduceLT, elemTyOf_code, rmOf_code, fmtOf3_code, hintOf_code, fsizeOf_code, redOpOf_code, voteKindOf_code, sgnOpOf_code, cmpOpOf_code, kOpOf_code, kCondOf_code, qOpOf_code, mtypeOf_code, scopeOf_code, ordOf_code, logOpOf_code, dirOf_code, topoOf_code, aselOf_code, bselOf_code]
  cases t <;> cases sc <;> cases z <;> rfl

theorem RoundTrip.mmas sc z mrow acc slot t2 b : Statement (.mmas sc z mrow acc slot t2 b) := by
  intro hw x hx
  obtain rfl := Option.some.inj hx
  refine decode_of ?_ hw
  unfold rrfA
  refine (major_decodeMma (rrf_26_6 _ _ _ _ _)).trans ?_
  simp only [decodeMma, rrf_z15, rrf_z10, vfn_7_4, vfn_3_4, vfn_0_3, ffn_6_5, ffn_4_2, ffn_1_3, ffn_b0, afn_5_6, afn_0_5, afn_mod, afn_bit, hbM_0_4, hbM_b4, z14_0_4, z14_b4, z23_0_3, z23_3_2, z32_0_2, z32_3_2, z32_2_3, z32_b2, ktM_0_2, ktM_3_2, ktM_b2, rc23_3_2, rc23_0_3, rc32_2_3, rc32_0_2, obM_0_2, obM_b2, obM_b3, obM_b4, cvtF_9_2, cvtF_5_4, cvtF_2_3, cvtF_0_2, vcvtF_9_2, vcvtF_6_3, vcvtF_3_3, vcvtF_0_3, vscF_9_2, vscF_7_2, vscF_5_2, vscF_2_3, vscF_0_2, sfuF_8_3, sfuF_b7, sfuF_3_4, sfuF_0_3, rrf_21_5, rrf_16_5, rrf_11_5, rrf_rd, rrf_ra, rrf_rb, rrf_fn, rrf_bit, rrf_rb_bit, rrf_ra_bit, rrf_rd_bit, coded, need, BitVec.extractLsb'_eq_self, Nat.reduceLeDiff, Nat.reduceAdd, Nat.reduceSub, Nat.reduceLT, elemTyOf_code, rmOf_code, fmtOf3_code, hintOf_code, fsizeOf_code, redOpOf_code, voteKindOf_code, sgnOpOf_code, cmpOpOf_code, kOpOf_code, kCondOf_code, qOpOf_code, mtypeOf_code, scopeOf_code, ordOf_code, logOpOf_code, dirOf_code, topoOf_code, aselOf_code, bselOf_code]
  cases sc <;> cases z <;> cases slot <;> cases t2 <;> rfl

theorem RoundTrip.mres sc mrow acc slot b : Statement (.mres sc mrow acc slot b) := by
  intro hw x hx
  obtain rfl := Option.some.inj hx
  refine decode_of ?_ hw
  unfold rrfA
  refine (major_decodeMma (rrf_26_6 _ _ _ _ _)).trans ?_
  simp only [decodeMma, rrf_z15, rrf_z10, vfn_7_4, vfn_3_4, vfn_0_3, ffn_6_5, ffn_4_2, ffn_1_3, ffn_b0, afn_5_6, afn_0_5, afn_mod, afn_bit, hbM_0_4, hbM_b4, z14_0_4, z14_b4, z23_0_3, z23_3_2, z32_0_2, z32_3_2, z32_2_3, z32_b2, ktM_0_2, ktM_3_2, ktM_b2, rc23_3_2, rc23_0_3, rc32_2_3, rc32_0_2, obM_0_2, obM_b2, obM_b3, obM_b4, cvtF_9_2, cvtF_5_4, cvtF_2_3, cvtF_0_2, vcvtF_9_2, vcvtF_6_3, vcvtF_3_3, vcvtF_0_3, vscF_9_2, vscF_7_2, vscF_5_2, vscF_2_3, vscF_0_2, sfuF_8_3, sfuF_b7, sfuF_3_4, sfuF_0_3, rrf_21_5, rrf_16_5, rrf_11_5, rrf_rd, rrf_ra, rrf_rb, rrf_fn, rrf_bit, rrf_rb_bit, rrf_ra_bit, rrf_rd_bit, coded, need, BitVec.extractLsb'_eq_self, Nat.reduceLeDiff, Nat.reduceAdd, Nat.reduceSub, Nat.reduceLT, elemTyOf_code, rmOf_code, fmtOf3_code, hintOf_code, fsizeOf_code, redOpOf_code, voteKindOf_code, sgnOpOf_code, cmpOpOf_code, kOpOf_code, kCondOf_code, qOpOf_code, mtypeOf_code, scopeOf_code, ordOf_code, logOpOf_code, dirOf_code, topoOf_code, aselOf_code, bselOf_code]
  cases sc <;> cases slot <;> rfl

theorem RoundTrip.mplan t l slot k rb : Statement (.mplan t l slot k rb) := by
  intro hw x hx
  obtain rfl := Option.some.inj hx
  refine decode_of ?_ hw
  unfold rrfA
  refine (major_decodeMma (rrf_26_6 _ _ _ _ _)).trans ?_
  simp only [decodeMma, rrf_z15, rrf_z10, vfn_7_4, vfn_3_4, vfn_0_3, ffn_6_5, ffn_4_2, ffn_1_3, ffn_b0, afn_5_6, afn_0_5, afn_mod, afn_bit, hbM_0_4, hbM_b4, z14_0_4, z14_b4, z23_0_3, z23_3_2, z32_0_2, z32_3_2, z32_2_3, z32_b2, ktM_0_2, ktM_3_2, ktM_b2, rc23_3_2, rc23_0_3, rc32_2_3, rc32_0_2, obM_0_2, obM_b2, obM_b3, obM_b4, cvtF_9_2, cvtF_5_4, cvtF_2_3, cvtF_0_2, vcvtF_9_2, vcvtF_6_3, vcvtF_3_3, vcvtF_0_3, vscF_9_2, vscF_7_2, vscF_5_2, vscF_2_3, vscF_0_2, sfuF_8_3, sfuF_b7, sfuF_3_4, sfuF_0_3, rrf_21_5, rrf_16_5, rrf_11_5, rrf_rd, rrf_ra, rrf_rb, rrf_fn, rrf_bit, rrf_rb_bit, rrf_ra_bit, rrf_rd_bit, coded, need, BitVec.extractLsb'_eq_self, Nat.reduceLeDiff, Nat.reduceAdd, Nat.reduceSub, Nat.reduceLT, elemTyOf_code, rmOf_code, fmtOf3_code, hintOf_code, fsizeOf_code, redOpOf_code, voteKindOf_code, sgnOpOf_code, cmpOpOf_code, kOpOf_code, kCondOf_code, qOpOf_code, mtypeOf_code, scopeOf_code, ordOf_code, logOpOf_code, dirOf_code, topoOf_code, aselOf_code, bselOf_code]
  cases t <;> cases l <;> cases slot <;> rfl

theorem RoundTrip.mplanS t l slot ra rb : Statement (.mplanS t l slot ra rb) := by
  intro hw x hx
  obtain rfl := Option.some.inj hx
  refine decode_of ?_ hw
  unfold rrfA
  refine (major_decodeMma (rrf_26_6 _ _ _ _ _)).trans ?_
  simp only [decodeMma, rrf_z15, rrf_z10, vfn_7_4, vfn_3_4, vfn_0_3, ffn_6_5, ffn_4_2, ffn_1_3, ffn_b0, afn_5_6, afn_0_5, afn_mod, afn_bit, hbM_0_4, hbM_b4, z14_0_4, z14_b4, z23_0_3, z23_3_2, z32_0_2, z32_3_2, z32_2_3, z32_b2, ktM_0_2, ktM_3_2, ktM_b2, rc23_3_2, rc23_0_3, rc32_2_3, rc32_0_2, obM_0_2, obM_b2, obM_b3, obM_b4, cvtF_9_2, cvtF_5_4, cvtF_2_3, cvtF_0_2, vcvtF_9_2, vcvtF_6_3, vcvtF_3_3, vcvtF_0_3, vscF_9_2, vscF_7_2, vscF_5_2, vscF_2_3, vscF_0_2, sfuF_8_3, sfuF_b7, sfuF_3_4, sfuF_0_3, rrf_21_5, rrf_16_5, rrf_11_5, rrf_rd, rrf_ra, rrf_rb, rrf_fn, rrf_bit, rrf_rb_bit, rrf_ra_bit, rrf_rd_bit, coded, need, BitVec.extractLsb'_eq_self, Nat.reduceLeDiff, Nat.reduceAdd, Nat.reduceSub, Nat.reduceLT, elemTyOf_code, rmOf_code, fmtOf3_code, hintOf_code, fsizeOf_code, redOpOf_code, voteKindOf_code, sgnOpOf_code, cmpOpOf_code, kOpOf_code, kCondOf_code, qOpOf_code, mtypeOf_code, scopeOf_code, ordOf_code, logOpOf_code, dirOf_code, topoOf_code, aselOf_code, bselOf_code]
  cases t <;> cases l <;> cases slot <;> rfl

theorem RoundTrip.mzacc mrow acc : Statement (.mzacc mrow acc) := by
  intro hw x hx
  obtain rfl := Option.some.inj hx
  refine decode_of ?_ hw
  unfold rrfA
  refine (major_decodeMat (rrf_26_6 _ _ _ _ _)).trans ?_
  simp only [decodeMat, rrf_z15, rrf_z10, vfn_7_4, vfn_3_4, vfn_0_3, ffn_6_5, ffn_4_2, ffn_1_3, ffn_b0, afn_5_6, afn_0_5, afn_mod, afn_bit, hbM_0_4, hbM_b4, z14_0_4, z14_b4, z23_0_3, z23_3_2, z32_0_2, z32_3_2, z32_2_3, z32_b2, ktM_0_2, ktM_3_2, ktM_b2, rc23_3_2, rc23_0_3, rc32_2_3, rc32_0_2, obM_0_2, obM_b2, obM_b3, obM_b4, cvtF_9_2, cvtF_5_4, cvtF_2_3, cvtF_0_2, vcvtF_9_2, vcvtF_6_3, vcvtF_3_3, vcvtF_0_3, vscF_9_2, vscF_7_2, vscF_5_2, vscF_2_3, vscF_0_2, sfuF_8_3, sfuF_b7, sfuF_3_4, sfuF_0_3, rrf_21_5, rrf_16_5, rrf_11_5, rrf_rd, rrf_ra, rrf_rb, rrf_fn, rrf_bit, rrf_rb_bit, rrf_ra_bit, rrf_rd_bit, coded, need, BitVec.extractLsb'_eq_self, Nat.reduceLeDiff, Nat.reduceAdd, Nat.reduceSub, Nat.reduceLT, elemTyOf_code, rmOf_code, fmtOf3_code, hintOf_code, fsizeOf_code, redOpOf_code, voteKindOf_code, sgnOpOf_code, cmpOpOf_code, kOpOf_code, kCondOf_code, qOpOf_code, mtypeOf_code, scopeOf_code, ordOf_code, logOpOf_code, dirOf_code, topoOf_code, aselOf_code, bselOf_code]
  rfl

theorem RoundTrip.mldacc mrow acc ra rb : Statement (.mldacc mrow acc ra rb) := by
  intro hw x hx
  obtain rfl := Option.some.inj hx
  refine decode_of ?_ hw
  unfold rrfA
  refine (major_decodeMat (rrf_26_6 _ _ _ _ _)).trans ?_
  simp only [decodeMat, rrf_z15, rrf_z10, vfn_7_4, vfn_3_4, vfn_0_3, ffn_6_5, ffn_4_2, ffn_1_3, ffn_b0, afn_5_6, afn_0_5, afn_mod, afn_bit, hbM_0_4, hbM_b4, z14_0_4, z14_b4, z23_0_3, z23_3_2, z32_0_2, z32_3_2, z32_2_3, z32_b2, ktM_0_2, ktM_3_2, ktM_b2, rc23_3_2, rc23_0_3, rc32_2_3, rc32_0_2, obM_0_2, obM_b2, obM_b3, obM_b4, cvtF_9_2, cvtF_5_4, cvtF_2_3, cvtF_0_2, vcvtF_9_2, vcvtF_6_3, vcvtF_3_3, vcvtF_0_3, vscF_9_2, vscF_7_2, vscF_5_2, vscF_2_3, vscF_0_2, sfuF_8_3, sfuF_b7, sfuF_3_4, sfuF_0_3, rrf_21_5, rrf_16_5, rrf_11_5, rrf_rd, rrf_ra, rrf_rb, rrf_fn, rrf_bit, rrf_rb_bit, rrf_ra_bit, rrf_rd_bit, coded, need, BitVec.extractLsb'_eq_self, Nat.reduceLeDiff, Nat.reduceAdd, Nat.reduceSub, Nat.reduceLT, elemTyOf_code, rmOf_code, fmtOf3_code, hintOf_code, fsizeOf_code, redOpOf_code, voteKindOf_code, sgnOpOf_code, cmpOpOf_code, kOpOf_code, kCondOf_code, qOpOf_code, mtypeOf_code, scopeOf_code, ordOf_code, logOpOf_code, dirOf_code, topoOf_code, aselOf_code, bselOf_code]
  rfl

theorem RoundTrip.mstacc t rm mrow acc ra rb : Statement (.mstacc t rm mrow acc ra rb) := by
  intro hw x hx
  obtain rfl := Option.some.inj hx
  refine decode_of ?_ hw
  unfold rrfA
  refine (major_decodeMat (rrf_26_6 _ _ _ _ _)).trans ?_
  simp only [decodeMat, rrf_z15, rrf_z10, vfn_7_4, vfn_3_4, vfn_0_3, ffn_6_5, ffn_4_2, ffn_1_3, ffn_b0, afn_5_6, afn_0_5, afn_mod, afn_bit, hbM_0_4, hbM_b4, z14_0_4, z14_b4, z23_0_3, z23_3_2, z32_0_2, z32_3_2, z32_2_3, z32_b2, ktM_0_2, ktM_3_2, ktM_b2, rc23_3_2, rc23_0_3, rc32_2_3, rc32_0_2, obM_0_2, obM_b2, obM_b3, obM_b4, cvtF_9_2, cvtF_5_4, cvtF_2_3, cvtF_0_2, vcvtF_9_2, vcvtF_6_3, vcvtF_3_3, vcvtF_0_3, vscF_9_2, vscF_7_2, vscF_5_2, vscF_2_3, vscF_0_2, sfuF_8_3, sfuF_b7, sfuF_3_4, sfuF_0_3, rrf_21_5, rrf_16_5, rrf_11_5, rrf_rd, rrf_ra, rrf_rb, rrf_fn, rrf_bit, rrf_rb_bit, rrf_ra_bit, rrf_rd_bit, coded, need, BitVec.extractLsb'_eq_self, Nat.reduceLeDiff, Nat.reduceAdd, Nat.reduceSub, Nat.reduceLT, elemTyOf_code, rmOf_code, fmtOf3_code, hintOf_code, fsizeOf_code, redOpOf_code, voteKindOf_code, sgnOpOf_code, cmpOpOf_code, kOpOf_code, kCondOf_code, qOpOf_code, mtypeOf_code, scopeOf_code, ordOf_code, logOpOf_code, dirOf_code, topoOf_code, aselOf_code, bselOf_code]
  cases t <;> cases rm <;> first | rfl | exact Bool.noConfusion hw

theorem RoundTrip.mldob k n p all ra : Statement (.mldob k n p all ra) := by
  intro hw x hx
  obtain rfl := Option.some.inj hx
  refine decode_of ?_ hw
  unfold rrfA
  refine (major_decodeMat (rrf_26_6 _ _ _ _ _)).trans ?_
  simp only [decodeMat, rrf_z15, rrf_z10, vfn_7_4, vfn_3_4, vfn_0_3, ffn_6_5, ffn_4_2, ffn_1_3, ffn_b0, afn_5_6, afn_0_5, afn_mod, afn_bit, hbM_0_4, hbM_b4, z14_0_4, z14_b4, z23_0_3, z23_3_2, z32_0_2, z32_3_2, z32_2_3, z32_b2, ktM_0_2, ktM_3_2, ktM_b2, rc23_3_2, rc23_0_3, rc32_2_3, rc32_0_2, obM_0_2, obM_b2, obM_b3, obM_b4, cvtF_9_2, cvtF_5_4, cvtF_2_3, cvtF_0_2, vcvtF_9_2, vcvtF_6_3, vcvtF_3_3, vcvtF_0_3, vscF_9_2, vscF_7_2, vscF_5_2, vscF_2_3, vscF_0_2, sfuF_8_3, sfuF_b7, sfuF_3_4, sfuF_0_3, rrf_21_5, rrf_16_5, rrf_11_5, rrf_rd, rrf_ra, rrf_rb, rrf_fn, rrf_bit, rrf_rb_bit, rrf_ra_bit, rrf_rd_bit, coded, need, BitVec.extractLsb'_eq_self, Nat.reduceLeDiff, Nat.reduceAdd, Nat.reduceSub, Nat.reduceLT, elemTyOf_code, rmOf_code, fmtOf3_code, hintOf_code, fsizeOf_code, redOpOf_code, voteKindOf_code, sgnOpOf_code, cmpOpOf_code, kOpOf_code, kCondOf_code, qOpOf_code, mtypeOf_code, scopeOf_code, ordOf_code, logOpOf_code, dirOf_code, topoOf_code, aselOf_code, bselOf_code]
  cases all <;> rfl

theorem RoundTrip.mstat k slot rd : Statement (.mstat k slot rd) := by
  intro hw x hx
  obtain rfl := Option.some.inj hx
  refine decode_of ?_ hw
  unfold rrfA
  refine (major_decodeMat (rrf_26_6 _ _ _ _ _)).trans ?_
  simp only [decodeMat, rrf_z15, rrf_z10, vfn_7_4, vfn_3_4, vfn_0_3, ffn_6_5, ffn_4_2, ffn_1_3, ffn_b0, afn_5_6, afn_0_5, afn_mod, afn_bit, hbM_0_4, hbM_b4, z14_0_4, z14_b4, z23_0_3, z23_3_2, z32_0_2, z32_3_2, z32_2_3, z32_b2, ktM_0_2, ktM_3_2, ktM_b2, rc23_3_2, rc23_0_3, rc32_2_3, rc32_0_2, obM_0_2, obM_b2, obM_b3, obM_b4, cvtF_9_2, cvtF_5_4, cvtF_2_3, cvtF_0_2, vcvtF_9_2, vcvtF_6_3, vcvtF_3_3, vcvtF_0_3, vscF_9_2, vscF_7_2, vscF_5_2, vscF_2_3, vscF_0_2, sfuF_8_3, sfuF_b7, sfuF_3_4, sfuF_0_3, rrf_21_5, rrf_16_5, rrf_11_5, rrf_rd, rrf_ra, rrf_rb, rrf_fn, rrf_bit, rrf_rb_bit, rrf_ra_bit, rrf_rd_bit, coded, need, BitVec.extractLsb'_eq_self, Nat.reduceLeDiff, Nat.reduceAdd, Nat.reduceSub, Nat.reduceLT, elemTyOf_code, rmOf_code, fmtOf3_code, hintOf_code, fsizeOf_code, redOpOf_code, voteKindOf_code, sgnOpOf_code, cmpOpOf_code, kOpOf_code, kCondOf_code, qOpOf_code, mtypeOf_code, scopeOf_code, ordOf_code, logOpOf_code, dirOf_code, topoOf_code, aselOf_code, bselOf_code]
  cases k <;> cases slot <;> rfl

theorem RoundTrip.mscl k ra : Statement (.mscl k ra) := by
  intro hw x hx
  obtain rfl := Option.some.inj hx
  refine decode_of ?_ hw
  unfold rrfA
  refine (major_decodeMat (rrf_26_6 _ _ _ _ _)).trans ?_
  simp only [decodeMat, rrf_z15, rrf_z10, vfn_7_4, vfn_3_4, vfn_0_3, ffn_6_5, ffn_4_2, ffn_1_3, ffn_b0, afn_5_6, afn_0_5, afn_mod, afn_bit, hbM_0_4, hbM_b4, z14_0_4, z14_b4, z23_0_3, z23_3_2, z32_0_2, z32_3_2, z32_2_3, z32_b2, ktM_0_2, ktM_3_2, ktM_b2, rc23_3_2, rc23_0_3, rc32_2_3, rc32_0_2, obM_0_2, obM_b2, obM_b3, obM_b4, cvtF_9_2, cvtF_5_4, cvtF_2_3, cvtF_0_2, vcvtF_9_2, vcvtF_6_3, vcvtF_3_3, vcvtF_0_3, vscF_9_2, vscF_7_2, vscF_5_2, vscF_2_3, vscF_0_2, sfuF_8_3, sfuF_b7, sfuF_3_4, sfuF_0_3, rrf_21_5, rrf_16_5, rrf_11_5, rrf_rd, rrf_ra, rrf_rb, rrf_fn, rrf_bit, rrf_rb_bit, rrf_ra_bit, rrf_rd_bit, coded, need, BitVec.extractLsb'_eq_self, Nat.reduceLeDiff, Nat.reduceAdd, Nat.reduceSub, Nat.reduceLT, elemTyOf_code, rmOf_code, fmtOf3_code, hintOf_code, fsizeOf_code, redOpOf_code, voteKindOf_code, sgnOpOf_code, cmpOpOf_code, kOpOf_code, kCondOf_code, qOpOf_code, mtypeOf_code, scopeOf_code, ordOf_code, logOpOf_code, dirOf_code, topoOf_code, aselOf_code, bselOf_code]
  cases k <;> rfl

theorem RoundTrip.ktclaim kt ra rb : Statement (.ktclaim kt ra rb) := by
  intro hw x hx
  obtain rfl := Option.some.inj hx
  refine decode_of ?_ hw
  unfold rrfA
  refine (major_decodeKey (rrf_26_6 _ _ _ _ _)).trans ?_
  simp only [decodeKey, rrf_z15, rrf_z10, vfn_7_4, vfn_3_4, vfn_0_3, ffn_6_5, ffn_4_2, ffn_1_3, ffn_b0, afn_5_6, afn_0_5, afn_mod, afn_bit, hbM_0_4, hbM_b4, z14_0_4, z14_b4, z23_0_3, z23_3_2, z32_0_2, z32_3_2, z32_2_3, z32_b2, ktM_0_2, ktM_3_2, ktM_b2, rc23_3_2, rc23_0_3, rc32_2_3, rc32_0_2, obM_0_2, obM_b2, obM_b3, obM_b4, cvtF_9_2, cvtF_5_4, cvtF_2_3, cvtF_0_2, vcvtF_9_2, vcvtF_6_3, vcvtF_3_3, vcvtF_0_3, vscF_9_2, vscF_7_2, vscF_5_2, vscF_2_3, vscF_0_2, sfuF_8_3, sfuF_b7, sfuF_3_4, sfuF_0_3, rrf_21_5, rrf_16_5, rrf_11_5, rrf_rd, rrf_ra, rrf_rb, rrf_fn, rrf_bit, rrf_rb_bit, rrf_ra_bit, rrf_rd_bit, coded, need, BitVec.extractLsb'_eq_self, Nat.reduceLeDiff, Nat.reduceAdd, Nat.reduceSub, Nat.reduceLT, elemTyOf_code, rmOf_code, fmtOf3_code, hintOf_code, fsizeOf_code, redOpOf_code, voteKindOf_code, sgnOpOf_code, cmpOpOf_code, kOpOf_code, kCondOf_code, qOpOf_code, mtypeOf_code, scopeOf_code, ordOf_code, logOpOf_code, dirOf_code, topoOf_code, aselOf_code, bselOf_code]
  rfl

theorem RoundTrip.ktfree kt : Statement (.ktfree kt) := by
  intro hw x hx
  obtain rfl := Option.some.inj hx
  refine decode_of ?_ hw
  unfold rrfA
  refine (major_decodeKey (rrf_26_6 _ _ _ _ _)).trans ?_
  simp only [decodeKey, rrf_z15, rrf_z10, vfn_7_4, vfn_3_4, vfn_0_3, ffn_6_5, ffn_4_2, ffn_1_3, ffn_b0, afn_5_6, afn_0_5, afn_mod, afn_bit, hbM_0_4, hbM_b4, z14_0_4, z14_b4, z23_0_3, z23_3_2, z32_0_2, z32_3_2, z32_2_3, z32_b2, ktM_0_2, ktM_3_2, ktM_b2, rc23_3_2, rc23_0_3, rc32_2_3, rc32_0_2, obM_0_2, obM_b2, obM_b3, obM_b4, cvtF_9_2, cvtF_5_4, cvtF_2_3, cvtF_0_2, vcvtF_9_2, vcvtF_6_3, vcvtF_3_3, vcvtF_0_3, vscF_9_2, vscF_7_2, vscF_5_2, vscF_2_3, vscF_0_2, sfuF_8_3, sfuF_b7, sfuF_3_4, sfuF_0_3, rrf_21_5, rrf_16_5, rrf_11_5, rrf_rd, rrf_ra, rrf_rb, rrf_fn, rrf_bit, rrf_rb_bit, rrf_ra_bit, rrf_rd_bit, coded, need, BitVec.extractLsb'_eq_self, Nat.reduceLeDiff, Nat.reduceAdd, Nat.reduceSub, Nat.reduceLT, elemTyOf_code, rmOf_code, fmtOf3_code, hintOf_code, fsizeOf_code, redOpOf_code, voteKindOf_code, sgnOpOf_code, cmpOpOf_code, kOpOf_code, kCondOf_code, qOpOf_code, mtypeOf_code, scopeOf_code, ordOf_code, logOpOf_code, dirOf_code, topoOf_code, aselOf_code, bselOf_code]
  rfl

theorem RoundTrip.ktins kt rd ra rb : Statement (.ktins kt rd ra rb) := by
  intro hw x hx
  obtain rfl := Option.some.inj hx
  refine decode_of ?_ hw
  unfold rrfA
  refine (major_decodeKey (rrf_26_6 _ _ _ _ _)).trans ?_
  simp only [decodeKey, rrf_z15, rrf_z10, vfn_7_4, vfn_3_4, vfn_0_3, ffn_6_5, ffn_4_2, ffn_1_3, ffn_b0, afn_5_6, afn_0_5, afn_mod, afn_bit, hbM_0_4, hbM_b4, z14_0_4, z14_b4, z23_0_3, z23_3_2, z32_0_2, z32_3_2, z32_2_3, z32_b2, ktM_0_2, ktM_3_2, ktM_b2, rc23_3_2, rc23_0_3, rc32_2_3, rc32_0_2, obM_0_2, obM_b2, obM_b3, obM_b4, cvtF_9_2, cvtF_5_4, cvtF_2_3, cvtF_0_2, vcvtF_9_2, vcvtF_6_3, vcvtF_3_3, vcvtF_0_3, vscF_9_2, vscF_7_2, vscF_5_2, vscF_2_3, vscF_0_2, sfuF_8_3, sfuF_b7, sfuF_3_4, sfuF_0_3, rrf_21_5, rrf_16_5, rrf_11_5, rrf_rd, rrf_ra, rrf_rb, rrf_fn, rrf_bit, rrf_rb_bit, rrf_ra_bit, rrf_rd_bit, coded, need, BitVec.extractLsb'_eq_self, Nat.reduceLeDiff, Nat.reduceAdd, Nat.reduceSub, Nat.reduceLT, elemTyOf_code, rmOf_code, fmtOf3_code, hintOf_code, fsizeOf_code, redOpOf_code, voteKindOf_code, sgnOpOf_code, cmpOpOf_code, kOpOf_code, kCondOf_code, qOpOf_code, mtypeOf_code, scopeOf_code, ordOf_code, logOpOf_code, dirOf_code, topoOf_code, aselOf_code, bselOf_code]
  rfl

theorem RoundTrip.ktprb kt rd ra : Statement (.ktprb kt rd ra) := by
  intro hw x hx
  obtain rfl := Option.some.inj hx
  refine decode_of ?_ hw
  unfold rrfA
  refine (major_decodeKey (rrf_26_6 _ _ _ _ _)).trans ?_
  simp only [decodeKey, rrf_z15, rrf_z10, vfn_7_4, vfn_3_4, vfn_0_3, ffn_6_5, ffn_4_2, ffn_1_3, ffn_b0, afn_5_6, afn_0_5, afn_mod, afn_bit, hbM_0_4, hbM_b4, z14_0_4, z14_b4, z23_0_3, z23_3_2, z32_0_2, z32_3_2, z32_2_3, z32_b2, ktM_0_2, ktM_3_2, ktM_b2, rc23_3_2, rc23_0_3, rc32_2_3, rc32_0_2, obM_0_2, obM_b2, obM_b3, obM_b4, cvtF_9_2, cvtF_5_4, cvtF_2_3, cvtF_0_2, vcvtF_9_2, vcvtF_6_3, vcvtF_3_3, vcvtF_0_3, vscF_9_2, vscF_7_2, vscF_5_2, vscF_2_3, vscF_0_2, sfuF_8_3, sfuF_b7, sfuF_3_4, sfuF_0_3, rrf_21_5, rrf_16_5, rrf_11_5, rrf_rd, rrf_ra, rrf_rb, rrf_fn, rrf_bit, rrf_rb_bit, rrf_ra_bit, rrf_rd_bit, coded, need, BitVec.extractLsb'_eq_self, Nat.reduceLeDiff, Nat.reduceAdd, Nat.reduceSub, Nat.reduceLT, elemTyOf_code, rmOf_code, fmtOf3_code, hintOf_code, fsizeOf_code, redOpOf_code, voteKindOf_code, sgnOpOf_code, cmpOpOf_code, kOpOf_code, kCondOf_code, qOpOf_code, mtypeOf_code, scopeOf_code, ordOf_code, logOpOf_code, dirOf_code, topoOf_code, aselOf_code, bselOf_code]
  rfl

theorem RoundTrip.ktdel kt rd ra : Statement (.ktdel kt rd ra) := by
  intro hw x hx
  obtain rfl := Option.some.inj hx
  refine decode_of ?_ hw
  unfold rrfA
  refine (major_decodeKey (rrf_26_6 _ _ _ _ _)).trans ?_
  simp only [decodeKey, rrf_z15, rrf_z10, vfn_7_4, vfn_3_4, vfn_0_3, ffn_6_5, ffn_4_2, ffn_1_3, ffn_b0, afn_5_6, afn_0_5, afn_mod, afn_bit, hbM_0_4, hbM_b4, z14_0_4, z14_b4, z23_0_3, z23_3_2, z32_0_2, z32_3_2, z32_2_3, z32_b2, ktM_0_2, ktM_3_2, ktM_b2, rc23_3_2, rc23_0_3, rc32_2_3, rc32_0_2, obM_0_2, obM_b2, obM_b3, obM_b4, cvtF_9_2, cvtF_5_4, cvtF_2_3, cvtF_0_2, vcvtF_9_2, vcvtF_6_3, vcvtF_3_3, vcvtF_0_3, vscF_9_2, vscF_7_2, vscF_5_2, vscF_2_3, vscF_0_2, sfuF_8_3, sfuF_b7, sfuF_3_4, sfuF_0_3, rrf_21_5, rrf_16_5, rrf_11_5, rrf_rd, rrf_ra, rrf_rb, rrf_fn, rrf_bit, rrf_rb_bit, rrf_ra_bit, rrf_rd_bit, coded, need, BitVec.extractLsb'_eq_self, Nat.reduceLeDiff, Nat.reduceAdd, Nat.reduceSub, Nat.reduceLT, elemTyOf_code, rmOf_code, fmtOf3_code, hintOf_code, fsizeOf_code, redOpOf_code, voteKindOf_code, sgnOpOf_code, cmpOpOf_code, kOpOf_code, kCondOf_code, qOpOf_code, mtypeOf_code, scopeOf_code, ordOf_code, logOpOf_code, dirOf_code, topoOf_code, aselOf_code, bselOf_code]
  rfl

theorem RoundTrip.ktacc kt rd ra rb : Statement (.ktacc kt rd ra rb) := by
  intro hw x hx
  obtain rfl := Option.some.inj hx
  refine decode_of ?_ hw
  unfold rrfA
  refine (major_decodeKey (rrf_26_6 _ _ _ _ _)).trans ?_
  simp only [decodeKey, rrf_z15, rrf_z10, vfn_7_4, vfn_3_4, vfn_0_3, ffn_6_5, ffn_4_2, ffn_1_3, ffn_b0, afn_5_6, afn_0_5, afn_mod, afn_bit, hbM_0_4, hbM_b4, z14_0_4, z14_b4, z23_0_3, z23_3_2, z32_0_2, z32_3_2, z32_2_3, z32_b2, ktM_0_2, ktM_3_2, ktM_b2, rc23_3_2, rc23_0_3, rc32_2_3, rc32_0_2, obM_0_2, obM_b2, obM_b3, obM_b4, cvtF_9_2, cvtF_5_4, cvtF_2_3, cvtF_0_2, vcvtF_9_2, vcvtF_6_3, vcvtF_3_3, vcvtF_0_3, vscF_9_2, vscF_7_2, vscF_5_2, vscF_2_3, vscF_0_2, sfuF_8_3, sfuF_b7, sfuF_3_4, sfuF_0_3, rrf_21_5, rrf_16_5, rrf_11_5, rrf_rd, rrf_ra, rrf_rb, rrf_fn, rrf_bit, rrf_rb_bit, rrf_ra_bit, rrf_rd_bit, coded, need, BitVec.extractLsb'_eq_self, Nat.reduceLeDiff, Nat.reduceAdd, Nat.reduceSub, Nat.reduceLT, elemTyOf_code, rmOf_code, fmtOf3_code, hintOf_code, fsizeOf_code, redOpOf_code, voteKindOf_code, sgnOpOf_code, cmpOpOf_code, kOpOf_code, kCondOf_code, qOpOf_code, mtypeOf_code, scopeOf_code, ordOf_code, logOpOf_code, dirOf_code, topoOf_code, aselOf_code, bselOf_code]
  rfl

theorem RoundTrip.ktdrn kt c rd ra : Statement (.ktdrn kt c rd ra) := by
  intro hw x hx
  obtain rfl := Option.some.inj hx
  refine decode_of ?_ hw
  unfold rrfA
  refine (major_decodeKey (rrf_26_6 _ _ _ _ _)).trans ?_
  simp only [decodeKey, rrf_z15, rrf_z10, vfn_7_4, vfn_3_4, vfn_0_3, ffn_6_5, ffn_4_2, ffn_1_3, ffn_b0, afn_5_6, afn_0_5, afn_mod, afn_bit, hbM_0_4, hbM_b4, z14_0_4, z14_b4, z23_0_3, z23_3_2, z32_0_2, z32_3_2, z32_2_3, z32_b2, ktM_0_2, ktM_3_2, ktM_b2, rc23_3_2, rc23_0_3, rc32_2_3, rc32_0_2, obM_0_2, obM_b2, obM_b3, obM_b4, cvtF_9_2, cvtF_5_4, cvtF_2_3, cvtF_0_2, vcvtF_9_2, vcvtF_6_3, vcvtF_3_3, vcvtF_0_3, vscF_9_2, vscF_7_2, vscF_5_2, vscF_2_3, vscF_0_2, sfuF_8_3, sfuF_b7, sfuF_3_4, sfuF_0_3, rrf_21_5, rrf_16_5, rrf_11_5, rrf_rd, rrf_ra, rrf_rb, rrf_fn, rrf_bit, rrf_rb_bit, rrf_ra_bit, rrf_rd_bit, coded, need, BitVec.extractLsb'_eq_self, Nat.reduceLeDiff, Nat.reduceAdd, Nat.reduceSub, Nat.reduceLT, elemTyOf_code, rmOf_code, fmtOf3_code, hintOf_code, fsizeOf_code, redOpOf_code, voteKindOf_code, sgnOpOf_code, cmpOpOf_code, kOpOf_code, kCondOf_code, qOpOf_code, mtypeOf_code, scopeOf_code, ordOf_code, logOpOf_code, dirOf_code, topoOf_code, aselOf_code, bselOf_code]
  rfl

theorem RoundTrip.ktstat kt sel rd : Statement (.ktstat kt sel rd) := by
  intro hw x hx
  obtain rfl := Option.some.inj hx
  refine decode_of ?_ hw
  unfold rrfA
  refine (major_decodeKey (rrf_26_6 _ _ _ _ _)).trans ?_
  simp only [decodeKey, rrf_z15, rrf_z10, vfn_7_4, vfn_3_4, vfn_0_3, ffn_6_5, ffn_4_2, ffn_1_3, ffn_b0, afn_5_6, afn_0_5, afn_mod, afn_bit, hbM_0_4, hbM_b4, z14_0_4, z14_b4, z23_0_3, z23_3_2, z32_0_2, z32_3_2, z32_2_3, z32_b2, ktM_0_2, ktM_3_2, ktM_b2, rc23_3_2, rc23_0_3, rc32_2_3, rc32_0_2, obM_0_2, obM_b2, obM_b3, obM_b4, cvtF_9_2, cvtF_5_4, cvtF_2_3, cvtF_0_2, vcvtF_9_2, vcvtF_6_3, vcvtF_3_3, vcvtF_0_3, vscF_9_2, vscF_7_2, vscF_5_2, vscF_2_3, vscF_0_2, sfuF_8_3, sfuF_b7, sfuF_3_4, sfuF_0_3, rrf_21_5, rrf_16_5, rrf_11_5, rrf_rd, rrf_ra, rrf_rb, rrf_fn, rrf_bit, rrf_rb_bit, rrf_ra_bit, rrf_rd_bit, coded, need, BitVec.extractLsb'_eq_self, Nat.reduceLeDiff, Nat.reduceAdd, Nat.reduceSub, Nat.reduceLT, elemTyOf_code, rmOf_code, fmtOf3_code, hintOf_code, fsizeOf_code, redOpOf_code, voteKindOf_code, sgnOpOf_code, cmpOpOf_code, kOpOf_code, kCondOf_code, qOpOf_code, mtypeOf_code, scopeOf_code, ordOf_code, logOpOf_code, dirOf_code, topoOf_code, aselOf_code, bselOf_code]
  exact (if_pos (z32_lt sel)).trans rfl

theorem RoundTrip.enq nb rd ra : Statement (.enq nb rd ra) := by
  intro hw x hx
  obtain rfl := Option.some.inj hx
  refine decode_of ?_ hw
  unfold rrfA
  refine (major_decodeEng (rrf_26_6 _ _ _ _ _)).trans ?_
  simp only [decodeEng, rrf_z15, rrf_z10, vfn_7_4, vfn_3_4, vfn_0_3, ffn_6_5, ffn_4_2, ffn_1_3, ffn_b0, afn_5_6, afn_0_5, afn_mod, afn_bit, hbM_0_4, hbM_b4, z14_0_4, z14_b4, z23_0_3, z23_3_2, z32_0_2, z32_3_2, z32_2_3, z32_b2, ktM_0_2, ktM_3_2, ktM_b2, rc23_3_2, rc23_0_3, rc32_2_3, rc32_0_2, obM_0_2, obM_b2, obM_b3, obM_b4, cvtF_9_2, cvtF_5_4, cvtF_2_3, cvtF_0_2, vcvtF_9_2, vcvtF_6_3, vcvtF_3_3, vcvtF_0_3, vscF_9_2, vscF_7_2, vscF_5_2, vscF_2_3, vscF_0_2, sfuF_8_3, sfuF_b7, sfuF_3_4, sfuF_0_3, rrf_21_5, rrf_16_5, rrf_11_5, rrf_rd, rrf_ra, rrf_rb, rrf_fn, rrf_bit, rrf_rb_bit, rrf_ra_bit, rrf_rd_bit, coded, need, BitVec.extractLsb'_eq_self, Nat.reduceLeDiff, Nat.reduceAdd, Nat.reduceSub, Nat.reduceLT, elemTyOf_code, rmOf_code, fmtOf3_code, hintOf_code, fsizeOf_code, redOpOf_code, voteKindOf_code, sgnOpOf_code, cmpOpOf_code, kOpOf_code, kCondOf_code, qOpOf_code, mtypeOf_code, scopeOf_code, ordOf_code, logOpOf_code, dirOf_code, topoOf_code, aselOf_code, bselOf_code]
  cases nb <;> rfl

theorem RoundTrip.deq rd ra : Statement (.deq rd ra) := by
  intro hw x hx
  obtain rfl := Option.some.inj hx
  refine decode_of ?_ hw
  unfold rrfA
  refine (major_decodeEng (rrf_26_6 _ _ _ _ _)).trans ?_
  simp only [decodeEng, rrf_z15, rrf_z10, vfn_7_4, vfn_3_4, vfn_0_3, ffn_6_5, ffn_4_2, ffn_1_3, ffn_b0, afn_5_6, afn_0_5, afn_mod, afn_bit, hbM_0_4, hbM_b4, z14_0_4, z14_b4, z23_0_3, z23_3_2, z32_0_2, z32_3_2, z32_2_3, z32_b2, ktM_0_2, ktM_3_2, ktM_b2, rc23_3_2, rc23_0_3, rc32_2_3, rc32_0_2, obM_0_2, obM_b2, obM_b3, obM_b4, cvtF_9_2, cvtF_5_4, cvtF_2_3, cvtF_0_2, vcvtF_9_2, vcvtF_6_3, vcvtF_3_3, vcvtF_0_3, vscF_9_2, vscF_7_2, vscF_5_2, vscF_2_3, vscF_0_2, sfuF_8_3, sfuF_b7, sfuF_3_4, sfuF_0_3, rrf_21_5, rrf_16_5, rrf_11_5, rrf_rd, rrf_ra, rrf_rb, rrf_fn, rrf_bit, rrf_rb_bit, rrf_ra_bit, rrf_rd_bit, coded, need, BitVec.extractLsb'_eq_self, Nat.reduceLeDiff, Nat.reduceAdd, Nat.reduceSub, Nat.reduceLT, elemTyOf_code, rmOf_code, fmtOf3_code, hintOf_code, fsizeOf_code, redOpOf_code, voteKindOf_code, sgnOpOf_code, cmpOpOf_code, kOpOf_code, kCondOf_code, qOpOf_code, mtypeOf_code, scopeOf_code, ordOf_code, logOpOf_code, dirOf_code, topoOf_code, aselOf_code, bselOf_code]
  rfl

theorem RoundTrip.eqry sel rd ra : Statement (.eqry sel rd ra) := by
  intro hw x hx
  obtain rfl := Option.some.inj hx
  refine decode_of ?_ hw
  unfold rrfA
  refine (major_decodeEng (rrf_26_6 _ _ _ _ _)).trans ?_
  simp only [decodeEng, rrf_z15, rrf_z10, vfn_7_4, vfn_3_4, vfn_0_3, ffn_6_5, ffn_4_2, ffn_1_3, ffn_b0, afn_5_6, afn_0_5, afn_mod, afn_bit, hbM_0_4, hbM_b4, z14_0_4, z14_b4, z23_0_3, z23_3_2, z32_0_2, z32_3_2, z32_2_3, z32_b2, ktM_0_2, ktM_3_2, ktM_b2, rc23_3_2, rc23_0_3, rc32_2_3, rc32_0_2, obM_0_2, obM_b2, obM_b3, obM_b4, cvtF_9_2, cvtF_5_4, cvtF_2_3, cvtF_0_2, vcvtF_9_2, vcvtF_6_3, vcvtF_3_3, vcvtF_0_3, vscF_9_2, vscF_7_2, vscF_5_2, vscF_2_3, vscF_0_2, sfuF_8_3, sfuF_b7, sfuF_3_4, sfuF_0_3, rrf_21_5, rrf_16_5, rrf_11_5, rrf_rd, rrf_ra, rrf_rb, rrf_fn, rrf_bit, rrf_rb_bit, rrf_ra_bit, rrf_rd_bit, coded, need, BitVec.extractLsb'_eq_self, Nat.reduceLeDiff, Nat.reduceAdd, Nat.reduceSub, Nat.reduceLT, elemTyOf_code, rmOf_code, fmtOf3_code, hintOf_code, fsizeOf_code, redOpOf_code, voteKindOf_code, sgnOpOf_code, cmpOpOf_code, kOpOf_code, kCondOf_code, qOpOf_code, mtypeOf_code, scopeOf_code, ordOf_code, logOpOf_code, dirOf_code, topoOf_code, aselOf_code, bselOf_code]
  cases sel <;> rfl

theorem RoundTrip.stginit ra rb : Statement (.stginit ra rb) := by
  intro hw x hx
  obtain rfl := Option.some.inj hx
  refine decode_of ?_ hw
  unfold rrfA
  refine (major_decodeEng (rrf_26_6 _ _ _ _ _)).trans ?_
  simp only [decodeEng, rrf_z15, rrf_z10, vfn_7_4, vfn_3_4, vfn_0_3, ffn_6_5, ffn_4_2, ffn_1_3, ffn_b0, afn_5_6, afn_0_5, afn_mod, afn_bit, hbM_0_4, hbM_b4, z14_0_4, z14_b4, z23_0_3, z23_3_2, z32_0_2, z32_3_2, z32_2_3, z32_b2, ktM_0_2, ktM_3_2, ktM_b2, rc23_3_2, rc23_0_3, rc32_2_3, rc32_0_2, obM_0_2, obM_b2, obM_b3, obM_b4, cvtF_9_2, cvtF_5_4, cvtF_2_3, cvtF_0_2, vcvtF_9_2, vcvtF_6_3, vcvtF_3_3, vcvtF_0_3, vscF_9_2, vscF_7_2, vscF_5_2, vscF_2_3, vscF_0_2, sfuF_8_3, sfuF_b7, sfuF_3_4, sfuF_0_3, rrf_21_5, rrf_16_5, rrf_11_5, rrf_rd, rrf_ra, rrf_rb, rrf_fn, rrf_bit, rrf_rb_bit, rrf_ra_bit, rrf_rd_bit, coded, need, BitVec.extractLsb'_eq_self, Nat.reduceLeDiff, Nat.reduceAdd, Nat.reduceSub, Nat.reduceLT, elemTyOf_code, rmOf_code, fmtOf3_code, hintOf_code, fsizeOf_code, redOpOf_code, voteKindOf_code, sgnOpOf_code, cmpOpOf_code, kOpOf_code, kCondOf_code, qOpOf_code, mtypeOf_code, scopeOf_code, ordOf_code, logOpOf_code, dirOf_code, topoOf_code, aselOf_code, bselOf_code]
  rfl

theorem RoundTrip.stgexp ra rb : Statement (.stgexp ra rb) := by
  intro hw x hx
  obtain rfl := Option.some.inj hx
  refine decode_of ?_ hw
  unfold rrfA
  refine (major_decodeEng (rrf_26_6 _ _ _ _ _)).trans ?_
  simp only [decodeEng, rrf_z15, rrf_z10, vfn_7_4, vfn_3_4, vfn_0_3, ffn_6_5, ffn_4_2, ffn_1_3, ffn_b0, afn_5_6, afn_0_5, afn_mod, afn_bit, hbM_0_4, hbM_b4, z14_0_4, z14_b4, z23_0_3, z23_3_2, z32_0_2, z32_3_2, z32_2_3, z32_b2, ktM_0_2, ktM_3_2, ktM_b2, rc23_3_2, rc23_0_3, rc32_2_3, rc32_0_2, obM_0_2, obM_b2, obM_b3, obM_b4, cvtF_9_2, cvtF_5_4, cvtF_2_3, cvtF_0_2, vcvtF_9_2, vcvtF_6_3, vcvtF_3_3, vcvtF_0_3, vscF_9_2, vscF_7_2, vscF_5_2, vscF_2_3, vscF_0_2, sfuF_8_3, sfuF_b7, sfuF_3_4, sfuF_0_3, rrf_21_5, rrf_16_5, rrf_11_5, rrf_rd, rrf_ra, rrf_rb, rrf_fn, rrf_bit, rrf_rb_bit, rrf_ra_bit, rrf_rd_bit, coded, need, BitVec.extractLsb'_eq_self, Nat.reduceLeDiff, Nat.reduceAdd, Nat.reduceSub, Nat.reduceLT, elemTyOf_code, rmOf_code, fmtOf3_code, hintOf_code, fsizeOf_code, redOpOf_code, voteKindOf_code, sgnOpOf_code, cmpOpOf_code, kOpOf_code, kCondOf_code, qOpOf_code, mtypeOf_code, scopeOf_code, ordOf_code, logOpOf_code, dirOf_code, topoOf_code, aselOf_code, bselOf_code]
  rfl

theorem RoundTrip.stgarv rd ra rb : Statement (.stgarv rd ra rb) := by
  intro hw x hx
  obtain rfl := Option.some.inj hx
  refine decode_of ?_ hw
  unfold rrfA
  refine (major_decodeEng (rrf_26_6 _ _ _ _ _)).trans ?_
  simp only [decodeEng, rrf_z15, rrf_z10, vfn_7_4, vfn_3_4, vfn_0_3, ffn_6_5, ffn_4_2, ffn_1_3, ffn_b0, afn_5_6, afn_0_5, afn_mod, afn_bit, hbM_0_4, hbM_b4, z14_0_4, z14_b4, z23_0_3, z23_3_2, z32_0_2, z32_3_2, z32_2_3, z32_b2, ktM_0_2, ktM_3_2, ktM_b2, rc23_3_2, rc23_0_3, rc32_2_3, rc32_0_2, obM_0_2, obM_b2, obM_b3, obM_b4, cvtF_9_2, cvtF_5_4, cvtF_2_3, cvtF_0_2, vcvtF_9_2, vcvtF_6_3, vcvtF_3_3, vcvtF_0_3, vscF_9_2, vscF_7_2, vscF_5_2, vscF_2_3, vscF_0_2, sfuF_8_3, sfuF_b7, sfuF_3_4, sfuF_0_3, rrf_21_5, rrf_16_5, rrf_11_5, rrf_rd, rrf_ra, rrf_rb, rrf_fn, rrf_bit, rrf_rb_bit, rrf_ra_bit, rrf_rd_bit, coded, need, BitVec.extractLsb'_eq_self, Nat.reduceLeDiff, Nat.reduceAdd, Nat.reduceSub, Nat.reduceLT, elemTyOf_code, rmOf_code, fmtOf3_code, hintOf_code, fsizeOf_code, redOpOf_code, voteKindOf_code, sgnOpOf_code, cmpOpOf_code, kOpOf_code, kCondOf_code, qOpOf_code, mtypeOf_code, scopeOf_code, ordOf_code, logOpOf_code, dirOf_code, topoOf_code, aselOf_code, bselOf_code]
  rfl

theorem RoundTrip.stgwait rd ra rb : Statement (.stgwait rd ra rb) := by
  intro hw x hx
  obtain rfl := Option.some.inj hx
  refine decode_of ?_ hw
  unfold rrfA
  refine (major_decodeEng (rrf_26_6 _ _ _ _ _)).trans ?_
  simp only [decodeEng, rrf_z15, rrf_z10, vfn_7_4, vfn_3_4, vfn_0_3, ffn_6_5, ffn_4_2, ffn_1_3, ffn_b0, afn_5_6, afn_0_5, afn_mod, afn_bit, hbM_0_4, hbM_b4, z14_0_4, z14_b4, z23_0_3, z23_3_2, z32_0_2, z32_3_2, z32_2_3, z32_b2, ktM_0_2, ktM_3_2, ktM_b2, rc23_3_2, rc23_0_3, rc32_2_3, rc32_0_2, obM_0_2, obM_b2, obM_b3, obM_b4, cvtF_9_2, cvtF_5_4, cvtF_2_3, cvtF_0_2, vcvtF_9_2, vcvtF_6_3, vcvtF_3_3, vcvtF_0_3, vscF_9_2, vscF_7_2, vscF_5_2, vscF_2_3, vscF_0_2, sfuF_8_3, sfuF_b7, sfuF_3_4, sfuF_0_3, rrf_21_5, rrf_16_5, rrf_11_5, rrf_rd, rrf_ra, rrf_rb, rrf_fn, rrf_bit, rrf_rb_bit, rrf_ra_bit, rrf_rd_bit, coded, need, BitVec.extractLsb'_eq_self, Nat.reduceLeDiff, Nat.reduceAdd, Nat.reduceSub, Nat.reduceLT, elemTyOf_code, rmOf_code, fmtOf3_code, hintOf_code, fsizeOf_code, redOpOf_code, voteKindOf_code, sgnOpOf_code, cmpOpOf_code, kOpOf_code, kCondOf_code, qOpOf_code, mtypeOf_code, scopeOf_code, ordOf_code, logOpOf_code, dirOf_code, topoOf_code, aselOf_code, bselOf_code]
  rfl

theorem RoundTrip.stgtry rd ra rb : Statement (.stgtry rd ra rb) := by
  intro hw x hx
  obtain rfl := Option.some.inj hx
  refine decode_of ?_ hw
  unfold rrfA
  refine (major_decodeEng (rrf_26_6 _ _ _ _ _)).trans ?_
  simp only [decodeEng, rrf_z15, rrf_z10, vfn_7_4, vfn_3_4, vfn_0_3, ffn_6_5, ffn_4_2, ffn_1_3, ffn_b0, afn_5_6, afn_0_5, afn_mod, afn_bit, hbM_0_4, hbM_b4, z14_0_4, z14_b4, z23_0_3, z23_3_2, z32_0_2, z32_3_2, z32_2_3, z32_b2, ktM_0_2, ktM_3_2, ktM_b2, rc23_3_2, rc23_0_3, rc32_2_3, rc32_0_2, obM_0_2, obM_b2, obM_b3, obM_b4, cvtF_9_2, cvtF_5_4, cvtF_2_3, cvtF_0_2, vcvtF_9_2, vcvtF_6_3, vcvtF_3_3, vcvtF_0_3, vscF_9_2, vscF_7_2, vscF_5_2, vscF_2_3, vscF_0_2, sfuF_8_3, sfuF_b7, sfuF_3_4, sfuF_0_3, rrf_21_5, rrf_16_5, rrf_11_5, rrf_rd, rrf_ra, rrf_rb, rrf_fn, rrf_bit, rrf_rb_bit, rrf_ra_bit, rrf_rd_bit, coded, need, BitVec.extractLsb'_eq_self, Nat.reduceLeDiff, Nat.reduceAdd, Nat.reduceSub, Nat.reduceLT, elemTyOf_code, rmOf_code, fmtOf3_code, hintOf_code, fsizeOf_code, redOpOf_code, voteKindOf_code, sgnOpOf_code, cmpOpOf_code, kOpOf_code, kCondOf_code, qOpOf_code, mtypeOf_code, scopeOf_code, ordOf_code, logOpOf_code, dirOf_code, topoOf_code, aselOf_code, bselOf_code]
  rfl

theorem RoundTrip.semsig ra rb : Statement (.semsig ra rb) := by
  intro hw x hx
  obtain rfl := Option.some.inj hx
  refine decode_of ?_ hw
  unfold rrfA
  refine (major_decodeEng (rrf_26_6 _ _ _ _ _)).trans ?_
  simp only [decodeEng, rrf_z15, rrf_z10, vfn_7_4, vfn_3_4, vfn_0_3, ffn_6_5, ffn_4_2, ffn_1_3, ffn_b0, afn_5_6, afn_0_5, afn_mod, afn_bit, hbM_0_4, hbM_b4, z14_0_4, z14_b4, z23_0_3, z23_3_2, z32_0_2, z32_3_2, z32_2_3, z32_b2, ktM_0_2, ktM_3_2, ktM_b2, rc23_3_2, rc23_0_3, rc32_2_3, rc32_0_2, obM_0_2, obM_b2, obM_b3, obM_b4, cvtF_9_2, cvtF_5_4, cvtF_2_3, cvtF_0_2, vcvtF_9_2, vcvtF_6_3, vcvtF_3_3, vcvtF_0_3, vscF_9_2, vscF_7_2, vscF_5_2, vscF_2_3, vscF_0_2, sfuF_8_3, sfuF_b7, sfuF_3_4, sfuF_0_3, rrf_21_5, rrf_16_5, rrf_11_5, rrf_rd, rrf_ra, rrf_rb, rrf_fn, rrf_bit, rrf_rb_bit, rrf_ra_bit, rrf_rd_bit, coded, need, BitVec.extractLsb'_eq_self, Nat.reduceLeDiff, Nat.reduceAdd, Nat.reduceSub, Nat.reduceLT, elemTyOf_code, rmOf_code, fmtOf3_code, hintOf_code, fsizeOf_code, redOpOf_code, voteKindOf_code, sgnOpOf_code, cmpOpOf_code, kOpOf_code, kCondOf_code, qOpOf_code, mtypeOf_code, scopeOf_code, ordOf_code, logOpOf_code, dirOf_code, topoOf_code, aselOf_code, bselOf_code]
  rfl

theorem RoundTrip.semwait rd ra rb : Statement (.semwait rd ra rb) := by
  intro hw x hx
  obtain rfl := Option.some.inj hx
  refine decode_of ?_ hw
  unfold rrfA
  refine (major_decodeEng (rrf_26_6 _ _ _ _ _)).trans ?_
  simp only [decodeEng, rrf_z15, rrf_z10, vfn_7_4, vfn_3_4, vfn_0_3, ffn_6_5, ffn_4_2, ffn_1_3, ffn_b0, afn_5_6, afn_0_5, afn_mod, afn_bit, hbM_0_4, hbM_b4, z14_0_4, z14_b4, z23_0_3, z23_3_2, z32_0_2, z32_3_2, z32_2_3, z32_b2, ktM_0_2, ktM_3_2, ktM_b2, rc23_3_2, rc23_0_3, rc32_2_3, rc32_0_2, obM_0_2, obM_b2, obM_b3, obM_b4, cvtF_9_2, cvtF_5_4, cvtF_2_3, cvtF_0_2, vcvtF_9_2, vcvtF_6_3, vcvtF_3_3, vcvtF_0_3, vscF_9_2, vscF_7_2, vscF_5_2, vscF_2_3, vscF_0_2, sfuF_8_3, sfuF_b7, sfuF_3_4, sfuF_0_3, rrf_21_5, rrf_16_5, rrf_11_5, rrf_rd, rrf_ra, rrf_rb, rrf_fn, rrf_bit, rrf_rb_bit, rrf_ra_bit, rrf_rd_bit, coded, need, BitVec.extractLsb'_eq_self, Nat.reduceLeDiff, Nat.reduceAdd, Nat.reduceSub, Nat.reduceLT, elemTyOf_code, rmOf_code, fmtOf3_code, hintOf_code, fsizeOf_code, redOpOf_code, voteKindOf_code, sgnOpOf_code, cmpOpOf_code, kOpOf_code, kCondOf_code, qOpOf_code, mtypeOf_code, scopeOf_code, ordOf_code, logOpOf_code, dirOf_code, topoOf_code, aselOf_code, bselOf_code]
  rfl

theorem RoundTrip.semtry rd ra rb : Statement (.semtry rd ra rb) := by
  intro hw x hx
  obtain rfl := Option.some.inj hx
  refine decode_of ?_ hw
  unfold rrfA
  refine (major_decodeEng (rrf_26_6 _ _ _ _ _)).trans ?_
  simp only [decodeEng, rrf_z15, rrf_z10, vfn_7_4, vfn_3_4, vfn_0_3, ffn_6_5, ffn_4_2, ffn_1_3, ffn_b0, afn_5_6, afn_0_5, afn_mod, afn_bit, hbM_0_4, hbM_b4, z14_0_4, z14_b4, z23_0_3, z23_3_2, z32_0_2, z32_3_2, z32_2_3, z32_b2, ktM_0_2, ktM_3_2, ktM_b2, rc23_3_2, rc23_0_3, rc32_2_3, rc32_0_2, obM_0_2, obM_b2, obM_b3, obM_b4, cvtF_9_2, cvtF_5_4, cvtF_2_3, cvtF_0_2, vcvtF_9_2, vcvtF_6_3, vcvtF_3_3, vcvtF_0_3, vscF_9_2, vscF_7_2, vscF_5_2, vscF_2_3, vscF_0_2, sfuF_8_3, sfuF_b7, sfuF_3_4, sfuF_0_3, rrf_21_5, rrf_16_5, rrf_11_5, rrf_rd, rrf_ra, rrf_rb, rrf_fn, rrf_bit, rrf_rb_bit, rrf_ra_bit, rrf_rd_bit, coded, need, BitVec.extractLsb'_eq_self, Nat.reduceLeDiff, Nat.reduceAdd, Nat.reduceSub, Nat.reduceLT, elemTyOf_code, rmOf_code, fmtOf3_code, hintOf_code, fsizeOf_code, redOpOf_code, voteKindOf_code, sgnOpOf_code, cmpOpOf_code, kOpOf_code, kCondOf_code, qOpOf_code, mtypeOf_code, scopeOf_code, ordOf_code, logOpOf_code, dirOf_code, topoOf_code, aselOf_code, bselOf_code]
  rfl

theorem RoundTrip.send ra rb : Statement (.send ra rb) := by
  intro hw x hx
  obtain rfl := Option.some.inj hx
  refine decode_of ?_ hw
  unfold rrfA
  refine (major_decodeMsg (rrf_26_6 _ _ _ _ _)).trans ?_
  simp only [decodeMsg, rrf_z15, rrf_z10, vfn_7_4, vfn_3_4, vfn_0_3, ffn_6_5, ffn_4_2, ffn_1_3, ffn_b0, afn_5_6, afn_0_5, afn_mod, afn_bit, hbM_0_4, hbM_b4, z14_0_4, z14_b4, z23_0_3, z23_3_2, z32_0_2, z32_3_2, z32_2_3, z32_b2, ktM_0_2, ktM_3_2, ktM_b2, rc23_3_2, rc23_0_3, rc32_2_3, rc32_0_2, obM_0_2, obM_b2, obM_b3, obM_b4, cvtF_9_2, cvtF_5_4, cvtF_2_3, cvtF_0_2, vcvtF_9_2, vcvtF_6_3, vcvtF_3_3, vcvtF_0_3, vscF_9_2, vscF_7_2, vscF_5_2, vscF_2_3, vscF_0_2, sfuF_8_3, sfuF_b7, sfuF_3_4, sfuF_0_3, rrf_21_5, rrf_16_5, rrf_11_5, rrf_rd, rrf_ra, rrf_rb, rrf_fn, rrf_bit, rrf_rb_bit, rrf_ra_bit, rrf_rd_bit, coded, need, BitVec.extractLsb'_eq_self, Nat.reduceLeDiff, Nat.reduceAdd, Nat.reduceSub, Nat.reduceLT, elemTyOf_code, rmOf_code, fmtOf3_code, hintOf_code, fsizeOf_code, redOpOf_code, voteKindOf_code, sgnOpOf_code, cmpOpOf_code, kOpOf_code, kCondOf_code, qOpOf_code, mtypeOf_code, scopeOf_code, ordOf_code, logOpOf_code, dirOf_code, topoOf_code, aselOf_code, bselOf_code]
  rfl

theorem RoundTrip.recv rd : Statement (.recv rd) := by
  intro hw x hx
  obtain rfl := Option.some.inj hx
  refine decode_of ?_ hw
  unfold rrfA
  refine (major_decodeMsg (rrf_26_6 _ _ _ _ _)).trans ?_
  simp only [decodeMsg, rrf_z15, rrf_z10, vfn_7_4, vfn_3_4, vfn_0_3, ffn_6_5, ffn_4_2, ffn_1_3, ffn_b0, afn_5_6, afn_0_5, afn_mod, afn_bit, hbM_0_4, hbM_b4, z14_0_4, z14_b4, z23_0_3, z23_3_2, z32_0_2, z32_3_2, z32_2_3, z32_b2, ktM_0_2, ktM_3_2, ktM_b2, rc23_3_2, rc23_0_3, rc32_2_3, rc32_0_2, obM_0_2, obM_b2, obM_b3, obM_b4, cvtF_9_2, cvtF_5_4, cvtF_2_3, cvtF_0_2, vcvtF_9_2, vcvtF_6_3, vcvtF_3_3, vcvtF_0_3, vscF_9_2, vscF_7_2, vscF_5_2, vscF_2_3, vscF_0_2, sfuF_8_3, sfuF_b7, sfuF_3_4, sfuF_0_3, rrf_21_5, rrf_16_5, rrf_11_5, rrf_rd, rrf_ra, rrf_rb, rrf_fn, rrf_bit, rrf_rb_bit, rrf_ra_bit, rrf_rd_bit, coded, need, BitVec.extractLsb'_eq_self, Nat.reduceLeDiff, Nat.reduceAdd, Nat.reduceSub, Nat.reduceLT, elemTyOf_code, rmOf_code, fmtOf3_code, hintOf_code, fsizeOf_code, redOpOf_code, voteKindOf_code, sgnOpOf_code, cmpOpOf_code, kOpOf_code, kCondOf_code, qOpOf_code, mtypeOf_code, scopeOf_code, ordOf_code, logOpOf_code, dirOf_code, topoOf_code, aselOf_code, bselOf_code]
  rfl

theorem RoundTrip.waitmsg  : Statement (.waitmsg ) := by
  intro hw x hx
  obtain rfl := Option.some.inj hx
  refine decode_of ?_ hw
  unfold rrfA
  refine (major_decodeMsg (rrf_26_6 _ _ _ _ _)).trans ?_
  simp only [decodeMsg, rrf_z15, rrf_z10, vfn_7_4, vfn_3_4, vfn_0_3, ffn_6_5, ffn_4_2, ffn_1_3, ffn_b0, afn_5_6, afn_0_5, afn_mod, afn_bit, hbM_0_4, hbM_b4, z14_0_4, z14_b4, z23_0_3, z23_3_2, z32_0_2, z32_3_2, z32_2_3, z32_b2, ktM_0_2, ktM_3_2, ktM_b2, rc23_3_2, rc23_0_3, rc32_2_3, rc32_0_2, obM_0_2, obM_b2, obM_b3, obM_b4, cvtF_9_2, cvtF_5_4, cvtF_2_3, cvtF_0_2, vcvtF_9_2, vcvtF_6_3, vcvtF_3_3, vcvtF_0_3, vscF_9_2, vscF_7_2, vscF_5_2, vscF_2_3, vscF_0_2, sfuF_8_3, sfuF_b7, sfuF_3_4, sfuF_0_3, rrf_21_5, rrf_16_5, rrf_11_5, rrf_rd, rrf_ra, rrf_rb, rrf_fn, rrf_bit, rrf_rb_bit, rrf_ra_bit, rrf_rd_bit, coded, need, BitVec.extractLsb'_eq_self, Nat.reduceLeDiff, Nat.reduceAdd, Nat.reduceSub, Nat.reduceLT, elemTyOf_code, rmOf_code, fmtOf3_code, hintOf_code, fsizeOf_code, redOpOf_code, voteKindOf_code, sgnOpOf_code, cmpOpOf_code, kOpOf_code, kCondOf_code, qOpOf_code, mtypeOf_code, scopeOf_code, ordOf_code, logOpOf_code, dirOf_code, topoOf_code, aselOf_code, bselOf_code]
  rfl

theorem RoundTrip.mbqry rd : Statement (.mbqry rd) := by
  intro hw x hx
  obtain rfl := Option.some.inj hx
  refine decode_of ?_ hw
  unfold rrfA
  refine (major_decodeMsg (rrf_26_6 _ _ _ _ _)).trans ?_
  simp only [decodeMsg, rrf_z15, rrf_z10, vfn_7_4, vfn_3_4, vfn_0_3, ffn_6_5, ffn_4_2, ffn_1_3, ffn_b0, afn_5_6, afn_0_5, afn_mod, afn_bit, hbM_0_4, hbM_b4, z14_0_4, z14_b4, z23_0_3, z23_3_2, z32_0_2, z32_3_2, z32_2_3, z32_b2, ktM_0_2, ktM_3_2, ktM_b2, rc23_3_2, rc23_0_3, rc32_2_3, rc32_0_2, obM_0_2, obM_b2, obM_b3, obM_b4, cvtF_9_2, cvtF_5_4, cvtF_2_3, cvtF_0_2, vcvtF_9_2, vcvtF_6_3, vcvtF_3_3, vcvtF_0_3, vscF_9_2, vscF_7_2, vscF_5_2, vscF_2_3, vscF_0_2, sfuF_8_3, sfuF_b7, sfuF_3_4, sfuF_0_3, rrf_21_5, rrf_16_5, rrf_11_5, rrf_rd, rrf_ra, rrf_rb, rrf_fn, rrf_bit, rrf_rb_bit, rrf_ra_bit, rrf_rd_bit, coded, need, BitVec.extractLsb'_eq_self, Nat.reduceLeDiff, Nat.reduceAdd, Nat.reduceSub, Nat.reduceLT, elemTyOf_code, rmOf_code, fmtOf3_code, hintOf_code, fsizeOf_code, redOpOf_code, voteKindOf_code, sgnOpOf_code, cmpOpOf_code, kOpOf_code, kCondOf_code, qOpOf_code, mtypeOf_code, scopeOf_code, ordOf_code, logOpOf_code, dirOf_code, topoOf_code, aselOf_code, bselOf_code]
  rfl

theorem RoundTrip.hbinit e hb ra rb : Statement (.hbinit e hb ra rb) := by
  intro hw x hx
  obtain rfl := Option.some.inj hx
  refine decode_of ?_ hw
  unfold rrfA
  refine (major_decodeMsg (rrf_26_6 _ _ _ _ _)).trans ?_
  simp only [decodeMsg, rrf_z15, rrf_z10, vfn_7_4, vfn_3_4, vfn_0_3, ffn_6_5, ffn_4_2, ffn_1_3, ffn_b0, afn_5_6, afn_0_5, afn_mod, afn_bit, hbM_0_4, hbM_b4, z14_0_4, z14_b4, z23_0_3, z23_3_2, z32_0_2, z32_3_2, z32_2_3, z32_b2, ktM_0_2, ktM_3_2, ktM_b2, rc23_3_2, rc23_0_3, rc32_2_3, rc32_0_2, obM_0_2, obM_b2, obM_b3, obM_b4, cvtF_9_2, cvtF_5_4, cvtF_2_3, cvtF_0_2, vcvtF_9_2, vcvtF_6_3, vcvtF_3_3, vcvtF_0_3, vscF_9_2, vscF_7_2, vscF_5_2, vscF_2_3, vscF_0_2, sfuF_8_3, sfuF_b7, sfuF_3_4, sfuF_0_3, rrf_21_5, rrf_16_5, rrf_11_5, rrf_rd, rrf_ra, rrf_rb, rrf_fn, rrf_bit, rrf_rb_bit, rrf_ra_bit, rrf_rd_bit, coded, need, BitVec.extractLsb'_eq_self, Nat.reduceLeDiff, Nat.reduceAdd, Nat.reduceSub, Nat.reduceLT, elemTyOf_code, rmOf_code, fmtOf3_code, hintOf_code, fsizeOf_code, redOpOf_code, voteKindOf_code, sgnOpOf_code, cmpOpOf_code, kOpOf_code, kCondOf_code, qOpOf_code, mtypeOf_code, scopeOf_code, ordOf_code, logOpOf_code, dirOf_code, topoOf_code, aselOf_code, bselOf_code]
  rfl

theorem RoundTrip.hbarv hb rd : Statement (.hbarv hb rd) := by
  intro hw x hx
  obtain rfl := Option.some.inj hx
  refine decode_of ?_ hw
  unfold rrfA
  refine (major_decodeMsg (rrf_26_6 _ _ _ _ _)).trans ?_
  simp only [decodeMsg, rrf_z15, rrf_z10, vfn_7_4, vfn_3_4, vfn_0_3, ffn_6_5, ffn_4_2, ffn_1_3, ffn_b0, afn_5_6, afn_0_5, afn_mod, afn_bit, hbM_0_4, hbM_b4, z14_0_4, z14_b4, z23_0_3, z23_3_2, z32_0_2, z32_3_2, z32_2_3, z32_b2, ktM_0_2, ktM_3_2, ktM_b2, rc23_3_2, rc23_0_3, rc32_2_3, rc32_0_2, obM_0_2, obM_b2, obM_b3, obM_b4, cvtF_9_2, cvtF_5_4, cvtF_2_3, cvtF_0_2, vcvtF_9_2, vcvtF_6_3, vcvtF_3_3, vcvtF_0_3, vscF_9_2, vscF_7_2, vscF_5_2, vscF_2_3, vscF_0_2, sfuF_8_3, sfuF_b7, sfuF_3_4, sfuF_0_3, rrf_21_5, rrf_16_5, rrf_11_5, rrf_rd, rrf_ra, rrf_rb, rrf_fn, rrf_bit, rrf_rb_bit, rrf_ra_bit, rrf_rd_bit, coded, need, BitVec.extractLsb'_eq_self, Nat.reduceLeDiff, Nat.reduceAdd, Nat.reduceSub, Nat.reduceLT, elemTyOf_code, rmOf_code, fmtOf3_code, hintOf_code, fsizeOf_code, redOpOf_code, voteKindOf_code, sgnOpOf_code, cmpOpOf_code, kOpOf_code, kCondOf_code, qOpOf_code, mtypeOf_code, scopeOf_code, ordOf_code, logOpOf_code, dirOf_code, topoOf_code, aselOf_code, bselOf_code]
  rfl

theorem RoundTrip.hbwait hb rd rb : Statement (.hbwait hb rd rb) := by
  intro hw x hx
  obtain rfl := Option.some.inj hx
  refine decode_of ?_ hw
  unfold rrfA
  refine (major_decodeMsg (rrf_26_6 _ _ _ _ _)).trans ?_
  simp only [decodeMsg, rrf_z15, rrf_z10, vfn_7_4, vfn_3_4, vfn_0_3, ffn_6_5, ffn_4_2, ffn_1_3, ffn_b0, afn_5_6, afn_0_5, afn_mod, afn_bit, hbM_0_4, hbM_b4, z14_0_4, z14_b4, z23_0_3, z23_3_2, z32_0_2, z32_3_2, z32_2_3, z32_b2, ktM_0_2, ktM_3_2, ktM_b2, rc23_3_2, rc23_0_3, rc32_2_3, rc32_0_2, obM_0_2, obM_b2, obM_b3, obM_b4, cvtF_9_2, cvtF_5_4, cvtF_2_3, cvtF_0_2, vcvtF_9_2, vcvtF_6_3, vcvtF_3_3, vcvtF_0_3, vscF_9_2, vscF_7_2, vscF_5_2, vscF_2_3, vscF_0_2, sfuF_8_3, sfuF_b7, sfuF_3_4, sfuF_0_3, rrf_21_5, rrf_16_5, rrf_11_5, rrf_rd, rrf_ra, rrf_rb, rrf_fn, rrf_bit, rrf_rb_bit, rrf_ra_bit, rrf_rd_bit, coded, need, BitVec.extractLsb'_eq_self, Nat.reduceLeDiff, Nat.reduceAdd, Nat.reduceSub, Nat.reduceLT, elemTyOf_code, rmOf_code, fmtOf3_code, hintOf_code, fsizeOf_code, redOpOf_code, voteKindOf_code, sgnOpOf_code, cmpOpOf_code, kOpOf_code, kCondOf_code, qOpOf_code, mtypeOf_code, scopeOf_code, ordOf_code, logOpOf_code, dirOf_code, topoOf_code, aselOf_code, bselOf_code]
  rfl

theorem RoundTrip.hbsync hb rd : Statement (.hbsync hb rd) := by
  intro hw x hx
  obtain rfl := Option.some.inj hx
  refine decode_of ?_ hw
  unfold rrfA
  refine (major_decodeMsg (rrf_26_6 _ _ _ _ _)).trans ?_
  simp only [decodeMsg, rrf_z15, rrf_z10, vfn_7_4, vfn_3_4, vfn_0_3, ffn_6_5, ffn_4_2, ffn_1_3, ffn_b0, afn_5_6, afn_0_5, afn_mod, afn_bit, hbM_0_4, hbM_b4, z14_0_4, z14_b4, z23_0_3, z23_3_2, z32_0_2, z32_3_2, z32_2_3, z32_b2, ktM_0_2, ktM_3_2, ktM_b2, rc23_3_2, rc23_0_3, rc32_2_3, rc32_0_2, obM_0_2, obM_b2, obM_b3, obM_b4, cvtF_9_2, cvtF_5_4, cvtF_2_3, cvtF_0_2, vcvtF_9_2, vcvtF_6_3, vcvtF_3_3, vcvtF_0_3, vscF_9_2, vscF_7_2, vscF_5_2, vscF_2_3, vscF_0_2, sfuF_8_3, sfuF_b7, sfuF_3_4, sfuF_0_3, rrf_21_5, rrf_16_5, rrf_11_5, rrf_rd, rrf_ra, rrf_rb, rrf_fn, rrf_bit, rrf_rb_bit, rrf_ra_bit, rrf_rd_bit, coded, need, BitVec.extractLsb'_eq_self, Nat.reduceLeDiff, Nat.reduceAdd, Nat.reduceSub, Nat.reduceLT, elemTyOf_code, rmOf_code, fmtOf3_code, hintOf_code, fsizeOf_code, redOpOf_code, voteKindOf_code, sgnOpOf_code, cmpOpOf_code, kOpOf_code, kCondOf_code, qOpOf_code, mtypeOf_code, scopeOf_code, ordOf_code, logOpOf_code, dirOf_code, topoOf_code, aselOf_code, bselOf_code]
  rfl

theorem RoundTrip.hbinv hb : Statement (.hbinv hb) := by
  intro hw x hx
  obtain rfl := Option.some.inj hx
  refine decode_of ?_ hw
  unfold rrfA
  refine (major_decodeMsg (rrf_26_6 _ _ _ _ _)).trans ?_
  simp only [decodeMsg, rrf_z15, rrf_z10, vfn_7_4, vfn_3_4, vfn_0_3, ffn_6_5, ffn_4_2, ffn_1_3, ffn_b0, afn_5_6, afn_0_5, afn_mod, afn_bit, hbM_0_4, hbM_b4, z14_0_4, z14_b4, z23_0_3, z23_3_2, z32_0_2, z32_3_2, z32_2_3, z32_b2, ktM_0_2, ktM_3_2, ktM_b2, rc23_3_2, rc23_0_3, rc32_2_3, rc32_0_2, obM_0_2, obM_b2, obM_b3, obM_b4, cvtF_9_2, cvtF_5_4, cvtF_2_3, cvtF_0_2, vcvtF_9_2, vcvtF_6_3, vcvtF_3_3, vcvtF_0_3, vscF_9_2, vscF_7_2, vscF_5_2, vscF_2_3, vscF_0_2, sfuF_8_3, sfuF_b7, sfuF_3_4, sfuF_0_3, rrf_21_5, rrf_16_5, rrf_11_5, rrf_rd, rrf_ra, rrf_rb, rrf_fn, rrf_bit, rrf_rb_bit, rrf_ra_bit, rrf_rd_bit, coded, need, BitVec.extractLsb'_eq_self, Nat.reduceLeDiff, Nat.reduceAdd, Nat.reduceSub, Nat.reduceLT, elemTyOf_code, rmOf_code, fmtOf3_code, hintOf_code, fsizeOf_code, redOpOf_code, voteKindOf_code, sgnOpOf_code, cmpOpOf_code, kOpOf_code, kCondOf_code, qOpOf_code, mtypeOf_code, scopeOf_code, ordOf_code, logOpOf_code, dirOf_code, topoOf_code, aselOf_code, bselOf_code]
  rfl

theorem RoundTrip.hbqry hb rd : Statement (.hbqry hb rd) := by
  intro hw x hx
  obtain rfl := Option.some.inj hx
  refine decode_of ?_ hw
  unfold rrfA
  refine (major_decodeMsg (rrf_26_6 _ _ _ _ _)).trans ?_
  simp only [decodeMsg, rrf_z15, rrf_z10, vfn_7_4, vfn_3_4, vfn_0_3, ffn_6_5, ffn_4_2, ffn_1_3, ffn_b0, afn_5_6, afn_0_5, afn_mod, afn_bit, hbM_0_4, hbM_b4, z14_0_4, z14_b4, z23_0_3, z23_3_2, z32_0_2, z32_3_2, z32_2_3, z32_b2, ktM_0_2, ktM_3_2, ktM_b2, rc23_3_2, rc23_0_3, rc32_2_3, rc32_0_2, obM_0_2, obM_b2, obM_b3, obM_b4, cvtF_9_2, cvtF_5_4, cvtF_2_3, cvtF_0_2, vcvtF_9_2, vcvtF_6_3, vcvtF_3_3, vcvtF_0_3, vscF_9_2, vscF_7_2, vscF_5_2, vscF_2_3, vscF_0_2, sfuF_8_3, sfuF_b7, sfuF_3_4, sfuF_0_3, rrf_21_5, rrf_16_5, rrf_11_5, rrf_rd, rrf_ra, rrf_rb, rrf_fn, rrf_bit, rrf_rb_bit, rrf_ra_bit, rrf_rd_bit, coded, need, BitVec.extractLsb'_eq_self, Nat.reduceLeDiff, Nat.reduceAdd, Nat.reduceSub, Nat.reduceLT, elemTyOf_code, rmOf_code, fmtOf3_code, hintOf_code, fsizeOf_code, redOpOf_code, voteKindOf_code, sgnOpOf_code, cmpOpOf_code, kOpOf_code, kCondOf_code, qOpOf_code, mtypeOf_code, scopeOf_code, ordOf_code, logOpOf_code, dirOf_code, topoOf_code, aselOf_code, bselOf_code]
  rfl

theorem RoundTrip.launch rd ra : Statement (.launch rd ra) := by
  intro hw x hx
  obtain rfl := Option.some.inj hx
  refine decode_of ?_ hw
  unfold rrfA
  refine (major_decodeTask (rrf_26_6 _ _ _ _ _)).trans ?_
  simp only [decodeTask, rrf_z15, rrf_z10, vfn_7_4, vfn_3_4, vfn_0_3, ffn_6_5, ffn_4_2, ffn_1_3, ffn_b0, afn_5_6, afn_0_5, afn_mod, afn_bit, hbM_0_4, hbM_b4, z14_0_4, z14_b4, z23_0_3, z23_3_2, z32_0_2, z32_3_2, z32_2_3, z32_b2, ktM_0_2, ktM_3_2, ktM_b2, rc23_3_2, rc23_0_3, rc32_2_3, rc32_0_2, obM_0_2, obM_b2, obM_b3, obM_b4, cvtF_9_2, cvtF_5_4, cvtF_2_3, cvtF_0_2, vcvtF_9_2, vcvtF_6_3, vcvtF_3_3, vcvtF_0_3, vscF_9_2, vscF_7_2, vscF_5_2, vscF_2_3, vscF_0_2, sfuF_8_3, sfuF_b7, sfuF_3_4, sfuF_0_3, rrf_21_5, rrf_16_5, rrf_11_5, rrf_rd, rrf_ra, rrf_rb, rrf_fn, rrf_bit, rrf_rb_bit, rrf_ra_bit, rrf_rd_bit, coded, need, BitVec.extractLsb'_eq_self, Nat.reduceLeDiff, Nat.reduceAdd, Nat.reduceSub, Nat.reduceLT, elemTyOf_code, rmOf_code, fmtOf3_code, hintOf_code, fsizeOf_code, redOpOf_code, voteKindOf_code, sgnOpOf_code, cmpOpOf_code, kOpOf_code, kCondOf_code, qOpOf_code, mtypeOf_code, scopeOf_code, ordOf_code, logOpOf_code, dirOf_code, topoOf_code, aselOf_code, bselOf_code]
  rfl

theorem RoundTrip.joinwait rd : Statement (.joinwait rd) := by
  intro hw x hx
  obtain rfl := Option.some.inj hx
  refine decode_of ?_ hw
  unfold rrfA
  refine (major_decodeTask (rrf_26_6 _ _ _ _ _)).trans ?_
  simp only [decodeTask, rrf_z15, rrf_z10, vfn_7_4, vfn_3_4, vfn_0_3, ffn_6_5, ffn_4_2, ffn_1_3, ffn_b0, afn_5_6, afn_0_5, afn_mod, afn_bit, hbM_0_4, hbM_b4, z14_0_4, z14_b4, z23_0_3, z23_3_2, z32_0_2, z32_3_2, z32_2_3, z32_b2, ktM_0_2, ktM_3_2, ktM_b2, rc23_3_2, rc23_0_3, rc32_2_3, rc32_0_2, obM_0_2, obM_b2, obM_b3, obM_b4, cvtF_9_2, cvtF_5_4, cvtF_2_3, cvtF_0_2, vcvtF_9_2, vcvtF_6_3, vcvtF_3_3, vcvtF_0_3, vscF_9_2, vscF_7_2, vscF_5_2, vscF_2_3, vscF_0_2, sfuF_8_3, sfuF_b7, sfuF_3_4, sfuF_0_3, rrf_21_5, rrf_16_5, rrf_11_5, rrf_rd, rrf_ra, rrf_rb, rrf_fn, rrf_bit, rrf_rb_bit, rrf_ra_bit, rrf_rd_bit, coded, need, BitVec.extractLsb'_eq_self, Nat.reduceLeDiff, Nat.reduceAdd, Nat.reduceSub, Nat.reduceLT, elemTyOf_code, rmOf_code, fmtOf3_code, hintOf_code, fsizeOf_code, redOpOf_code, voteKindOf_code, sgnOpOf_code, cmpOpOf_code, kOpOf_code, kCondOf_code, qOpOf_code, mtypeOf_code, scopeOf_code, ordOf_code, logOpOf_code, dirOf_code, topoOf_code, aselOf_code, bselOf_code]
  rfl

theorem RoundTrip.depalloc rd ra : Statement (.depalloc rd ra) := by
  intro hw x hx
  obtain rfl := Option.some.inj hx
  refine decode_of ?_ hw
  unfold rrfA
  refine (major_decodeTask (rrf_26_6 _ _ _ _ _)).trans ?_
  simp only [decodeTask, rrf_z15, rrf_z10, vfn_7_4, vfn_3_4, vfn_0_3, ffn_6_5, ffn_4_2, ffn_1_3, ffn_b0, afn_5_6, afn_0_5, afn_mod, afn_bit, hbM_0_4, hbM_b4, z14_0_4, z14_b4, z23_0_3, z23_3_2, z32_0_2, z32_3_2, z32_2_3, z32_b2, ktM_0_2, ktM_3_2, ktM_b2, rc23_3_2, rc23_0_3, rc32_2_3, rc32_0_2, obM_0_2, obM_b2, obM_b3, obM_b4, cvtF_9_2, cvtF_5_4, cvtF_2_3, cvtF_0_2, vcvtF_9_2, vcvtF_6_3, vcvtF_3_3, vcvtF_0_3, vscF_9_2, vscF_7_2, vscF_5_2, vscF_2_3, vscF_0_2, sfuF_8_3, sfuF_b7, sfuF_3_4, sfuF_0_3, rrf_21_5, rrf_16_5, rrf_11_5, rrf_rd, rrf_ra, rrf_rb, rrf_fn, rrf_bit, rrf_rb_bit, rrf_ra_bit, rrf_rd_bit, coded, need, BitVec.extractLsb'_eq_self, Nat.reduceLeDiff, Nat.reduceAdd, Nat.reduceSub, Nat.reduceLT, elemTyOf_code, rmOf_code, fmtOf3_code, hintOf_code, fsizeOf_code, redOpOf_code, voteKindOf_code, sgnOpOf_code, cmpOpOf_code, kOpOf_code, kCondOf_code, qOpOf_code, mtypeOf_code, scopeOf_code, ordOf_code, logOpOf_code, dirOf_code, topoOf_code, aselOf_code, bselOf_code]
  rfl

theorem RoundTrip.depsig ra : Statement (.depsig ra) := by
  intro hw x hx
  obtain rfl := Option.some.inj hx
  refine decode_of ?_ hw
  unfold rrfA
  refine (major_decodeTask (rrf_26_6 _ _ _ _ _)).trans ?_
  simp only [decodeTask, rrf_z15, rrf_z10, vfn_7_4, vfn_3_4, vfn_0_3, ffn_6_5, ffn_4_2, ffn_1_3, ffn_b0, afn_5_6, afn_0_5, afn_mod, afn_bit, hbM_0_4, hbM_b4, z14_0_4, z14_b4, z23_0_3, z23_3_2, z32_0_2, z32_3_2, z32_2_3, z32_b2, ktM_0_2, ktM_3_2, ktM_b2, rc23_3_2, rc23_0_3, rc32_2_3, rc32_0_2, obM_0_2, obM_b2, obM_b3, obM_b4, cvtF_9_2, cvtF_5_4, cvtF_2_3, cvtF_0_2, vcvtF_9_2, vcvtF_6_3, vcvtF_3_3, vcvtF_0_3, vscF_9_2, vscF_7_2, vscF_5_2, vscF_2_3, vscF_0_2, sfuF_8_3, sfuF_b7, sfuF_3_4, sfuF_0_3, rrf_21_5, rrf_16_5, rrf_11_5, rrf_rd, rrf_ra, rrf_rb, rrf_fn, rrf_bit, rrf_rb_bit, rrf_ra_bit, rrf_rd_bit, coded, need, BitVec.extractLsb'_eq_self, Nat.reduceLeDiff, Nat.reduceAdd, Nat.reduceSub, Nat.reduceLT, elemTyOf_code, rmOf_code, fmtOf3_code, hintOf_code, fsizeOf_code, redOpOf_code, voteKindOf_code, sgnOpOf_code, cmpOpOf_code, kOpOf_code, kCondOf_code, qOpOf_code, mtypeOf_code, scopeOf_code, ordOf_code, logOpOf_code, dirOf_code, topoOf_code, aselOf_code, bselOf_code]
  rfl

theorem RoundTrip.depfree rd ra : Statement (.depfree rd ra) := by
  intro hw x hx
  obtain rfl := Option.some.inj hx
  refine decode_of ?_ hw
  unfold rrfA
  refine (major_decodeTask (rrf_26_6 _ _ _ _ _)).trans ?_
  simp only [decodeTask, rrf_z15, rrf_z10, vfn_7_4, vfn_3_4, vfn_0_3, ffn_6_5, ffn_4_2, ffn_1_3, ffn_b0, afn_5_6, afn_0_5, afn_mod, afn_bit, hbM_0_4, hbM_b4, z14_0_4, z14_b4, z23_0_3, z23_3_2, z32_0_2, z32_3_2, z32_2_3, z32_b2, ktM_0_2, ktM_3_2, ktM_b2, rc23_3_2, rc23_0_3, rc32_2_3, rc32_0_2, obM_0_2, obM_b2, obM_b3, obM_b4, cvtF_9_2, cvtF_5_4, cvtF_2_3, cvtF_0_2, vcvtF_9_2, vcvtF_6_3, vcvtF_3_3, vcvtF_0_3, vscF_9_2, vscF_7_2, vscF_5_2, vscF_2_3, vscF_0_2, sfuF_8_3, sfuF_b7, sfuF_3_4, sfuF_0_3, rrf_21_5, rrf_16_5, rrf_11_5, rrf_rd, rrf_ra, rrf_rb, rrf_fn, rrf_bit, rrf_rb_bit, rrf_ra_bit, rrf_rd_bit, coded, need, BitVec.extractLsb'_eq_self, Nat.reduceLeDiff, Nat.reduceAdd, Nat.reduceSub, Nat.reduceLT, elemTyOf_code, rmOf_code, fmtOf3_code, hintOf_code, fsizeOf_code, redOpOf_code, voteKindOf_code, sgnOpOf_code, cmpOpOf_code, kOpOf_code, kCondOf_code, qOpOf_code, mtypeOf_code, scopeOf_code, ordOf_code, logOpOf_code, dirOf_code, topoOf_code, aselOf_code, bselOf_code]
  rfl

theorem RoundTrip.yield  : Statement (.yield ) := by
  intro hw x hx
  obtain rfl := Option.some.inj hx
  refine decode_of ?_ hw
  unfold rrfA
  refine (major_decodeTask (rrf_26_6 _ _ _ _ _)).trans ?_
  simp only [decodeTask, rrf_z15, rrf_z10, vfn_7_4, vfn_3_4, vfn_0_3, ffn_6_5, ffn_4_2, ffn_1_3, ffn_b0, afn_5_6, afn_0_5, afn_mod, afn_bit, hbM_0_4, hbM_b4, z14_0_4, z14_b4, z23_0_3, z23_3_2, z32_0_2, z32_3_2, z32_2_3, z32_b2, ktM_0_2, ktM_3_2, ktM_b2, rc23_3_2, rc23_0_3, rc32_2_3, rc32_0_2, obM_0_2, obM_b2, obM_b3, obM_b4, cvtF_9_2, cvtF_5_4, cvtF_2_3, cvtF_0_2, vcvtF_9_2, vcvtF_6_3, vcvtF_3_3, vcvtF_0_3, vscF_9_2, vscF_7_2, vscF_5_2, vscF_2_3, vscF_0_2, sfuF_8_3, sfuF_b7, sfuF_3_4, sfuF_0_3, rrf_21_5, rrf_16_5, rrf_11_5, rrf_rd, rrf_ra, rrf_rb, rrf_fn, rrf_bit, rrf_rb_bit, rrf_ra_bit, rrf_rd_bit, coded, need, BitVec.extractLsb'_eq_self, Nat.reduceLeDiff, Nat.reduceAdd, Nat.reduceSub, Nat.reduceLT, elemTyOf_code, rmOf_code, fmtOf3_code, hintOf_code, fsizeOf_code, redOpOf_code, voteKindOf_code, sgnOpOf_code, cmpOpOf_code, kOpOf_code, kCondOf_code, qOpOf_code, mtypeOf_code, scopeOf_code, ordOf_code, logOpOf_code, dirOf_code, topoOf_code, aselOf_code, bselOf_code]
  rfl

theorem RoundTrip.exit  : Statement (.exit ) := by
  intro hw x hx
  obtain rfl := Option.some.inj hx
  refine decode_of ?_ hw
  unfold rrfA
  refine (major_decodeTask (rrf_26_6 _ _ _ _ _)).trans ?_
  simp only [decodeTask, rrf_z15, rrf_z10, vfn_7_4, vfn_3_4, vfn_0_3, ffn_6_5, ffn_4_2, ffn_1_3, ffn_b0, afn_5_6, afn_0_5, afn_mod, afn_bit, hbM_0_4, hbM_b4, z14_0_4, z14_b4, z23_0_3, z23_3_2, z32_0_2, z32_3_2, z32_2_3, z32_b2, ktM_0_2, ktM_3_2, ktM_b2, rc23_3_2, rc23_0_3, rc32_2_3, rc32_0_2, obM_0_2, obM_b2, obM_b3, obM_b4, cvtF_9_2, cvtF_5_4, cvtF_2_3, cvtF_0_2, vcvtF_9_2, vcvtF_6_3, vcvtF_3_3, vcvtF_0_3, vscF_9_2, vscF_7_2, vscF_5_2, vscF_2_3, vscF_0_2, sfuF_8_3, sfuF_b7, sfuF_3_4, sfuF_0_3, rrf_21_5, rrf_16_5, rrf_11_5, rrf_rd, rrf_ra, rrf_rb, rrf_fn, rrf_bit, rrf_rb_bit, rrf_ra_bit, rrf_rd_bit, coded, need, BitVec.extractLsb'_eq_self, Nat.reduceLeDiff, Nat.reduceAdd, Nat.reduceSub, Nat.reduceLT, elemTyOf_code, rmOf_code, fmtOf3_code, hintOf_code, fsizeOf_code, redOpOf_code, voteKindOf_code, sgnOpOf_code, cmpOpOf_code, kOpOf_code, kCondOf_code, qOpOf_code, mtypeOf_code, scopeOf_code, ordOf_code, logOpOf_code, dirOf_code, topoOf_code, aselOf_code, bselOf_code]
  rfl

theorem RoundTrip.csrr n rd : Statement (.csrr n rd) := by
  intro hw x hx
  obtain rfl := Option.some.inj hx
  refine decode_of ?_ hw
  refine (major_decodeSys (sysw_26_6 _ _ _ _)).trans ?_
  simp only [decodeSys, sysw_21_5, sysw_16_5, sysw_4_12, sysw_0_4, sysw_n, tlbN_7_5, tlbN_0_7, featN_8_4, featN_0_8, coded, need, BitVec.extractLsb'_eq_self, Nat.reduceLeDiff, Nat.reduceAdd, Nat.reduceSub, Nat.reduceLT, elemTyOf_code, rmOf_code, fmtOf3_code, hintOf_code, fsizeOf_code, redOpOf_code, voteKindOf_code, sgnOpOf_code, cmpOpOf_code, kOpOf_code, kCondOf_code, qOpOf_code, mtypeOf_code, scopeOf_code, ordOf_code, logOpOf_code, dirOf_code, topoOf_code, aselOf_code, bselOf_code]
  rfl

theorem RoundTrip.csrw n ra : Statement (.csrw n ra) := by
  intro hw x hx
  obtain rfl := Option.some.inj hx
  refine decode_of ?_ hw
  refine (major_decodeSys (sysw_26_6 _ _ _ _)).trans ?_
  simp only [decodeSys, sysw_21_5, sysw_16_5, sysw_4_12, sysw_0_4, sysw_n, tlbN_7_5, tlbN_0_7, featN_8_4, featN_0_8, coded, need, BitVec.extractLsb'_eq_self, Nat.reduceLeDiff, Nat.reduceAdd, Nat.reduceSub, Nat.reduceLT, elemTyOf_code, rmOf_code, fmtOf3_code, hintOf_code, fsizeOf_code, redOpOf_code, voteKindOf_code, sgnOpOf_code, cmpOpOf_code, kOpOf_code, kCondOf_code, qOpOf_code, mtypeOf_code, scopeOf_code, ordOf_code, logOpOf_code, dirOf_code, topoOf_code, aselOf_code, bselOf_code]
  rfl

theorem RoundTrip.trap c : Statement (.trap c) := by
  intro hw x hx
  obtain rfl := Option.some.inj hx
  refine decode_of ?_ hw
  refine (major_decodeSys (sysw_26_6 _ _ _ _)).trans ?_
  simp only [decodeSys, sysw_21_5, sysw_16_5, sysw_4_12, sysw_0_4, sysw_n, tlbN_7_5, tlbN_0_7, featN_8_4, featN_0_8, coded, need, BitVec.extractLsb'_eq_self, Nat.reduceLeDiff, Nat.reduceAdd, Nat.reduceSub, Nat.reduceLT, elemTyOf_code, rmOf_code, fmtOf3_code, hintOf_code, fsizeOf_code, redOpOf_code, voteKindOf_code, sgnOpOf_code, cmpOpOf_code, kOpOf_code, kCondOf_code, qOpOf_code, mtypeOf_code, scopeOf_code, ordOf_code, logOpOf_code, dirOf_code, topoOf_code, aselOf_code, bselOf_code]
  rfl

theorem RoundTrip.tret  : Statement (.tret ) := by
  intro hw x hx
  obtain rfl := Option.some.inj hx
  refine decode_of ?_ hw
  refine (major_decodeSys (sysw_26_6 _ _ _ _)).trans ?_
  simp only [decodeSys, sysw_21_5, sysw_16_5, sysw_4_12, sysw_0_4, sysw_n, tlbN_7_5, tlbN_0_7, featN_8_4, featN_0_8, coded, need, BitVec.extractLsb'_eq_self, Nat.reduceLeDiff, Nat.reduceAdd, Nat.reduceSub, Nat.reduceLT, elemTyOf_code, rmOf_code, fmtOf3_code, hintOf_code, fsizeOf_code, redOpOf_code, voteKindOf_code, sgnOpOf_code, cmpOpOf_code, kOpOf_code, kCondOf_code, qOpOf_code, mtypeOf_code, scopeOf_code, ordOf_code, logOpOf_code, dirOf_code, topoOf_code, aselOf_code, bselOf_code]
  rfl

theorem RoundTrip.featq c i rd : Statement (.featq c i rd) := by
  intro hw x hx
  obtain rfl := Option.some.inj hx
  refine decode_of ?_ hw
  refine (major_decodeSys (sysw_26_6 _ _ _ _)).trans ?_
  simp only [decodeSys, sysw_21_5, sysw_16_5, sysw_4_12, sysw_0_4, sysw_n, tlbN_7_5, tlbN_0_7, featN_8_4, featN_0_8, coded, need, BitVec.extractLsb'_eq_self, Nat.reduceLeDiff, Nat.reduceAdd, Nat.reduceSub, Nat.reduceLT, elemTyOf_code, rmOf_code, fmtOf3_code, hintOf_code, fsizeOf_code, redOpOf_code, voteKindOf_code, sgnOpOf_code, cmpOpOf_code, kOpOf_code, kCondOf_code, qOpOf_code, mtypeOf_code, scopeOf_code, ordOf_code, logOpOf_code, dirOf_code, topoOf_code, aselOf_code, bselOf_code]
  rfl

theorem RoundTrip.brk c : Statement (.brk c) := by
  intro hw x hx
  obtain rfl := Option.some.inj hx
  refine decode_of ?_ hw
  refine (major_decodeSys (sysw_26_6 _ _ _ _)).trans ?_
  simp only [decodeSys, sysw_21_5, sysw_16_5, sysw_4_12, sysw_0_4, sysw_n, tlbN_7_5, tlbN_0_7, featN_8_4, featN_0_8, coded, need, BitVec.extractLsb'_eq_self, Nat.reduceLeDiff, Nat.reduceAdd, Nat.reduceSub, Nat.reduceLT, elemTyOf_code, rmOf_code, fmtOf3_code, hintOf_code, fsizeOf_code, redOpOf_code, voteKindOf_code, sgnOpOf_code, cmpOpOf_code, kOpOf_code, kCondOf_code, qOpOf_code, mtypeOf_code, scopeOf_code, ordOf_code, logOpOf_code, dirOf_code, topoOf_code, aselOf_code, bselOf_code]
  rfl

theorem RoundTrip.tlbw ra rb : Statement (.tlbw ra rb) := by
  intro hw x hx
  obtain rfl := Option.some.inj hx
  refine decode_of ?_ hw
  refine (major_decodeSys (sysw_26_6 _ _ _ _)).trans ?_
  simp only [decodeSys, sysw_21_5, sysw_16_5, sysw_4_12, sysw_0_4, sysw_n, tlbN_7_5, tlbN_0_7, featN_8_4, featN_0_8, coded, need, BitVec.extractLsb'_eq_self, Nat.reduceLeDiff, Nat.reduceAdd, Nat.reduceSub, Nat.reduceLT, elemTyOf_code, rmOf_code, fmtOf3_code, hintOf_code, fsizeOf_code, redOpOf_code, voteKindOf_code, sgnOpOf_code, cmpOpOf_code, kOpOf_code, kCondOf_code, qOpOf_code, mtypeOf_code, scopeOf_code, ordOf_code, logOpOf_code, dirOf_code, topoOf_code, aselOf_code, bselOf_code]
  rfl

theorem RoundTrip.tlbinv ra rb : Statement (.tlbinv ra rb) := by
  intro hw x hx
  obtain rfl := Option.some.inj hx
  refine decode_of ?_ hw
  refine (major_decodeSys (sysw_26_6 _ _ _ _)).trans ?_
  simp only [decodeSys, sysw_21_5, sysw_16_5, sysw_4_12, sysw_0_4, sysw_n, tlbN_7_5, tlbN_0_7, featN_8_4, featN_0_8, coded, need, BitVec.extractLsb'_eq_self, Nat.reduceLeDiff, Nat.reduceAdd, Nat.reduceSub, Nat.reduceLT, elemTyOf_code, rmOf_code, fmtOf3_code, hintOf_code, fsizeOf_code, redOpOf_code, voteKindOf_code, sgnOpOf_code, cmpOpOf_code, kOpOf_code, kCondOf_code, qOpOf_code, mtypeOf_code, scopeOf_code, ordOf_code, logOpOf_code, dirOf_code, topoOf_code, aselOf_code, bselOf_code]
  rfl

theorem RoundTrip.ctxsv ra : Statement (.ctxsv ra) := by
  intro hw x hx
  obtain rfl := Option.some.inj hx
  refine decode_of ?_ hw
  refine (major_decodeSys (sysw_26_6 _ _ _ _)).trans ?_
  simp only [decodeSys, sysw_21_5, sysw_16_5, sysw_4_12, sysw_0_4, sysw_n, tlbN_7_5, tlbN_0_7, featN_8_4, featN_0_8, coded, need, BitVec.extractLsb'_eq_self, Nat.reduceLeDiff, Nat.reduceAdd, Nat.reduceSub, Nat.reduceLT, elemTyOf_code, rmOf_code, fmtOf3_code, hintOf_code, fsizeOf_code, redOpOf_code, voteKindOf_code, sgnOpOf_code, cmpOpOf_code, kOpOf_code, kCondOf_code, qOpOf_code, mtypeOf_code, scopeOf_code, ordOf_code, logOpOf_code, dirOf_code, topoOf_code, aselOf_code, bselOf_code]
  rfl

theorem RoundTrip.ctxld ra : Statement (.ctxld ra) := by
  intro hw x hx
  obtain rfl := Option.some.inj hx
  refine decode_of ?_ hw
  refine (major_decodeSys (sysw_26_6 _ _ _ _)).trans ?_
  simp only [decodeSys, sysw_21_5, sysw_16_5, sysw_4_12, sysw_0_4, sysw_n, tlbN_7_5, tlbN_0_7, featN_8_4, featN_0_8, coded, need, BitVec.extractLsb'_eq_self, Nat.reduceLeDiff, Nat.reduceAdd, Nat.reduceSub, Nat.reduceLT, elemTyOf_code, rmOf_code, fmtOf3_code, hintOf_code, fsizeOf_code, redOpOf_code, voteKindOf_code, sgnOpOf_code, cmpOpOf_code, kOpOf_code, kCondOf_code, qOpOf_code, mtypeOf_code, scopeOf_code, ordOf_code, logOpOf_code, dirOf_code, topoOf_code, aselOf_code, bselOf_code]
  rfl

theorem RoundTrip.clause wt f1 f2 l : Statement (.clause wt f1 f2 l) := by
  intro hw x hx
  obtain rfl := Option.some.inj hx
  refine decode_of ?_ hw
  refine (major_decodeClause (clause_26_6 wt f1 f2 l)).trans ?_
  simp only [decodeClause, clause_14_12, clause_10_4, clause_6_4, clause_3_3, clause_0_3, coded, need, BitVec.extractLsb'_eq_self, Nat.reduceLeDiff, Nat.reduceAdd, Nat.reduceSub, Nat.reduceLT, elemTyOf_code, rmOf_code, fmtOf3_code, hintOf_code, fsizeOf_code, redOpOf_code, voteKindOf_code, sgnOpOf_code, cmpOpOf_code, kOpOf_code, kCondOf_code, qOpOf_code, mtypeOf_code, scopeOf_code, ordOf_code, logOpOf_code, dirOf_code, topoOf_code, aselOf_code, bselOf_code]
  rfl

theorem RoundTrip.illegalInstruction x0 : Statement (.illegalInstruction x0) := by
  intro _ w h
  cases h

theorem RoundTrip.groupForm x0 x1 x2 x3 : Statement (.groupForm x0 x1 x2 x3) := by
  intro _ w h
  cases h

theorem RoundTrip.refusion x0 x1 : Statement (.refusion x0 x1) := by
  intro _ w h
  cases h

theorem RoundTrip.lowOccupancySplit x0 x1 : Statement (.lowOccupancySplit x0 x1) := by
  intro _ w h
  cases h

theorem RoundTrip.translationWalk x0 x1 : Statement (.translationWalk x0 x1) := by
  intro _ w h
  cases h

theorem RoundTrip.faultRecordPost  : Statement (.faultRecordPost ) := by
  intro _ w h
  cases h

theorem RoundTrip.pendingResult x0 x1 x2 : Statement (.pendingResult x0 x1 x2) := by
  intro _ w h
  cases h

theorem RoundTrip.completionEvent x0 : Statement (.completionEvent x0) := by
  intro _ w h
  cases h

theorem RoundTrip.remoteStoreArrive x0 : Statement (.remoteStoreArrive x0) := by
  intro _ w h
  cases h

theorem RoundTrip.remoteStoreAck x0 : Statement (.remoteStoreAck x0) := by
  intro _ w h
  cases h

theorem RoundTrip.l1Eviction x0 x1 : Statement (.l1Eviction x0 x1) := by
  intro _ w h
  cases h

theorem RoundTrip.epochEnd  : Statement (.epochEnd ) := by
  intro _ w h
  cases h

theorem RoundTrip.txAbort x0 x1 : Statement (.txAbort x0 x1) := by
  intro _ w h
  cases h

theorem RoundTrip.matrixQueueStart x0 x1 : Statement (.matrixQueueStart x0 x1) := by
  intro _ w h
  cases h

theorem RoundTrip.matrixRetire x0 x1 : Statement (.matrixRetire x0 x1) := by
  intro _ w h
  cases h

theorem RoundTrip.portValueArrive x0 x1 x2 x3 : Statement (.portValueArrive x0 x1 x2 x3) := by
  intro _ w h
  cases h

theorem RoundTrip.portCreditArrive x0 x1 x2 x3 : Statement (.portCreditArrive x0 x1 x2 x3) := by
  intro _ w h
  cases h

theorem RoundTrip.messageArrive x0 : Statement (.messageArrive x0) := by
  intro _ w h
  cases h

theorem RoundTrip.sendRefusal x0 : Statement (.sendRefusal x0) := by
  intro _ w h
  cases h

theorem RoundTrip.taskActivate x0 x1 : Statement (.taskActivate x0 x1) := by
  intro _ w h
  cases h

theorem RoundTrip.taskWatchdog x0 x1 : Statement (.taskWatchdog x0 x1) := by
  intro _ w h
  cases h

theorem RoundTrip.waitWatchdog x0 x1 : Statement (.waitWatchdog x0 x1) := by
  intro _ w h
  cases h

theorem RoundTrip.critExpiry x0 x1 : Statement (.critExpiry x0 x1) := by
  intro _ w h
  cases h

theorem RoundTrip.copy x0 x1 : Statement (.copy x0 x1) := by
  intro _ w h
  cases h

theorem RoundTrip.copyz x0 x1 : Statement (.copyz x0 x1) := by
  intro _ w h
  cases h

theorem RoundTrip.tensor x0 x1 : Statement (.tensor x0 x1) := by
  intro _ w h
  cases h

theorem RoundTrip.gather x0 x1 : Statement (.gather x0 x1) := by
  intro _ w h
  cases h

theorem RoundTrip.scatter x0 x1 : Statement (.scatter x0 x1) := by
  intro _ w h
  cases h

theorem RoundTrip.fillob x0 x1 : Statement (.fillob x0 x1) := by
  intro _ w h
  cases h

theorem RoundTrip.mcast x0 x1 : Statement (.mcast x0 x1) := by
  intro _ w h
  cases h

theorem RoundTrip.wopen x0 x1 : Statement (.wopen x0 x1) := by
  intro _ w h
  cases h

theorem RoundTrip.wclose x0 x1 : Statement (.wclose x0 x1) := by
  intro _ w h
  cases h

theorem RoundTrip.mcastPacketArrive x0 : Statement (.mcastPacketArrive x0) := by
  intro _ w h
  cases h

theorem RoundTrip.allred x0 : Statement (.allred x0) := by
  intro _ w h
  cases h

theorem RoundTrip.redscat x0 : Statement (.redscat x0) := by
  intro _ w h
  cases h

theorem RoundTrip.allgath x0 : Statement (.allgath x0) := by
  intro _ w h
  cases h

theorem RoundTrip.bcast x0 : Statement (.bcast x0) := by
  intro _ w h
  cases h

theorem RoundTrip.collectiveStart x0 x1 : Statement (.collectiveStart x0 x1) := by
  intro _ w h
  cases h

theorem RoundTrip.sread x0 : Statement (.sread x0) := by
  intro _ w h
  cases h

theorem RoundTrip.swrite x0 : Statement (.swrite x0) := by
  intro _ w h
  cases h

theorem RoundTrip.sflush x0 : Statement (.sflush x0) := by
  intro _ w h
  cases h

theorem RoundTrip.storageSubmit x0 : Statement (.storageSubmit x0) := by
  intro _ w h
  cases h

theorem RoundTrip.storageCompletion x0 : Statement (.storageCompletion x0) := by
  intro _ w h
  cases h

theorem RoundTrip.commandComplete x0 : Statement (.commandComplete x0) := by
  intro _ w h
  cases h

theorem RoundTrip.doorbell x0 x1 x2 : Statement (.doorbell x0 x1 x2) := by
  intro _ w h
  cases h

theorem RoundTrip.launchQueueTake x0 : Statement (.launchQueueTake x0) := by
  intro _ w h
  cases h

theorem RoundTrip.rangeListStaging x0 : Statement (.rangeListStaging x0) := by
  intro _ w h
  cases h

theorem RoundTrip.dispatchPlace  : Statement (.dispatchPlace ) := by
  intro _ w h
  cases h

theorem RoundTrip.levelAging x0 : Statement (.levelAging x0) := by
  intro _ w h
  cases h

theorem RoundTrip.gatherExpiry x0 : Statement (.gatherExpiry x0) := by
  intro _ w h
  cases h

theorem RoundTrip.joinspinExpiry x0 : Statement (.joinspinExpiry x0) := by
  intro _ w h
  cases h

theorem RoundTrip.workgroupSave x0 : Statement (.workgroupSave x0) := by
  intro _ w h
  cases h

theorem RoundTrip.workgroupRestore x0 : Statement (.workgroupRestore x0) := by
  intro _ w h
  cases h

theorem RoundTrip.srseedWrite x0 : Statement (.srseedWrite x0) := by
  intro _ w h
  cases h

theorem RoundTrip.featsetWrite x0 x1 : Statement (.featsetWrite x0 x1) := by
  intro _ w h
  cases h

theorem RoundTrip.frespRetry x0 : Statement (.frespRetry x0) := by
  intro _ w h
  cases h

theorem RoundTrip.frespKill x0 : Statement (.frespKill x0) := by
  intro _ w h
  cases h

theorem RoundTrip.frespDeliver x0 : Statement (.frespDeliver x0) := by
  intro _ w h
  cases h

theorem RoundTrip.preempt x0 x1 x2 : Statement (.preempt x0 x1 x2) := by
  intro _ w h
  cases h

theorem RoundTrip.resume x0 : Statement (.resume x0) := by
  intro _ w h
  cases h

theorem RoundTrip.semvalWrite x0 : Statement (.semvalWrite x0) := by
  intro _ w h
  cases h

theorem RoundTrip.semvalRead x0 : Statement (.semvalRead x0) := by
  intro _ w h
  cases h

theorem RoundTrip.depvalWrite x0 : Statement (.depvalWrite x0) := by
  intro _ w h
  cases h

theorem RoundTrip.objectVerify x0 : Statement (.objectVerify x0) := by
  intro _ w h
  cases h

theorem RoundTrip.regkey  : Statement (.regkey ) := by
  intro _ w h
  cases h

theorem RoundTrip.delkey  : Statement (.delkey ) := by
  intro _ w h
  cases h

theorem RoundTrip.attest  : Statement (.attest ) := by
  intro _ w h
  cases h

theorem RoundTrip.setdev  : Statement (.setdev ) := by
  intro _ w h
  cases h

theorem RoundTrip.bindvf  : Statement (.bindvf ) := by
  intro _ w h
  cases h

theorem RoundTrip.pwrcap  : Statement (.pwrcap ) := by
  intro _ w h
  cases h

theorem RoundTrip.telem  : Statement (.telem ) := by
  intro _ w h
  cases h

theorem RoundTrip.aperture  : Statement (.aperture ) := by
  intro _ w h
  cases h

theorem RoundTrip.mailboxBadcmd  : Statement (.mailboxBadcmd ) := by
  intro _ w h
  cases h

theorem RoundTrip.storageQueueTableWrite x0 x1 x2 : Statement (.storageQueueTableWrite x0 x1 x2) := by
  intro _ w h
  cases h

theorem RoundTrip.hostWrite x0 x1 x2 : Statement (.hostWrite x0 x1 x2) := by
  intro _ w h
  cases h

theorem RoundTrip.hostRead x0 x1 x2 : Statement (.hostRead x0 x1 x2) := by
  intro _ w h
  cases h

theorem RoundTrip.hostAtomicop x0 x1 x2 x3 x4 x5 : Statement (.hostAtomicop x0 x1 x2 x3 x4 x5) := by
  intro _ w h
  cases h

theorem RoundTrip.dataFlit x0 x1 : Statement (.dataFlit x0 x1) := by
  intro _ w h
  cases h

theorem RoundTrip.idleFlit x0 x1 : Statement (.idleFlit x0 x1) := by
  intro _ w h
  cases h

theorem RoundTrip.nak x0 x1 : Statement (.nak x0 x1) := by
  intro _ w h
  cases h

theorem RoundTrip.audit x0 x1 : Statement (.audit x0 x1) := by
  intro _ w h
  cases h

theorem RoundTrip.auditDue x0 : Statement (.auditDue x0) := by
  intro _ w h
  cases h

theorem RoundTrip.portRetrain x0 x1 : Statement (.portRetrain x0 x1) := by
  intro _ w h
  cases h

theorem RoundTrip.linkRequestTimeout x0 : Statement (.linkRequestTimeout x0) := by
  intro _ w h
  cases h

theorem RoundTrip.jointFailure  : Statement (.jointFailure ) := by
  intro _ w h
  cases h

theorem RoundTrip.powerOn x0 : Statement (.powerOn x0) := by
  intro _ w h
  cases h

theorem RoundTrip.moduleReset  : Statement (.moduleReset ) := by
  intro _ w h
  cases h

theorem RoundTrip.linkUp x0 x1 : Statement (.linkUp x0 x1) := by
  intro _ w h
  cases h

theorem RoundTrip.softError x0 : Statement (.softError x0) := by
  intro _ w h
  cases h

theorem RoundTrip.arithmeticClockChange x0 : Statement (.arithmeticClockChange x0) := by
  intro _ w h
  cases h

theorem RoundTrip.powerLoss  : Statement (.powerLoss ) := by
  intro _ w h
  cases h

end Sys2Proof.Laws
end

