-- ==== Sys2Proof/Laws/Saved.lean ====
section
/-!
SUPPORT. Saved units: the length of a thread image, what restoring does to the workgroups, what RESUME takes over, and the
record of a stage barrier's scopes.
-/

namespace Sys2Proof.Machine

-- Images (R396).

@[simp] theorem zeroBytes_length (n : Nat) : (zeroBytes n).length = n := by simp [zeroBytes]
@[simp] theorem padTo_length (n : Nat) (bs : List Byte) : (padTo n bs).length = n := by
  simp [padTo]; omega
@[simp] theorem vbytes_length (v : Vec) : (vbytes v).length = 32 := by simp [vbytes]

theorem bufBytes_length {α : Type} {n : Nat} {enc : α → List Byte} (h : ∀ x, (enc x).length = n)
    (o : Option (α × Option FlagRef)) : (bufBytes n enc o).length = n := by
  cases o <;> simp [bufBytes, h]

theorem length_flatMap_const {α β : Type} (l : List α) (f : α → List β) (k : Nat) (h : ∀ a, (f a).length = k) :
    (l.flatMap f).length = l.length * k := by
  induction l with
  | nil => simp
  | cons a l ih => simp [ih, h, Nat.succ_mul, Nat.add_comm]

/-- An image takes 4,096 bytes (R396). -/
theorem State.imageBytes_length (s : State) (i : ImageSrc) : (s.imageBytes i).length = 4096 := by
  unfold imageBytes
  simp only [Four.list, List.length_append, leBytes_length, zeroBytes_length, padTo_length]
  rw [length_flatMap_const _ _ 8 (by intro a; split <;> simp), length_flatMap_const _ _ 32 (by intro a; split <;> simp),
    length_flatMap_const _ _ 8 (by intro a; split <;> simp), length_flatMap_const _ _ 4 (by intro a; simp),
    length_flatMap_const _ _ 1 (by intro a; simp)]
  have a : ∀ (c : Bool) (x : List Byte), x.length = 32 → (if c = true then x else zeroBytes 32).length = 32 := by
    intro c x h; cases c <;> simp [h]
  rw [a _ _ (by simp)]
  cases i.th.rejoin <;> simp [bufBytes_length]

-- Workgroups that stand (R398).

/-- No unit of a workgroup has a transaction open. -/
def Workgroup.NoTx (w : Workgroup) : Prop := (∀ e ∈ w.threads, e.2.u.tx = none) ∧ ∀ g ∈ w.groups, g.u.tx = none

/-- Two workgroups that differ in nothing but where their allocations begin. -/
def Workgroup.Alike (w v : Workgroup) : Prop := { v with scratchBase := w.scratchBase, ktBase := w.ktBase } = w

theorem Workgroup.Alike.refl (w : Workgroup) : w.Alike w := rfl
theorem Workgroup.Alike.trans {u v w : Workgroup} (h : u.Alike v) (k : v.Alike w) : u.Alike w := by
  cases u; cases v; cases w; simp_all [Alike]

theorem Workgroup.Alike.threads {v w : Workgroup} (h : w.Alike v) : v.threads = w.threads :=
  by
  rw [← (show { v with scratchBase := w.scratchBase, ktBase := w.ktBase } = w from h)]
theorem Workgroup.Alike.groups {v w : Workgroup} (h : w.Alike v) : v.groups = w.groups := by
  rw [← (show { v with scratchBase := w.scratchBase, ktBase := w.ktBase } = w from h)]
theorem Workgroup.Alike.noTx {v w : Workgroup} (h : w.Alike v) (k : w.NoTx) : v.NoTx := by
  simpa only [NoTx, h.threads, h.groups] using k

/-- What changes only open transactions leaves a workgroup without one as it is. -/
theorem Workgroup.mapUnits_of_noTx {w : Workgroup} (h : w.NoTx) (f : Nat → UState → UState)
    (hf : ∀ t u, u.tx = none → f t u = u) : w.mapUnits f = w := by
  obtain ⟨h1, h2⟩ := h
  have a : w.threads.map (fun (x : Nat × Thread) => (x.1, { x.2 with u := f x.1 x.2.u })) = w.threads :=
    (List.map_congr_left fun e he => by rw [hf _ _ (h1 e he)]; rfl).trans (List.map_id _)
  have b : w.groups.map (fun g => { g with u := f g.t0 g.u }) = w.groups :=
    (List.map_congr_left fun g hg => by rw [hf _ _ (h2 g hg)]; rfl).trans (List.map_id _)
  unfold mapUnits
  rw [a, b]

/-- A change of the state that leaves every workgroup without an open transaction as it is, but for its bases. -/
def State.Keeps (s s' : State) : Prop :=
  ∃ f : Workgroup → Workgroup, s'.wgs = s.wgs.map f ∧ (∀ w, (f w).id = w.id) ∧ ∀ w : Workgroup, w.NoTx → w.Alike (f w)

theorem State.Keeps.of_wgs {s s' : State} (h : s'.wgs = s.wgs) : s.Keeps s' :=
  ⟨id, by simp [h], fun _ => rfl, fun w _ => .refl w⟩

theorem State.Keeps.trans {s t u : State} (h : s.Keeps t) (k : t.Keeps u) : s.Keeps u := by
  obtain ⟨f, h1, h2, h3⟩ := h
  obtain ⟨g, k1, k2, k3⟩ := k
  exact ⟨g ∘ f, by simp [k1, h1], fun w => by simp [k2, h2], fun w hw => (h3 w hw).trans (k3 _ ((h3 w hw).noTx hw))⟩

theorem State.keeps_txLines (s : State) (c : Nat) : s.Keeps (s.txLines c) := by
  refine ⟨_, rfl, fun w => ?_, fun w hw => ?_⟩
  · split <;> rfl
  · split
    · exact .refl w
    · rw [Workgroup.mapUnits_of_noTx hw]
      · exact .refl w
      · intro t u hu; simp [hu]

theorem State.keeps_compact (s : State) (c : Nat) : s.Keeps (s.compact c) := by
  refine ⟨_, rfl, fun w => ?_, fun w hw => ?_⟩
  · split <;> rfl
  · split
    · exact .refl w
    · rw [Workgroup.mapUnits_of_noTx hw]
      · rfl
      · intro t u hu; cases u; simp_all

theorem State.keeps_makeRoom (s : State) (c n : Nat) : s.Keeps (s.makeRoom c n).1 := by
  unfold makeRoom
  dsimp only
  split
  · exact .of_wgs rfl
  · exact keeps_compact s c

@[simp] theorem State.pumpPort_wgs (s : State) (k : Nat) : (s.pumpPort k).wgs = s.wgs := rfl
@[simp] theorem State.sendData_wgs (s : State) (vc : Nat) : (s.sendData vc).wgs = s.wgs := by
  unfold sendData; split <;> simp
@[simp] theorem State.outsideWrite_wgs (s : State) (sp : Space) (a : Nat) (bs : List Byte) :
    (s.outsideWrite sp a bs).wgs = s.wgs := rfl
@[simp] theorem State.homeWrite_wgs (s : State) (sp : Space) (a : Nat) (bs : List Byte) :
    (s.homeWrite sp a bs).wgs = s.wgs := by
  cases sp <;> simp [homeWrite]
@[simp] theorem State.pageReads_wgs (s : State) (die k n : Nat) : (s.pageReads die k n).wgs = s.wgs := by
  unfold pageReads; dsimp only; split <;> rfl
@[simp] theorem State.homeSeen_wgs (s : State) (die : Nat) (sp : Space) (a : Nat) :
    (s.homeSeen die sp a).wgs = s.wgs := by
  cases sp <;> simp [homeSeen, pageRead]

theorem State.foldl_wgs {β : Type} (f : State → β → State) (hf : ∀ s b, (f s b).wgs = s.wgs) (l : List β) :
    ∀ s, (l.foldl f s).wgs = s.wgs := by
  induction l with
  | nil => exact fun _ => rfl
  | cons b l ih => exact fun s => (ih _).trans (hf s b)

@[simp] theorem State.homeSeenAll_wgs (s : State) (die a n : Nat) : (s.homeSeenAll die a n).wgs = s.wgs :=
  foldl_wgs _ (fun _ _ => by simp) _ _
@[simp] theorem State.homeMask_wgs (s : State) (sp : Space) (a : Nat) (m : Mask) (bs : List Byte) :
    (s.homeMask sp a m bs).wgs = s.wgs := by
  unfold homeMask
  dsimp only
  split
  · simp
  · cases sp <;> (try rw [sendData_wgs]) <;> refine foldl_wgs _ (fun s b => ?_) _ _ <;> split <;> simp
@[simp] theorem State.keepBad_wgs (s : State) (sp : Space) (a : Nat) (b : Option Nat) :
    (s.keepBad sp a b).wgs = s.wgs := by
  cases b <;> rfl
@[simp] theorem State.lineOut_wgs (s : State) (c : Nat) (l : L1Line) : (s.lineOut c l).wgs = s.wgs := by
  unfold lineOut
  dsimp only
  split
  · rfl
  · split
    · simp
    · split <;> simp
@[simp] theorem State.lineHome_wgs (s : State) (c : Nat) (l : L1Line) : (s.lineHome c l).wgs = s.wgs := by
  unfold lineHome
  dsimp only
  split
  · simp
  · split <;> simp
@[simp] theorem State.fillSeen_wgs (s : State) (c b : Nat) (sp : Space) (n : Nat) (w : Bool) :
    (s.fillSeen c b sp n w).wgs = s.wgs := by
  unfold fillSeen; split <;> simp
@[simp] theorem State.lineShared_wgs (s : State) (c : Nat) (l : L1Line) : (s.lineShared c l).wgs = s.wgs := by
  unfold lineShared; split <;> simp
@[simp] theorem State.l1drop_wgs (s : State) (c : Nat) (p : L1Line → Bool) : (s.l1drop c p).wgs = s.wgs := rfl
@[simp] theorem State.l1flush_wgs (s : State) (c : Nat) (p : L1Line → Bool) : (s.l1flush c p).wgs = s.wgs := by
  unfold l1flush l1clean
  dsimp only
  rw [modCl_wgs, foldl_wgs _ (fun _ _ => by simp), foldl_wgs _ (fun _ _ => by simp)]
@[simp] theorem State.l1fresh_wgs (s : State) (c b : Nat) : (s.l1fresh c b).wgs = s.wgs := by
  unfold l1fresh
  dsimp only
  rw [modCl_wgs, foldl_wgs _ (fun _ _ => by simp)]
@[simp] theorem State.acquireAt_wgs (s : State) (c p : Nat) (sc : Scope) : (s.acquireAt c p sc).wgs = s.wgs := by
  cases sc <;> simp only [acquireAt] <;> (try split) <;> simp

theorem State.keeps_acquire (s : State) (c : Nat) (ts : List Nat) (sc : Scope) : s.Keeps (s.acquire c ts sc) :=
  (Keeps.of_wgs (foldl_wgs _ (fun _ _ => by simp) ts s)).trans (keeps_txLines _ c)

theorem State.keeps_rebank (old s : State) (c : Nat) : s.Keeps (old.rebank s c) := by
  unfold rebank
  dsimp only
  split
  · exact .of_wgs rfl
  · refine (Keeps.of_wgs (foldl_wgs _ (fun s q => ?_) _ s)).trans (keeps_txLines _ c)
    split
    · unfold enterShared
      dsimp only
      rw [l1drop_wgs, foldl_wgs _ (fun _ _ => by simp)]
    · unfold leaveShared
      rw [l1drop_wgs, l1flush_wgs]

/-- A workgroup that takes its place stands behind the others, and the others stand as they did. -/
theorem State.keeps_settleWg (s : State) (w : Workgroup) : ({ s with wgs := s.wgs ++ [w] } : State).Keeps (s.settleWg w) := by
  unfold settleWg
  dsimp only
  refine Keeps.trans ?_ (keeps_rebank _ _ _)
  split
  · exact (Keeps.of_wgs (s' := { s.l1empty w.cluster with wgs := s.wgs ++ [w] }) rfl).trans (keeps_txLines _ _)
  · exact .of_wgs rfl

@[simp] theorem State.walkSeen_wgs (s : State) (die ctx : Nat) (va : Word) : (s.walkSeen die ctx va).wgs = s.wgs := by
  unfold walkSeen
  dsimp only
  split
  · rfl
  · exact foldl_wgs _ (fun _ _ => by simp) _ _
@[simp] theorem State.areaSeen_wgs (s : State) (r : LaunchRec) (v : SavedWg) (kts : List KtTable) (ctx c : Nat) :
    (s.areaSeen r v kts ctx c).wgs = s.wgs := by
  unfold areaSeen
  dsimp only
  rw [foldl_wgs _ (fun _ _ => by simp), foldl_wgs _ (fun _ _ => by simp)]
@[simp] theorem State.checksIn_wgs (s old : State) (w : Workgroup) (a : Nat) : (s.checksIn old w a).wgs = s.wgs := by
  unfold checksIn; split <;> simp

/-- What restoring one workgroup does to the workgroups (R398): those that stand stay, and one more stands on the cluster,
with what its area holds of its threads and groups. -/
theorem State.restoreWg_keeps (s old : State) (l : Launch) (u : SavedUnit) (level : Nat) (v : SavedWg)
    (kts : List KtTable) (c : Nat) :
    ∃ (z t : State) (w : Workgroup), s.Keeps t ∧
      ({ t with wgs := t.wgs ++ [w] } : State).Keeps (s.restoreWg old l u level v kts c) ∧
      w.id = v.id ∧ w.unit = u.id ∧ w.launch = l.id ∧ w.ctx = l.ctx ∧ w.cluster = c ∧ w.cfg = l.cfg ∧
      w.pinned = u.pinned ∧ (w.gx, w.gy, w.gz, w.ex, w.ey) = (v.gx, v.gy, v.gz, v.ex, v.ey) ∧
      let image := fun (i : Nat) => old.homeBytes .dev (v.area + (l.cfg.areaImages + 4096 * i)) 4096
      w.threads = (List.range l.cfg.threads).map (fun i => (i, v.complete i (z.imageThread (image i) {}))) ∧
      w.groups = w.threads.filterMap fun e => imageGroup (image e.1) e.1 e.2.u := by
  unfold restoreWg
  dsimp only
  refine ⟨_, _, _, ?_, (keeps_settleWg _ _).trans (keeps_acquire _ _ _ _), rfl, rfl, rfl, rfl, rfl, rfl, rfl, rfl, rfl, rfl⟩
  refine Keeps.trans ?_ (Keeps.of_wgs (s := ((s.areaSeen l.cfg v kts l.ctx c).makeRoom c l.cfg.alloc).1) (by simp))
  exact (Keeps.of_wgs (by simp)).trans (keeps_makeRoom _ _ _)

-- Units that come from another device (R399).

/-- Taking over a launch-queue state changes launches, saved units and numbers, and nothing that stands. -/
theorem State.adopt_frame (s : State) (ctx : Nat) :
    (s.adopt ctx).wgs = s.wgs ∧ (s.adopt ctx).mem = s.mem ∧ (s.adopt ctx).clusters = s.clusters ∧
    (s.adopt ctx).ctxs = s.ctxs ∧ (s.adopt ctx).sems = s.sems ∧ (s.adopt ctx).deps = s.deps := by
  unfold adopt takeMoved
  split
  · simp
  · split <;> simp

/-- With nothing brought for a context there is nothing to take over. -/
theorem State.adopt_of_none {s : State} {ctx : Nat} (h : ∀ m ∈ s.incoming, m.ctx ≠ ctx) : s.adopt ctx = s := by
  have : s.incoming.find? (fun m => m.ctx == ctx) = none := by simpa using h
  simp [adopt, this]

-- Stage barriers (R310).

@[simp] theorem State.stgNote_mem (s : State) (wg : Nat) (l : Loc) (f : List Scope × List Scope → List Scope × List Scope) :
    (s.stgNote wg l f).mem = s.mem := by cases l <;> rfl
@[simp] theorem State.stgNote_clusters (s : State) (wg : Nat) (l : Loc)
    (f : List Scope × List Scope → List Scope × List Scope) : (s.stgNote wg l f).clusters = s.clusters := by
  cases l <;> rfl

end Sys2Proof.Machine
end

