-- ==== Sys2Proof/Tests/Slice0.lean ====
section
/-!
SUPPORT. The model's own tests: words decoded and encoded, ill-formed terms refused, one step of an instruction against
the spec's worked examples (the commentary files of spec/, named at each), and for every obligation a concrete state and
operands that meet its hypotheses.
-/

set_option Elab.async false

namespace Sys2Proof.Tests

open Sys2Proof Sys2Proof.Machine

/-- Each word decodes to its instruction, and its instruction encodes as the word. -/
def decodesAll (l : List (Insn × Instr)) : Bool :=
  l.all fun p => decodeTableWord 32 p.1.toNat == some p.2 && encode p.2 == some p.1

/-- Words of the family of OPR. -/
theorem test_decode_opr : decodesAll [
    (0x04A63801, .add true 5 6 7), (0x04A9A821, .sub true 5 9 21), (0x04A9A841, .and true 5 9 21),
    (0x04A9A861, .or true 5 9 21), (0x04A9A881, .xor true 5 9 21), (0x04A9A8A1, .sll true 5 9 21),
    (0x04A9A8C1, .srl true 5 9 21), (0x04A9A8E1, .sra true 5 9 21), (0x04A9A901, .rotl true 5 9 21),
    (0x04A9A921, .slt true 5 9 21), (0x04A9A941, .sltu true 5 9 21), (0x04A9A961, .min true 5 9 21),
    (0x04A9A981, .max true 5 9 21), (0x04A9A9A1, .minu true 5 9 21), (0x04A9A9C1, .maxu true 5 9 21),
    (0x04A9A9E1, .mul true 5 9 21), (0x04A9AA01, .mulh true 5 9 21), (0x04A9AA21, .mulhu true 5 9 21),
    (0x04A9AA41, .div true 5 9 21), (0x04A9AA61, .divu true 5 9 21), (0x04A9AA81, .rem true 5 9 21),
    (0x04A9AAA1, .remu true 5 9 21), (0x04A902C1, .clz true 5 9), (0x04A902E1, .ctz true 5 9),
    (0x04A90301, .popc true 5 9)] = true := by decide +kernel

/-- Words of the family of IMMEDIATE. -/
theorem test_decode_immediate : decodesAll [
    (0x0882FFF8, .addi 4 2 0xFFF8), (0x0CA98001, .andi 5 9 0x8001), (0x10A98001, .ori 5 9 0x8001),
    (0x14A98001, .xori 5 9 0x8001), (0x18A98001, .slti 5 9 0x8001), (0x1CA98001, .sltiu 5 9 0x8001),
    (0x20A92013, .slli true 5 9 19), (0x20A96013, .srli true 5 9 19), (0x20A6A003, .srai true 5 6 3),
    (0x24A08001, .lui 5 0x8001), (0x28A08001, .auipc 5 0x8001)] = true := by decide +kernel

/-- Words of the family of BR. -/
theorem test_decode_br : decodesAll [
    (0x2D351801, .beq 9 21 0x1801), (0x2D203FFD, .bne 9 0 0x1FFD), (0x2D355801, .blt 9 21 0x1801),
    (0x2D357801, .bge 9 21 0x1801), (0x2D359801, .bltu 9 21 0x1801),
    (0x2D35B801, .bgeu 9 21 0x1801)] = true := by decide +kernel

/-- Words of the family of JUMP. -/
theorem test_decode_jump : decodesAll [
    (0x30200010, .jal 1 16), (0x34A98001, .jalr 5 9 0x8001), (0x3800000C, .jpt 12)] = true := by decide +kernel

/-- Words of the family of LOAD. -/
theorem test_decode_load : decodesAll [
    (0x3CA917FD, .lb .ef 5 9 0x7fd), (0x3CA937FD, .lh .ef 5 9 0x7fd), (0x3C8B4002, .lw .none 4 11 2),
    (0x3CA977FD, .ld .ef 5 9 0x7fd), (0x3CA997FD, .lbu .ef 5 9 0x7fd), (0x3CA9B7FD, .lhu .ef 5 9 0x7fd),
    (0x3CA9D7FD, .lwu .ef 5 9 0x7fd)] = true := by decide +kernel

/-- Words of the family of STORE. -/
theorem test_decode_store : decodesAll [
    (0x40A917FD, .sb .ef 5 9 0x7fd), (0x40A937FD, .sh .ef 5 9 0x7fd), (0x40A957FD, .sw .ef 5 9 0x7fd),
    (0x40A977FD, .sd .ef 5 9 0x7fd)] = true := by decide +kernel

/-- Words of the family of ATOM. -/
theorem test_decode_atom : decodesAll [
    (0x44AA602A, .amoadd true .cluster .rel 5 10 12), (0x44A9A8D4, .amoand false .domain .acq 5 9 21),
    (0x44A9A954, .amoor false .domain .acq 5 9 21), (0x44A9A9D4, .amoxor false .domain .acq 5 9 21),
    (0x44A9AA54, .amomin false .domain .acq 5 9 21), (0x44A9AAD4, .amomax false .domain .acq 5 9 21),
    (0x44A9AB54, .amominu false .domain .acq 5 9 21), (0x44A9ABD4, .amomaxu false .domain .acq 5 9 21),
    (0x44A9AC54, .amoswap false .domain .acq 5 9 21), (0x448A34C2, .amofadd true .device .rlx 4 10 6),
    (0x44CA3D4C, .amocas false .device .ar 6 10 7), (0x450B05B6, .ldaq true .die 8 11),
    (0x440A4E48, .strl false .device 10 9)] = true := by decide +kernel

/-- Words of the family of SYNC. -/
theorem test_decode_sync : decodesAll [
    (0x48004002, .fence .cluster 8 false 0), (0x48000020, .ifence), (0x48008040, .waitf 2), (0x48A00060, .txbegin 5),
    (0x48000080, .txend), (0x481C00A0, .txabort 7), (0x48C000C0, .txstat 6), (0x480000E0, .acqh),
    (0x48000100, .relh)] = true := by decide +kernel

/-- Words of the family of FPS. -/
theorem test_decode_fps : decodesAll [
    (0x4CA9A834, .fadd .bf16 .rdn 5 9 21), (0x4CA9A874, .fsub .bf16 .rdn 5 9 21),
    (0x4CA9A8B4, .fmul .bf16 .rdn 5 9 21), (0x4CA9A8F4, .fdiv .bf16 .rdn 5 9 21), (0x4CA90134, .fsqrt .bf16 .rdn 5 9),
    (0x4CA9A970, .fmin .bf16 5 9 21), (0x4CA9A9B0, .fmax .bf16 5 9 21), (0x4CA9A9F4, .fsgn .bf16 .xor 5 9 21),
    (0x4CA9AA36, .fcmp .bf16 .un 5 9 21), (0x4CA90270, .fclass .bf16 5 9)] = true := by decide +kernel

/-- Words of the family of FMA. -/
theorem test_decode_fma : decodesAll [
    (0x510952C0, .fma false false false .rne 8 9 10 11),
    (0x5CA9AFB2, .vfma true true false .rdn 5 9 21 30)] = true := by decide +kernel

/-- Words of the family of VINT. -/
theorem test_decode_vint : decodesAll [
    (0x54A9A80D, .vadd .i16 5 5 9 21), (0x54A9A88D, .vsub .i16 5 5 9 21), (0x54A9A90D, .vmul .i16 5 5 9 21),
    (0x54A9A98D, .vmin .i16 5 5 9 21), (0x54A9AA0D, .vmax .i16 5 5 9 21), (0x54A9AA9D, .vlog .andn 5 5 9 21),
    (0x54A9AB0D, .vsh .i16 5 5 9 21)] = true := by decide +kernel

/-- Words of the family of VFP. -/
theorem test_decode_vfp : decodesAll [
    (0x5864284A, .vfadd .f32 2 3 4 5), (0x58A9A8D5, .vfsub .f16 5 5 9 21), (0x58A9A955, .vfmul .f16 5 5 9 21),
    (0x58A9A9D5, .vfmin .f16 5 5 9 21), (0x58A9AA55, .vfmax .f16 5 5 9 21), (0x58C42AC8, .vfcmp .f32 0 6 4 5),
    (0x58A9AB0D, .vcmp .i16 5 5 9 21)] = true := by decide +kernel

/-- Words of the family of VMISC. -/
theorem test_decode_vmisc : decodesAll [
    (0x60A9A875, .vsel .e2m1 5 5 9 21), (0x60A900F5, .vsplat .e2m1 5 5 9), (0x60A9A960, .vext .e4m3 5 9 21),
    (0x60A9A9B0, .vins .n32 5 9 21), (0x60A9AA0D, .vperm .i16 5 5 9 21), (0x60A9128D, .vred .i16 .max 5 5 9),
    (0x60A9AB25, .vdot .n8 5 5 9 21)] = true := by decide +kernel

/-- Words of the family of VMEM. -/
theorem test_decode_vmem : decodesAll [
    (0x64A9A80D, .vld .i16 5 5 9 21), (0x64A9A88D, .vst .i16 5 5 9 21), (0x64A9A90D, .vlds .i16 5 5 9 21),
    (0x64A9A98D, .vgath .i16 5 5 9 21), (0x64A9AA0D, .vscat .i16 5 5 9 21)] = true := by decide +kernel

/-- Words of the family of LANE. -/
theorem test_decode_lane : decodesAll [
    (0x68A9A80D, .lshfl .i16 5 5 9 21), (0x68A9A88D, .lbcast .i16 5 5 9 21), (0x68A9A90D, .lrot .i16 5 5 9 21),
    (0x68A9098D, .lred .i16 .min 5 5 9), (0x68A9320D, .lscan .i16 true .max 5 5 9),
    (0x68A91280, .vote .ballot 5 9)] = true := by decide +kernel

/-- Words of the family of CVT. -/
theorem test_decode_cvt : decodesAll [
    (0x6C854844, .cvt .i32 .f32 .rtz 4 5), (0x6CE34B0C, .vcvt .e4m3 .f32 .sr 2 1 7 3),
    (0x6CA9AD32, .vcvtsc .e5m2 .bf16 .sr 2 5 9 21),
    (0x6CA94EBD, .vcvtus .n16 .f32 .dyn 1 5 9)] = true := by decide +kernel

/-- Words of the family of SFU. -/
theorem test_decode_sfu : decodesAll [
    (0x70A90000, .exp2 5 9), (0x70A900D5, .exp2V .f16 5 5 9), (0x70A90100, .log2 5 9),
    (0x70A901D5, .log2V .f16 5 5 9), (0x70A90200, .rcp 5 9), (0x70A902D5, .rcpV .f16 5 5 9), (0x70A90300, .rsq 5 9),
    (0x70A903D5, .rsqV .f16 5 5 9), (0x70A90400, .sin 5 9), (0x70A904D5, .sinV .f16 5 5 9), (0x70A90500, .cos 5 9),
    (0x70A905D5, .cosV .f16 5 5 9)] = true := by decide +kernel

/-- Words of the family of UNI. -/
theorem test_decode_uni : decodesAll [
    (0x74A97600, .kalu .max 5 9 14), (0x74800051, .kli 4 10), (0x74A90002, .kget 5 9), (0x74A90003, .kput 5 9),
    (0x7533FFDC, .kbr .gtz 9 0x7FFB), (0x74A63985, .qlog .andn 5 6 7), (0x74462186, .qfrom .i32 3 2 6),
    (0x74A90046, .qfromS 5 9), (0x74A60007, .qto 5 6)] = true := by decide +kernel

/-- Words of the family of MODE. -/
theorem test_decode_mode : decodesAll [
    (0x78000002, .fuse .f16), (0x78000020, .split), (0x78000040, .rejoin), (0x78000076, .pcfg .s true .cluster),
    (0x78A00090, .pqry 5 .s), (0x780000A9, .pwaite 9)] = true := by decide +kernel

/-- Words of the family of MMA. -/
theorem test_decode_mma : decodesAll [
    (0x7C444001, .mma .e4m3 false true 0 2 (.regs 1) (.regs 2)),
    (0x7DB8E00A, .mma .e2m1 true false 1 5 (.kstep 2) (.buf 3)),
    (0x7C068021, .mmas false true 0 0 true true (.buf 0)), (0x7D60C042, .mres true 1 3 false (.buf 2)),
    (0x7C204862, .mplan .e4m3 true true 0 9), (0x7C29A86B, .mplanS .e2m1 true true 9 21)] = true := by decide +kernel

/-- Words of the family of MAT. -/
theorem test_decode_mat : decodesAll [
    (0x83E00000, .mzacc 3 7), (0x82A9A820, .mldacc 2 5 9 21), (0x802A5844, .mstacc .f16 .rne 0 1 10 11),
    (0x812C0061, .mldob true 1 0 true 12), (0x80A10081, .mstat true true 5),
    (0x802C00A0, .mscl true 12)] = true := by decide +kernel

/-- Words of the family of KEY. -/
theorem test_decode_key : decodesAll [
    (0x840C6803, .ktclaim 3 12 13), (0x84000021, .ktfree 1), (0x84A63841, .ktins 1 5 6 7), (0x84A90062, .ktprb 2 5 9),
    (0x84A90081, .ktdel 1 5 9), (0x850950A0, .ktacc 0 8 9 10), (0x848B00C6, .ktdrn 2 true 4 11),
    (0x84A010E0, .ktstat 0 2 5)] = true := by decide +kernel

/-- Words of the family of ENG. -/
theorem test_decode_eng : decodesAll [
    (0x88880001, .enq true 4 8), (0x8A890020, .deq 20 9), (0x88A00040, .eqry false 5 0), (0x880A5860, .stginit 10 11),
    (0x880A5880, .stgexp 10 11), (0x88CA58A0, .stgarv 6 10 11), (0x88EA30C0, .stgwait 7 10 6),
    (0x88EA30E0, .stgtry 7 10 6), (0x880C6900, .semsig 12 13), (0x88AC7120, .semwait 5 12 14),
    (0x88AC7140, .semtry 5 12 14)] = true := by decide +kernel

/-- Words of the family of MSG. -/
theorem test_decode_msg : decodesAll [
    (0x8C0A5800, .send 10 11), (0x8E800020, .recv 20), (0x8C000040, .waitmsg), (0x8CA00060, .mbqry 5),
    (0x8C06389F, .hbinit true 15 6 7), (0x8CA000A3, .hbarv 3 5), (0x8CC028C3, .hbwait 3 6 5),
    (0x8CA000E2, .hbsync 2 5), (0x8C000103, .hbinv 3), (0x8CA00123, .hbqry 3 5)] = true := by decide +kernel

/-- Words of the family of TASK. -/
theorem test_decode_task : decodesAll [
    (0x90AA0000, .launch 5 10), (0x90C00020, .joinwait 6), (0x90E80040, .depalloc 7 8), (0x90090060, .depsig 9),
    (0x90A90080, .depfree 5 9), (0x900000A0, .yield), (0x900000C0, .exit)] = true := by decide +kernel

/-- Words of the family of SYS. -/
theorem test_decode_sys : decodesAll [
    (0x94C00030, .csrr 3 6), (0x94090231, .csrw 0x23 9), (0x9400ABC2, .trap 0xABC), (0x94000003, .tret),
    (0x94A0F024, .featq 15 2 5), (0x94001235, .brk 0x123), (0x9409A806, .tlbw 9 21), (0x9409A807, .tlbinv 9 21),
    (0x94090008, .ctxsv 9), (0x94090009, .ctxld 9)] = true := by decide +kernel

/-- Words of the family of CLAUSE. -/
theorem test_decode_clause : decodesAll [
    (0xF80048D8, .clause 1 2 3 3)] = true := by decide +kernel

/-- The all-zero word, a word of a reserved major, and words with a bit set that their encoding holds at 0, or a field
value that it does not accept, are no instruction (R65). -/
theorem test_decode_rejects : ([0, 0x98000000, 0x04A63803, 0x2D20DFFD, 0x78000000].all fun w =>
    decodeTableWord 32 w == none) = true := by decide +kernel

-- Well-formedness: a term that each check refuses.

theorem test_wf_shift_count : (Instr.slli true 1 2 32).wf = false ∧ (Instr.srli true 1 2 63).wf = false ∧
    (Instr.srai true 1 2 32).wf = false := by decide
theorem test_wf_scalar_float : (Instr.fadd .e4m3 .rne 1 2 3).wf = false ∧ (Instr.fadd .f32 .sr 1 2 3).wf = false ∧
    (Instr.fsqrt .e2m1 .rne 1 2).wf = false ∧ (Instr.fmin .e5m2 1 2 3).wf = false ∧
    (Instr.fsgn .e4m3 .copy 1 2 3).wf = false ∧ (Instr.fcmp .e4m3 .eq 1 2 3).wf = false ∧
    (Instr.fclass .e2m1 1 2).wf = false ∧ (Instr.fma false false false .sr 1 2 3 4).wf = false := by decide
theorem test_wf_vector : (Instr.vadd .f32 0 1 2 3).wf = false ∧ (Instr.vfadd .i32 0 1 2 3).wf = false ∧
    (Instr.vext .e2m1 1 2 3).wf = false ∧ (Instr.vld .e2m1 0 1 2 3).wf = false ∧
    (Instr.vred .e4m3 .add 0 1 2).wf = false ∧ (Instr.lscan .e5m2 true .add 0 1 2).wf = false ∧
    (Instr.vdot .i16 0 1 2 3).wf = false ∧ (Instr.exp2V .f64 0 1 2).wf = false := by decide
theorem test_wf_conversions : (Instr.cvt .f32 .f32 .rne 1 2).wf = false ∧ (Instr.cvt .i32 .i64 .rtz 1 2).wf = false ∧
    (Instr.cvt .e4m3 .f32 .rne 1 2).wf = false ∧ (Instr.vcvt .e4m3 .f32 .rne 4 0 1 2).wf = false ∧
    (Instr.vcvt .e2m1 .f64 .rne 0 0 1 2).wf = false ∧ (Instr.vcvtsc .f16 .f32 .rne 0 1 2 3).wf = false ∧
    (Instr.vcvtus .f32 .f16 .rne 0 1 2).wf = false := by decide
theorem test_wf_predicates_and_ports : (Instr.qlog .not 1 2 3).wf = false ∧ (Instr.qfrom .n8 1 2 3).wf = false ∧
    (Instr.pcfg .n true .lane).wf = false ∧ (Instr.pwaite 0).wf = false := by decide
theorem test_wf_matrix : (Instr.mma .f16 true false 0 0 (.kstep 0) (.buf 0)).wf = false ∧
    (Instr.mplan .e4m3 false true 0 9).wf = false ∧ (Instr.mplanS .e4m3 false true 1 9).wf = false ∧
    (Instr.mstacc .f32 .rtz 0 0 1 2).wf = false ∧ (Instr.mstacc .f16 .dyn 0 0 1 2).wf = false ∧
    (Instr.mldob true 0 1 true 2).wf = false := by decide
theorem test_wf_engines_and_messages : (Instr.enq true 1 0).wf = false ∧ (Instr.enq true 1 25).wf = false ∧
    (Instr.deq 0 1).wf = false ∧ (Instr.recv 27).wf = false := by decide
theorem test_wf_fences_and_registers : (Instr.fence .die 0 false 0).wf = false ∧ (Instr.fence .die 1 false 2).wf = false ∧
    (Instr.csrr 0x00D 1).wf = false ∧ (Instr.csrw 0xE00 1).wf = false ∧ (Instr.clause 0 13 0 0).wf = false := by decide

-- Small states.

/-- A workgroup with the number 1 of one column on cluster 0. -/
def wg (ths : Map Thread) (gs : List Group := []) : Workgroup :=
  { id := 1, unit := 1, launch := 1, ctx := 0, gx := 0, gy := 0, gz := 0, cluster := 0, cols := [0], threads := ths
    groups := gs, cfg := {} }

/-- A device that holds the workgroup, its thread 0 executing. -/
def on (w : Workgroup) : State := { wgs := [w], cur := some ⟨1, 0⟩ }

/-- Thread 0 alone, split, with some scalar registers. -/
def split (l : List (Nat × Word)) : State := on (wg [(0, { r := { s := l } })])

/-- Thread 0 alone, split, with some vector registers. -/
def splitV (l : List (Nat × Vec)) : State := on (wg [(0, { r := { v := l } })])

/-- A fused group of 8 threads with an active mask, every thread live. -/
def eight (active : Mask) (f : Nat → Thread) : State :=
  on (wg ((List.range 8).map fun t => (t, f t)) [{ col := 0, base := 0, f := .f8, live := 0xFF, active := active }])

/-- The state after an instruction. -/
def after (i : Instr) (s : State) : State :=
  match exec i s with
  | .next t => t
  | .fault _ | .refused _ => s

/-- s1 of thread 0 after an instruction. -/
def s1 (i : Instr) (s : State) : Word := ((after i s).thr 1 0).r.sget 1

/-- s1 after an instruction, and the flags in FCSR. -/
def s1f (i : Instr) (s : State) : Word × Word := (s1 i s, ((after i s).thr 1 0).u.sh.fcsr &&& 31)

/-- Element `k` of v1 of a thread after an instruction. -/
def v1 (w k : Nat) (i : Instr) (s : State) (t : Nat := 0) : Nat := elem w (((after i s).thr 1 t).r.vget 1) k

/-- A vector of elements. -/
def vecOf (w : Nat) (l : List Nat) : Vec := ofElems w fun k => l.getD k 0

-- One step against the worked examples of the spec.

/-- spec/08, shift results. -/
theorem test_shift_counts :
    s1 (.sll false 1 2 3) (split [(2, 1), (3, 65)]) = 2 ∧
    s1 (.sra false 1 2 3) (split [(2, 0x8000000000000000), (3, 0xFFFFFFFFFFFFFFFF)]) = 0xFFFFFFFFFFFFFFFF ∧
    s1 (.sra true 1 2 3) (split [(2, 0x80000000), (3, 33)]) = 0xFFFFFFFFC0000000 ∧
    s1 (.srl true 1 2 3) (split [(2, 0xFFFFFFFFFFFFFFF0), (3, 4)]) = 0x0FFFFFFF ∧
    s1 (.rotl true 1 2 3) (split [(2, 0x80000001), (3, 1)]) = 3 := by decide +kernel

/-- spec/08, quotients and remainders, with FCSR.DZ. -/
theorem test_division :
    s1f (.div false 1 2 3) (split [(2, 7), (3, 0xFFFFFFFFFFFFFFFE)]) = (0xFFFFFFFFFFFFFFFD, 0) ∧
    s1f (.rem false 1 2 3) (split [(2, 0xFFFFFFFFFFFFFFF9), (3, 2)]) = (0xFFFFFFFFFFFFFFFF, 0) ∧
    s1f (.divu false 1 2 3) (split [(2, 7)]) = (0xFFFFFFFFFFFFFFFF, 8) ∧
    s1f (.remu false 1 2 3) (split [(2, 7)]) = (7, 8) := by decide +kernel
theorem test_division_words :
    s1f (.div true 1 2 3) (split [(2, 0xFFFFFFFF80000000), (3, 0xFFFFFFFFFFFFFFFF)]) = (0xFFFFFFFF80000000, 0) ∧
    s1f (.div true 1 2 3) (split [(2, 0x100000005), (3, 0x700000000)]) = (0xFFFFFFFFFFFFFFFF, 8) ∧
    s1f (.rem true 1 2 3) (split [(2, 0x100000005), (3, 0x700000000)]) = (5, 8) ∧
    s1f (.divu true 1 2 3) (split [(2, 0xFFFFFFFF), (3, 1)]) = (0xFFFFFFFFFFFFFFFF, 0) := by decide +kernel

/-- spec/08, high products. -/
theorem test_high_products :
    s1 (.mulh false 1 2 3) (split [(2, 0x8000000000000000), (3, 0x8000000000000000)]) = 0x4000000000000000 ∧
    s1 (.mulhu false 1 2 3) (split [(2, 0xFFFFFFFFFFFFFFFF), (3, 0xFFFFFFFFFFFFFFFF)]) = 0xFFFFFFFFFFFFFFFE := by
  decide +kernel

/-- spec/08, VSH with counts 8, -7 and -8 of the element 0x80. -/
theorem test_vector_shift :
    let s := splitV [(2, vecOf 8 [0x80, 0x80, 0x80]), (3, vecOf 8 [8, 0xF9, 0xF8])]
    (List.range 3).map (fun k => v1 8 k (.vsh .i8 0 1 2 3) s) = [0, 0xFF, 0xFF] ∧
    v1 8 2 (.vsh .n8 0 1 2 3) s = 0 := by decide +kernel

/-- The group of spec/08, "Lanes, masks and predicates together"; v1 holds 7. -/
def lanes8 : State := eight 0x5A fun t =>
  { r := { s := [(6, w64 (t ^^^ 1)), (7, w64 (t % 2)), (8, if t = 1 then 2 else 0)], v := [(1, 7), (4, vecOf 32 [10 * t])]
           q := [(3, if t = 4 then 0xFFFFFFFE else 0xFFFFFFFF)] } }

/-- Element 0 of v1 in each lane. -/
def row8 (i : Instr) : List Nat := (List.range 8).map fun t => v1 32 0 i lanes8 t

theorem test_lane_combinations :
    row8 (.lred .i32 .add 3 1 4) = [7, 100, 7, 100, 7, 7, 100, 7] ∧
    row8 (.lscan .i32 false .add 3 1 4) = [7, 10, 7, 40, 7, 7, 100, 7] := by decide +kernel
theorem test_lane_moves :
    row8 (.lbcast .i32 0 1 4 8) = [7, 20, 7, 20, 20, 7, 20, 7] ∧
    row8 (.lshfl .i32 0 1 4 6) = [7, 0, 7, 20, 50, 7, 70, 7] := by decide +kernel
theorem test_votes :
    (List.range 8).map (fun t => ((after (.vote .ballot 9 7) lanes8).thr 1 t).r.sget 9) =
      [0, 0x0A, 0, 0x0A, 0x0A, 0, 0x0A, 0] ∧
    ((after (.vote .count 9 7) lanes8).thr 1 6).r.sget 9 = 2 := by decide +kernel

/-- The encoding that VCVT from F32 delivers, and the flags. -/
def narrow (d : Fmt) (rm : Rm) (x : Nat) : Nat × Word :=
  let s := splitV [(2, vecOf 32 [x])]
  (v1 d.bits 0 (.vcvt d .f32 rm 0 0 1 2) s, ((after (.vcvt d .f32 rm 0 0 1 2) s).thr 1 0).u.sh.fcsr &&& 31)

/-- spec/06, narrow conversions under each rounding mode: 13.5 and 500 to E4M3, 500 to E5M2. -/
theorem test_narrow_conversions :
    [Rm.rne, .rtz, .rdn, .rup].map (fun rm => narrow .e4m3 rm 0x41580000) = [(0x56, 1), (0x55, 1), (0x55, 1), (0x56, 1)] ∧
    [Rm.rne, .rtz, .rdn, .rup].map (fun rm => narrow .e4m3 rm 0x43FA0000) = [(0x7E, 5), (0x7E, 5), (0x7E, 5), (0x7E, 5)] ∧
    [Rm.rne, .rtz, .rdn, .rup].map (fun rm => narrow .e5m2 rm 0x43FA0000) = [(0x60, 1), (0x5F, 1), (0x5F, 1), (0x60, 1)] := by
  decide +kernel
/-- spec/06: 7.0, -0.25 and NaN to E2M1, and infinity to E4M3. -/
theorem test_narrow_conversions_e2m1 :
    [Rm.rne, .rtz, .rdn, .rup].map (fun rm => narrow .e2m1 rm 0x40E00000) = [(7, 5), (7, 1), (7, 1), (7, 5)] ∧
    [Rm.rne, .rtz, .rdn, .rup].map (fun rm => narrow .e2m1 rm 0xBE800000) = [(8, 3), (8, 3), (9, 3), (8, 3)] ∧
    narrow .e2m1 .rne 0x7FC00000 = (0, 16) ∧ narrow .e4m3 .rup 0x7F800000 = (0x7E, 16) := by decide +kernel

/-- spec/06, stochastic rounding: the generator stands at 0x1237; four active elements. -/
theorem test_stochastic_rounding :
    let s := on (wg [(0, { gen := 0x1237, r := {
      v := [(2, vecOf 32 [0x41580000, 0xC1580000, 0x40A00000, 0x41540000])], q := [(1, 0xFFFF)] } })])
    let i := Instr.vcvt .e4m3 .f32 .sr 0 1 1 2
    (List.range 4).map (fun k => v1 8 k i s) = [0x56, 0xD6, 0x4A, 0x55] ∧ ((after i s).thr 1 0).gen = 0x60A3 := by
  decide +kernel

/-- spec/06, EXP2 at 3, -149, 128 and a signalling NaN. -/
theorem test_exp2_fixed_values :
    s1f (.exp2 1 2) (split [(2, 0x40400000)]) = (0x41000000, 0) ∧ s1f (.exp2 1 2) (split [(2, 0xC3150000)]) = (1, 0) ∧
    s1f (.exp2 1 2) (split [(2, 0x43000000)]) = (0x7F800000, 5) ∧
    s1f (.exp2 1 2) (split [(2, 0x7F800001)]) = (0x7FC00000, 16) := by decide +kernel

/-- The sixteen buckets of kt0 of spec/12, empty, with two spill entries at 0x10000 of device memory. -/
def kt0 : KtTable :=
  { valid := true, vt := 1, plim := 1, logb := 4, spillVa := 0x40000000, cap := 2
    pins := [(0x40000, .mem .dev 0x10000 false)] }

/-- The 16-lane group of spec/12, mask 0x07FF, its keys in s6 and l + 1 in s7; buckets 9 and 10, at 288 and 320, hold
the empty key. -/
def keys16 : State :=
  let w := wg ((List.range 16).map fun t => (t, { r := {
      s := [(6, w64 ([1, 22, 43, 56, 14, 27, 35, 48, 77, 98, 111].getD t 0)), (7, w64 (t + 1))] } }))
    [{ col := 0, base := 0, f := .f16, live := 0xFFFF, active := 0x7FF }]
  { on { w with cfg := { kt := 1024 }, kt := [kt0, {}, {}, {}] } with
    clusters := [(0, { sram := (List.range 64).filterMap fun i => if i % 8 < 4 then some (288 + i, 0xFF#8) else none })] }

/-- spec/12, one KTINS fills buckets 9 and 10 and overflows them. -/
theorem test_ktins_fills_and_spills :
    let t := after (.ktins 0 5 6 7) keys16
    [0, 7, 8, 9, 10, 11].map (fun u => (t.thr 1 u).r.sget 5) = [1, 8, 0x300000009, 0x30000000A, 0x400000000, 0] ∧
    t.sramBytes 0 296 8 = leBytes 4 22 ++ leBytes 4 2 := by decide +kernel

/-- spec/16: an arrival that announces 4,096 bytes at a barrier of one expected arrival and phase 0. -/
theorem test_stgarv_announces :
    let b := stgInit 0 1
    let s := (on { wg [(0, { r := { s := [(2, ownAddr 0x100), (3, 4096)] } })] with cfg := { scratch := 4096 } })
    let l := Loc.sram 0 0x100
    let t := after (.stgarv 1 2 3) (s.stgWrite none l b)
    let c := t.stgRead l
    (t.thr 1 0).r.sget 1 = 0 ∧ stgCount c = 4096 ∧ stgArrived c = 1 ∧ stgPhase c = 0 := by decide +kernel

/-- R65, R376, R378: a word that is no instruction traps 0x01 with the word, and goes to STVEC at S. -/
theorem test_illegal_word_traps :
    let s := { split [] with ctxs := [(0, { stvec := 0x4000 })] }
    let th := (after (.illegalInstruction 0x98000000) s).thr 1 0
    th.trapcause = 1 ∧ th.trapval = 0x98000000 ∧ th.u.pc = 0x4000 ∧ th.u.sh.priv = .s := by decide +kernel

/-- R145: LW sign-extends the four bytes at s[ra] + 4 · imm, lowest byte first. -/
theorem test_lw_sign_extends :
    let s := on { wg [(0, { r := { s := [(2, ownAddr 0x108)] } })] with cfg := { scratch := 4096 } }
    s1 (.lw .none 1 2 0x7FE) { s with clusters := [(0, { sram := [(0x100, 0x78), (0x101, 0x56), (0x102, 0x34),
      (0x103, 0x92)] })] } = 0xFFFFFFFF92345678 := by decide +kernel


/-- SHA3-512 of no bytes, as FIPS 202's examples give it. -/
theorem test_sha3_512_of_nothing :
    (sha3_512 []).take 8 = [0xA6, 0x9F, 0x73, 0xCC, 0xA2, 0x3A, 0x9A, 0xC5] := by decide +kernel
-- For every obligation with hypotheses, a state and operands that meet them (witness_<obligation>).

/-- The unit that executes in a state; a state without one gives an arbitrary unit. -/
def unit (s : State) : Issuer := (s.issuer?).getD ((wg []).issuer 0)

/-- The hypotheses of `Completes`: the unit issues, its operands are ready, and the result raises no enabled exception. -/
def fitsOut (s : State) (f : Fields) (out : (Nat → Vals) → Nat → LaneOut) : Prop :=
  s.Issues (unit s) ∧ s.OperandsReady (unit s) f ∧
    ∀ t ∈ (unit s).active, (out ((unit s).lane f (s.free, s.clock)) t).fl &&& fcsrEn (unit s).u.sh.fcsr = 0

/-- The unit issues and its operands are ready. -/
def fits (s : State) (f : Fields) : Prop := s.Issues (unit s) ∧ s.OperandsReady (unit s) f

/-- The unit issues outside a transaction, with its operands ready. -/
def fitsTx (s : State) (f : Fields) : Prop := fits s f ∧ (unit s).u.tx = none

/-- A thread with scalar registers, at S. -/
def thr (l : List (Nat × Word)) : Thread := { r := { s := l }, u := { sh := { priv := .s } } }

/-- A fused group of 8 at S, thread t's registers as given, with a stack and a PC. -/
def group8 (active : Mask) (stack : List StackEnt) (f : Nat → Thread) : State :=
  on { wg ((List.range 8).map fun t => (t, f t))
    [{ col := 0, base := 0, f := .f8, live := 0xFF, active := active, stack := stack
       u := { pc := 0x1000, sh := { priv := .s } } }] with cfg := { scratch := 4096, hb := 16 } }

theorem witness_DecodeEncode : (Instr.clause 0xFFF 12 12 7).WellFormed ∧ (encode (.clause 0xFFF 12 12 7)).isSome ∧
    (Instr.csrr 0xFFF 31).WellFormed ∧ (encode (.csrr 0xFFF 31)).isSome := by decide +kernel

theorem witness_EncodeDecode : (decode 0xF80048D8).toOption = some (.clause 1 2 3 3) := by decide +kernel

theorem witness_ScalarArithmetic :
    fitsOut (split [(2, 7), (3, 0)]) (fSSS 1 2 3) (fun v t => .ofS ((v t).sa + (v t).sb)) ∧
    fitsOut (split [(2, 7), (3, 0)]) (fSSS 1 2 3) (fun v t => { LaneOut.ofS 0 with dz := (v t).sb = 0 }) ∧
    fitsOut (eight 0x5A fun t => thr [(2, w64 t)]) (fSSS 0 2 27) (fun v t => .ofS ((v t).sa - (v t).sb)) ∧
    fitsOut (split [(2, 7)]) (fSS 1 2) (fun v t => .ofS (v t).sa) := by
  unfold fitsOut State.Issues State.OperandsReady
  repeat' apply And.intro
  all_goals decide +kernel

theorem witness_ScalarImmediate :
    fitsOut (split [(2, 0xFFFFFFFFFFFFFFFF)]) (fSS 1 2) (fun v t => .ofS ((v t).sa + 0xFFFFFFFFFFFF8000)) ∧
    fitsOut (eight 0xFF fun _ => {}) { dst := some (.s 27) } (fun _ _ => .ofS 0xFFFFFFFF80000000) := by
  unfold fitsOut State.Issues State.OperandsReady
  repeat' apply And.intro
  all_goals decide +kernel

/-- A tie, an exact value, a quiet and a signalling NaN. -/
theorem witness_FloatRules :
    0 < 1 ∧ 3 % 2 ^ 1 ≠ 0 ∧ 4 % 2 ^ 1 = 0 ∧ (2 * (roundInt .rne false 3 1).1 * 2 ^ 1 = 2 * 3 + 2 ^ 1) ∧
    Fmt.isFloat4 .f32 ∧ (Fmt.read .f32 false 0x7FC00000).isNan ∧ (Fmt.read .f32 false 0x7FC00000).isSig = false ∧
    (Fmt.read .f32 false 0x7F800001).isNan ∧ (Fmt.read .f32 false 0x7F800001).isSig := by decide +kernel

theorem witness_ScalarFloat :
    let s := split [(2, 0x3F800000), (3, 0xC0400000), (4, 0x3F800000)]
    let f4 : Fields := { a := some (.s 2), b := some (.s 3), c := some (.s 4), dst := some (.s 1) }
    fitsOut s (fSSS 1 2 3) (fun v t => .ofF (fDiv .f32 .rne false (v t).sa.toNat (v t).sb.toNat)) ∧
    fitsOut s (fSS 1 2) (fun v t => .ofF (fSqrt .f32 .rne false (v t).sa.toNat)) ∧
    fitsOut s f4 (fun v t => .ofF (fFma .f32 .rne false false true (v t).sa.toNat (v t).sb.toNat (v t).sc.toNat)) := by
  unfold fitsOut State.Issues State.OperandsReady
  repeat' apply And.intro
  all_goals decide +kernel

/-- Lanes 1, 3, 4 and 6 active with the NV trap enabled, a signalling NaN in lane 3. -/
theorem witness_ScalarFloat_trap :
    let s := on { wg ((List.range 8).map fun t => (t, thr [(2, if t = 3 then 0x7F800001 else 0x3F800000)]))
      [{ col := 0, base := 0, f := .f8, live := 0xFF, active := 0x5A, u := { sh := { fcsr := 0x2000 } } }] with cfg := {} }
    let x := unit s
    let f4 : Fields := { a := some (.s 2), b := some (.s 2), c := some (.s 2), dst := some (.s 1) }
    s.Issues x ∧ s.OperandsReady x (fSSS 1 2 2) ∧ s.OperandsReady x f4 ∧
    (∀ g ∈ [fAdd, fSub, fMul, fDiv], ∃ t ∈ x.active,
      let v := x.lane (fSSS 1 2 2) (s.free, s.clock) t
      (g .f32 .rne false v.sa.toNat v.sb.toNat).2 &&& fcsrEn x.u.sh.fcsr ≠ 0) ∧
    (∃ t ∈ x.active,
      let v := x.lane f4 (s.free, s.clock) t
      (fFma .f32 .rne false false false v.sa.toNat v.sb.toNat v.sc.toNat).2 &&& fcsrEn x.u.sh.fcsr ≠ 0) := by
  unfold State.Issues State.OperandsReady
  repeat' apply And.intro
  all_goals decide +kernel

theorem witness_VectorInteger :
    ElemTy.isInt .i8 ∧ ElemTy.isInt .n64 ∧ 31 < 256 / ElemTy.bits .i8 ∧ 3 < 256 / ElemTy.bits .n64 ∧
    63 < 256 / ElemTy.bits .e2m1 ∧
    fitsOut (splitV [(2, 5), (27, 9)]) (fVVV 7 1 2 27) (fun v t => { val := mapElems 8 (v t).q (v t).old fun _ => 0 }) ∧
    fitsOut (eight 0x5A fun _ => {}) (fVVV 0 1 2 27) (fun v t => { val := mapElems 64 (v t).q (v t).old fun _ => 0 }) := by
  unfold fitsOut State.Issues State.OperandsReady
  repeat' apply And.intro
  all_goals decide +kernel

theorem witness_VectorMoves :
    let s := splitV [(2, 0x3F800000)]
    fitsOut s (fVVV 7 1 2 3) (fun v t => { val := (v t).a }) ∧
    fitsOut s { a := some (.s 2), qp := 7, dst := some (.v 27) } (fun v t => { val := (v t).a }) ∧
    fitsOut s { a := some (.v 2), b := some (.s 3), dst := some (.s 1) } (fun v t => .ofS (v t).sa) ∧
    fitsOut s { a := some (.v 2), b := some (.s 3), dst := some (.v 1) } (fun v t => { val := (v t).a }) ∧
    fitsOut s { a := some (.v 2), qp := 0, dst := some (.s 1) }
      (fun v t => vredOut .f32 .add .rne false [elem 32 (v t).a 0, elem 32 (v t).a 1]) ∧
    fitsOut s (fVVV 0 1 2 2) (fun v t => mapFloat 32 (v t).q (v t).old fun k => vdotFloat .f16 .rne false (v t) k) ∧
    fitsOut s { a := some (.q 0), b := some (.q 7), dst := some (.q 7) } (fun v t => { val := (v t).a &&& (v t).b }) ∧
    fitsOut s { a := some (.v 2), dst := some (.q 0) } (fun v t => { val := (v t).a }) ∧
    fitsOut s { a := some (.s 2), dst := some (.q 7) } (fun v t => { val := (v t).a }) ∧
    fitsOut s { a := some (.q 7), dst := some (.s 1) } (fun v t => .ofS (v t).sa) := by
  unfold fitsOut State.Issues State.OperandsReady
  repeat' apply And.intro
  all_goals decide +kernel

theorem witness_VectorFloat :
    let s := splitV [(2, 0x3F800000), (3, 0x40000000)]
    fitsOut s (fVVV 0 1 2 3) (fun v t => mapFloat 32 (v t).q (v t).old fun k =>
      fAdd .f32 .rne false (elem 32 (v t).a k) (elem 32 (v t).b k)) ∧
    fitsOut s { a := some (.v 2), b := some (.v 3), c := some (.v 2), dst := some (.v 1) } (fun v t =>
      mapFloat 16 (BitVec.allOnes 32) (v t).old fun k =>
        fFma .f16 .rne false false false (elem 16 (v t).a k) (elem 16 (v t).b k) (elem 16 (v t).c k)) := by
  unfold fitsOut State.Issues State.OperandsReady
  repeat' apply And.intro
  all_goals decide +kernel

theorem witness_LaneInstructions :
    fitsOut lanes8 { a := some (.v 4), b := some (.s 6), qp := 3, dst := some (.v 1) } (fun v t =>
      { val := mapElems 32 (v t).q (v t).old fun e => elem 32 (v (t ^^^ 1)).a e }) ∧
    fitsOut lanes8 { a := some (.v 4), qp := 3, dst := some (.v 1) } (fun v t =>
      mapFloat 32 (v t).q (v t).old fun e =>
        combine .i32 .add .rne false (((unit lanes8).active.filter fun u => (v u).q.getLsbD (32 * e / 8)).map fun u =>
          elem 32 (v u).a e)) ∧
    fitsOut lanes8 (fSS 1 7) (fun v t => .ofS (v t).sa) := by
  unfold fitsOut State.Issues State.OperandsReady
  repeat' apply And.intro
  all_goals decide +kernel

/-- A quiet NaN under every special function raises nothing; 1.0 converts to an integer exactly. -/
theorem witness_Conversions :
    let s := split [(2, 0x7FC00000)]
    let x := splitV [(2, 0x3F800000)]
    fitsOut (split [(2, 0x3F800000)]) (fSS 1 2) (fun v t =>
      { LaneOut.ofS 0 with fl := (cvtAny .i32 .f32 .rne false (v t).sa.toNat).2 }) ∧
    fitsOut x { a := some (.v 2), qp := 3, dst := some (.v 1) } (fun v t =>
      cvtVec 32 8 3 (v t).q true .rne (fun m a => cvtFF .e4m3 .f32 m false a) (v t) 0x9C3B) ∧
    fitsOut x { a := some (.v 2), b := some (.s 3), qp := 3, dst := some (.v 1) } (fun v t =>
      cvtVec 32 8 0 (v t).q false .rne (fun m a => cvtScaled .e4m3 .f32 m ((v t).sb.toNat % 256) a) (v t) 0) ∧
    fitsOut x { a := some (.v 2), dst := some (.v 1) } (fun v t =>
      cvtVec 32 32 0 (BitVec.allOnes 32) false .rne (fun m a => cvtAny .i32 .f32 m false a) (v t) 0) ∧
    (∀ op ∈ [SfuOp.exp2, .log2, .rcp, .rsq, .sin, .cos],
      ∀ t ∈ (unit s).active, (sfu op false (((unit s).lane (fSS 1 2) (s.free, s.clock) t).sa.toNat % 2 ^ 32)).2 = 0) ∧
    fits s (fSS 1 2) ∧ fits s { a := some (.v 2), qp := 3, dst := some (.v 1) } := by
  unfold fitsOut fits State.Issues State.OperandsReady
  repeat' apply And.intro
  all_goals decide +kernel

/-- Lanes 1, 3, 4 and 6 of a group; a destination that is a register, one that is a port, and a source that is a port. -/
theorem witness_Completing :
    let s := lanes8
    s.Issues (unit s) ∧ 6 ∈ (unit s).active ∧ 7 ∉ (unit s).active ∧ portOf (.s 27) = none ∧
    portOf (.s 28) = some (.n, false) ∧ (fSSS 27 2 3).pops = [] ∧ (fSSS 27 2 3).push = none ∧
    (fSSS 31 29 29).pops = [(.e, false), (.e, false)] ∧ (fSSS 31 29 29).push = some (.w, false) ∧
    s.wg? 2 = none ∧ s.wg? 1 ≠ none := by
  unfold State.Issues
  repeat' apply And.intro
  all_goals decide +kernel

-- Control transfer and the forms of a unit.

/-- Entries of a reconvergence stack: a JOIN at the bottom, PATH entries above it. -/
def stack (n : Nat) : List StackEnt := List.replicate n ⟨false, 0x2000, 0⟩ ++ [⟨true, 0x3000, 0xFF⟩]

/-- A partial outcome with a JOIN and an entry free, one without a JOIN, and one with the stack full. -/
theorem witness_Branches :
    let s := group8 0x5A (stack 6) fun t => thr [(2, w64 (t % 2))]
    let none' := group8 0x5A [] fun _ => {}
    let full := group8 0x5A (stack 7) fun _ => {}
    fits s { a := some (.s 2), b := some (.s 3) } ∧ (unit s).active = [1, 3, 4, 6] ∧ (unit s).u.tx = none ∧
    (∃ g, (unit s).grp = some g ∧ g.stack.any (·.join) = true ∧ g.stack.length = 7) ∧
    none'.Issues (unit none') ∧ (∃ g, (unit none').grp = some g ∧ g.stack.any (·.join) = false) ∧
    full.Issues (unit full) ∧ (∃ g, (unit full).grp = some g ∧ 8 ≤ g.stack.length) ∧ (unit full).u.tx = none ∧
    (split []).Issues (unit (split [])) ∧ (unit (split [])).grp = none := by
  unfold fits State.Issues State.OperandsReady
  repeat' apply And.intro
  all_goals decide +kernel

/-- One target for all lanes, targets that differ, and a misaligned one. -/
theorem witness_Jumps :
    let one := group8 0x5A [] fun _ => thr [(2, 0x1000)]
    let more := group8 0x5A [] fun t => thr [(2, w64 (4 * t))]
    let odd := group8 0x5A [] fun t => thr [(2, w64 (2 * t))]
    let target := fun (s : State) t => ((s.thr 1 t).vals (fSS 1 2)).sa + (0 : BitVec 16).signExtend 64
    fits one { dst := some (.s 1) } ∧ fits one (fSS 1 2) ∧
    (∀ t ∈ (unit one).active, (target one t).toNat % 4 = 0 ∧ target one t = target one (unit one).lead) ∧
    fits more (fSS 1 2) ∧ (unit more).grp ≠ none ∧ (unit more).u.tx = none ∧
    (∀ t ∈ (unit more).active, (target more t).toNat % 4 = 0) ∧
    (∃ t ∈ (unit more).active, target more t ≠ target more (unit more).lead) ∧
    fits odd (fSS 1 2) ∧ (∃ t ∈ (unit odd).active, (target odd t).toNat % 4 ≠ 0) := by
  unfold fits State.Issues State.OperandsReady
  repeat' apply And.intro
  all_goals decide +kernel

/-- The full mask, and a partial one with KDIVTRAP clear and set. -/
theorem witness_UniformRegisters :
    let s := group8 0xFF [] fun _ => {}
    let p := group8 0x5A [] fun _ => {}
    let q := p.modSh (unit p) fun h => { h with kdivtrap := true }
    fits s { a := some (.s 2) } ∧ (unit s).partialMask = false ∧ fits p { a := some (.s 2) } ∧
    (unit p).partialMask = true ∧ (unit p).u.sh.kdivtrap = false ∧ fits q { a := some (.s 2) } ∧
    (unit q).partialMask = true ∧ (unit q).u.sh.kdivtrap = true ∧
    fitsOut s { dst := some (.s 1) } (fun _ _ => .ofS 0) := by
  unfold fits fitsOut State.Issues State.OperandsReady
  repeat' apply And.intro
  all_goals decide +kernel

/-- A split thread without and with a rejoin record, and a reconverged group of 8 that asks for its own size or more. -/
theorem witness_ModeInstructions :
    let s := split []
    let r := on (wg [(0, { rejoin := some ⟨0, 0, .f8, 0xFF, 0x2000⟩ })])
    let g := group8 0xFF [] fun _ => {}
    s.Issues (unit s) ∧ (unit s).u.tx = none ∧ (unit s).id.t < 128 ∧ (unit s).grp = none ∧
    (unit s).w.fuseConflict 0 0 .f8 = false ∧ ((unit s).w.thr 0).rejoin = none ∧
    r.Issues (unit r) ∧ (unit r).grp = none ∧ ((unit r).w.thr 0).rejoin ≠ none ∧
    g.Issues (unit g) ∧ (∃ k, (unit g).grp = some k ∧ k.f = .f8 ∧ laneCount k.f < laneCount .f32 ∧ k.active = k.live ∧
      k.stack = []) ∧ (unit g).w.fuseConflict 0 0 .f32 = false := by
  unfold State.Issues
  repeat' apply And.intro
  all_goals decide +kernel

/-- FUSE of a task; of a split thread that conflicts with thread 1's pending arrival, with a record that threads 0 and 1
hold and without; of a smaller size; of a group with a partial mask; of a whole group that conflicts. -/
theorem witness_ModeInstructions_traps :
    let task : State := { wgs := [wg [(128, {})]], cur := some ⟨1, 128⟩ }
    let c := on (wg [(0, {}), (1, { arrival := some .f16 })])
    let r : Rejoin := ⟨0, 0, .f8, 3, 0x2000⟩
    let held := fun (a : Option FSize) => on (wg [(0, { rejoin := some r }), (1, { rejoin := some r }), (2, { arrival := a })])
    let big := on (wg ((List.range 16).map fun t => (t, {}))
      [{ col := 0, base := 0, f := .f16, live := 0xFFFF, active := 0xFFFF }])
    let part := group8 0x5A [] fun _ => {}
    let full := on (wg ((9, { arrival := some .f16 }) :: (List.range 8).map fun t => (t, {}))
      [{ col := 0, base := 0, f := .f8, live := 0xFF, active := 0xFF }])
    task.Issues (unit task) ∧ (unit task).id.t = 128 ∧ (unit task).u.tx = none ∧
    c.Issues (unit c) ∧ (unit c).w.fuseConflict 0 0 .f8 = true ∧ ((unit c).w.thr 0).rejoin = none ∧
    (∀ a ∈ [none, some .f16], (held a).Issues (unit (held a)) ∧ ((unit (held a)).w.thr 0).rejoin = some r ∧
      ((unit (held a)).w.dropRecord r).fuseConflict 0 0 .f8 = a.isSome) ∧
    ((unit (held none)).w.thr 1).rejoin = some r ∧ r.live.getLsbD 1 = true ∧
    big.Issues (unit big) ∧ ((unit big).grp.map fun g => decide (laneCount .f8 < laneCount g.f)) = some true ∧
    ((unit part).grp.map fun g => decide (g.active ≠ g.live)) = some true ∧
    full.Issues (unit full) ∧ ((unit full).grp.map fun g => decide (g.active = g.live ∧ g.stack = [])) = some true ∧
    (unit full).w.fuseConflict 0 0 .f32 = true := by
  unfold State.Issues
  repeat' apply And.intro
  all_goals decide +kernel

/-- Lane 4 of a group at U traps 0x0B while lanes 1, 3 and 6 are active too. -/
theorem witness_SplittingAGroup :
    let s := group8 0x5A (stack 1) fun _ => {}
    s.Issues (unit s) ∧ s.wg? (unit s).w.id = some (unit s).w ∧ (∃ g, (unit s).grp = some g ∧ 4 ∈ (unit s).active ∧
      g.active &&& ~~~g.live = 0 ∧ 7 ∈ g.lanesOf g.live) ∧ (unit s).u.tx = none ∧ ¬(5 ≤ 0x0B ∧ 0x0B ≤ 7) ∧
    ((unit s).w.thr 4).shnd = false ∧ (unit s).u.sh.priv = .s := by
  unfold State.Issues
  repeat' apply And.intro
  all_goals decide +kernel

/-- The last span of a column, threads 24 to 31, all arrived but thread 31, which has exited; thread 24, whose FIFO is the
group's, still holds a command. -/
theorem witness_FormingAGroup :
    let w := wg ((List.range 8).map fun t => (24 + t, if t = 7 then { exited := true }
      else { arrival := some .f8, fifo := if t = 0 then [⟨0, 0, 0, 0, 0, .u, none⟩] else [] }))
    let ts := (List.range (laneCount .f8)).map (32 * 0 + 24 + ·)
    (on w).wg? w.id = some w ∧ ts.filter (fun t => !(w.thr t).exited) = [24, 25, 26, 27, 28, 29, 30] ∧
    24 % laneCount .f8 = 0 ∧ 24 + laneCount .f8 ≤ 32 ∧ 32 * 0 < w.cfg.threads ∧
    (∀ t ∈ ts, ((w.thr t).exited = true ∨ (w.thr t).arrival = some .f8) ∧ (t = 24 ∨ (w.thr t).fifo = [])) ∧
    (w.thr 24).fifo ≠ [] ∧
    (∀ k ∈ w.groups, k.spans (32 * 0 + 24) = true → k.t0 ∈ ts) := by decide +kernel

/-- Threads 0 and 2 of a record of three lanes wait at the rejoin PC, the others having exited; a group past its SPLITTHR
of 256. -/
theorem witness_FormingAGroup_again :
    let r : Rejoin := ⟨0, 0, .f8, 7, 0x2000⟩
    let th : Thread := { rejoin := some r, u := { pc := 0x2000 } }
    let w := wg ((List.range 8).map fun t => (t, if t = 0 ∨ t = 2 then th else { exited := true }))
    let ts := (List.range (laneCount r.f)).map (32 * r.col + r.base + ·)
    let v := wg ((List.range 8).map fun t => (t, {}))
      [{ col := 0, base := 0, f := .f8, live := 0xFF, active := 1, low := 257 }]
    (w.thr 2).rejoin = some r ∧ ts.filter (fun t => !(w.thr t).exited) = [0, 2] ∧ (on w).wg? w.id = some w ∧
    ((bitsOf 32 r.live.toNat).map (0 + ·)).filter (fun t => !(w.thr t).exited) = [0, 2] ∧
    (∀ u ∈ [0, 2], (w.thr u).rejoin = some r ∧ (w.thr u).park = none ∧ (w.ust u).pc = r.pc ∧ (w.thr u).fifo = []) ∧
    (on v).wg? v.id = some v ∧ (∃ g, v.groupOf 5 = some g ∧ g.u.tx = none ∧ g.u.sh.splitthr ≠ 0 ∧
      g.u.sh.splitthr.toNat < g.low) := by
  repeat' apply And.intro
  all_goals decide +kernel

-- Memory.

/-- A device whose cluster 0 translates page 0x10000 to device memory at 0x10000 with R and W, and page 1 to 0x20000
with X, for one workgroup of 4 KiB of scratchpad. -/
def mapped (w : Workgroup) : State :=
  { on { w with cfg := { scratch := 4096, hb := 16 } } with
    clusters := [(0, { tlb := [⟨0, 0, 0x10000, 0x1000F⟩, ⟨0, 0, 1, 0x20017⟩] })] }

/-- Thread 0 at S, split, with scalar registers, in such a device. -/
def mappedOne (l : List (Nat × Word)) : State := mapped (wg [(0, thr l)])

/-- The group of 8 at S, mask 0x5A, in such a device. -/
def mappedGroup (f : Nat → Thread) : State :=
  mapped (wg ((List.range 8).map fun t => (t, f t))
    [{ col := 0, base := 0, f := .f8, live := 0xFF, active := 0x5A, u := { sh := { priv := .s } } }])

/-- Where the accesses that pass their checks lead. -/
def goods (s : State) (k : Access) (reads : Bool) (as : List LaneAcc) : List (LaneAcc × Probe) :=
  as.filterMap fun a => match s.chk (unit s) k reads a with
    | .good a p => some (a, p)
    | .bad _ _ | .wait _ => none

/-- All the accesses are ready. -/
def ok (s : State) (k : Access) (reads : Bool) (as : List LaneAcc) : Prop :=
  s.AccessReady (unit s) k reads as (goods s k reads as) ∧ as ≠ []

/-- The last 4 bytes of a line of device memory, and locations beside them and elsewhere. -/
theorem witness_ReadAfterWrite :
    0x1001C % 32 + [1, 2, 3, (4 : Byte)].length ≤ 32 ∧ (Loc.mem .dev 0x1001C false).apart 4 (.mem .dev 0x10020 true) ∧
    (Loc.mem .dev 0x1001C false).apart 4 (.sram 0 0) ∧ (Loc.sram 0 64).apart 4 (.sram 0 68) ∧
    (Loc.sram 0 64).apart 4 (.sram 1 64) := by
  unfold Loc.apart
  repeat' apply And.intro
  all_goals decide +kernel

/-- Loads at the end of the window view, of device memory, and of a group's lanes. -/
theorem witness_ScalarLoads :
    let s := mappedOne [(2, ownAddr 0xFF8), (3, 0x10000000)]
    let g := mappedGroup fun t => thr [(2, ownAddr (8 * t))]
    fitsTx s (fSS 1 2) ∧ ok s .load true [⟨0, ownAddr 0xFF8, 8⟩] ∧ ok s .load true [⟨0, 0x10000000, 8⟩] ∧
    portOf (.s 1) = none ∧ portOf (.s 2) = none ∧
    fitsTx g (fSS 1 2) ∧ ok g .load true ((unit g).active.map fun t => ⟨t, ownAddr (8 * t), 4⟩) := by
  unfold fitsTx fits ok State.Issues State.OperandsReady State.AccessReady
  repeat' apply And.intro
  all_goals decide +kernel

/-- Eight elements of 32 bits from the window view, outside a transaction. -/
theorem witness_VectorLoads :
    let s := mappedOne [(2, ownAddr 0xFE0)]
    let f : Fields := { a := some (.s 2), b := some (.s 3), qp := 0, dst := some (.v 1) }
    let as := (List.range 8).map fun k => LaneAcc.mk 0 (ownAddr 0xFE0 + w64 (4 * k)) 4
    fits s f ∧ portOf (.v 1) = none ∧ ok s .load true as ∧ (unit s).u.tx.isSome = false ∧
    (s.txTouch (unit s) (locsOf (goods s .load true as)) true false).isSome := by
  unfold fits ok State.Issues State.OperandsReady State.AccessReady
  repeat' apply And.intro
  all_goals decide +kernel

/-- A transaction that has done nothing yet. -/
def tx0 : Tx := { rd := 1, regs := [(0, {})], k := [], fcsr := 0, active := 0, stack := [], low := 0, pc := 0x1004 }

/-- A store to the own window, one to cluster 1's window, and one inside a transaction. -/
theorem witness_Stores :
    let s := mappedOne [(2, ownAddr 0xFF8), (3, 0xFFFF800000080000)]
    let y := s.modU (unit s) fun u => { u with tx := some tx0 }
    let f : Fields := { a := some (.s 2), d := some (.s 1) }
    let a : LaneAcc := ⟨0, ownAddr 0xFF8, 8⟩
    let b : LaneAcc := ⟨0, 0xFFFF800000080000, 8⟩
    fitsTx s f ∧ (unit s).grp = none ∧ ok s .store false [a] ∧ ok s .store false [b] ∧
    (goods s .store false [a, b]).map (·.2) = [.ok (.sram 0 0xFF8) none, .remote 1 0] ∧
    (unit s).remoteFull (goods s .store false [a, b]) = false ∧ s.needsLink (unit s) a (.ok (.sram 0 0xFF8) none) = false ∧
    fits y f ∧ ok y .store false [a] ∧ (unit y).u.tx.isSome = true ∧
    (∀ r ∈ goods y .store false [a], txForbids (unit y) r.2 = false) ∧
    (y.txTouch (unit y) (locsOf (goods y .store false [a])) false true).isSome := by
  unfold fitsTx fits ok State.Issues State.OperandsReady State.AccessReady
  repeat' apply And.intro
  all_goals decide +kernel

/-- In a group, lane 3's address is not a multiple of 4 and lane 4's lies outside the view; inside a transaction an
address of the own window, and one of another cluster's, that is not aligned either. -/
theorem witness_AccessTraps :
    let g := mappedGroup fun t => thr [(2, if t = 3 then ownAddr 2 else if t = 4 then ownAddr 0x1000 else ownAddr 0)]
    let acc := fun t => LaneAcc.mk t ((((unit g).w.thr t).vals (fSS 1 2)).sa) 4
    let y := (mappedOne [(2, ownAddr 2)]).modU (unit (mappedOne [])) fun u => { u with tx := some tx0 }
    let z := (mappedOne [(2, 0xFFFF800000080002)]).modU (unit (mappedOne [])) fun u => { u with tx := some tx0 }
    fits g (fSS 1 2) ∧ fits g { a := some (.s 2), d := some (.s 1) } ∧ fits y (fSS 1 2) ∧ fits z (fSS 1 2) ∧
    (unit y).u.tx.isSome = true ∧ y.txForbidden (unit y) .load ⟨0, ownAddr 2, 4⟩ = false ∧
    (unit z).u.tx.isSome = true ∧ z.txForbidden (unit z) .load ⟨0, 0xFFFF800000080002, 4⟩ = true ∧
    (∀ t ∈ (unit g).active, g.chk (unit g) .load true (acc t) ≠ .wait (acc t) ∧
      g.chk (unit g) .store false (acc t) ≠ .wait (acc t)) ∧
    (unit g).active.filter (fun t => match g.chk (unit g) .load true (acc t) with
      | .bad _ _ => true
      | .good _ _ | .wait _ => false) = [3, 4] ∧ (acc 3).va.toNat % (acc 3).n ≠ 0 := by
  unfold fits State.Issues State.OperandsReady
  repeat' apply And.intro
  all_goals decide +kernel

theorem witness_LoadStoreEvents :
    let w := wg [(0, {})]
    let s : State := { on w with clock := 2 ^ 20, clusters := [(0, { l1 := [{ bank := 0, sp := .dev, line := 5, data := 7, dirty := 1 }] })] }
    s.wg? w.id = some w ∧ (s.cl w.cluster).mq = [] ∧ (s.cl 0).l1[0]?.isSome ∧ s.epochAt + 2 ^ 20 ≤ s.clock := by
  repeat' apply And.intro
  all_goals decide +kernel

/-- A store of two bytes to cluster 1's window: with a workgroup there, without one, and on its way back. -/
theorem witness_RemoteStores :
    let r : RemoteStore := { id := 5, wg := 1, t := 0, src := 0, launch := 1, target := 1, off := 64
                             va := 0xFFFF800000080040, bytes := [1, 2], batch := 1
                             flag := some { wg := 1, lanes := [0], cf := 11 } }
    let v : Workgroup := { wg [] with id := 2, cluster := 1 }
    let s : State := { on (wg [(0, {})]) with remote := [{ r with id := 4, off := 128 }] ++ r :: [] }
    let s' : State := { s with wgs := s.wgs ++ [v] }
    (∀ q ∈ [{ r with id := 4, off := 128 }] ++ [], q.id ≠ r.id) ∧ r.done = none ∧
    (∀ q ∈ [{ r with id := 4, off := 128 }],
      ¬(q.done = none ∧ q.wg = r.wg ∧ (q.t = r.t ∨ q.batch = r.batch) ∧ q.target = r.target ∧
        q.off / 32 = r.off / 32)) ∧
    s'.target? r.launch r.target = some v ∧ s.target? r.launch r.target = none ∧
    ({ r with done := some false } : RemoteStore).done = some false := by
  repeat' apply And.intro
  all_goals decide +kernel

/-- The acknowledgement and the refusal of the last store of its instruction, with room in the mailbox and without, of a
thread and of a task that has ended. -/
theorem witness_RemoteStores_back :
    let r := fun (done : Bool) => ({ id := 5, wg := 1, t := 0, src := 0, launch := 1, target := 1, off := 64
                                     va := 0xFFFF800000080040, bytes := [1, 2], batch := 2, done := some done
                                     flag := some { wg := 1, lanes := [0], cf := 11 } } : RemoteStore)
    let w := wg [(0, { remote := 2, cf := [(11, 1)] })]
    let v := wg [(0, { mbox := { reserved := 64 } })]
    let s := fun (w : Workgroup) (done : Bool) => ({ on w with remote := [{ r done with id := 4, batch := 1 }] ++ r done :: [] } : State)
    (r true).done = some true ∧ (s w true).wg? 1 = some w ∧ (s w true).saved? 1 = none ∧
    w.sameTask 0 (r true).taskAt = true ∧ w.sameTask 0 (some 7) = false ∧ (s w true).linkReqs = [] ∧
    (∀ q ∈ [{ r true with id := 4, batch := 1 }] ++ [], ¬(q.batch = (r true).batch ∧ q.wg = 1 ∧ q.t = 0)) ∧
    w.mute 0 = false ∧ (w.thr 0).mbox.free ≠ 0 ∧ (s v true).wg? 1 = some v ∧ v.mute 0 = false ∧
    (v.thr 0).mbox.free = 0 ∧ (wg [(0, { exited := true })]).mute 0 = true := by
  repeat' apply And.intro
  all_goals decide +kernel

/-- An atomic on the own scratchpad with acquire and release, STRL, and one lane's step. -/
theorem witness_Atomics :
    let s := mappedOne [(2, ownAddr 64), (3, 1)]
    let x := unit s
    let f2 : Fields := { a := some (.s 2), b := some (.s 3), dst := some (.s 1) }
    let a : LaneAcc := ⟨0, ownAddr 64, 8⟩
    let rs := goods s .atomic true [a]
    fitsTx s f2 ∧ fitsTx s { f2 with d := some (.s 1) } ∧ fitsTx s { a := some (.s 2), dst := some (.s 1) } ∧
    fitsTx s { a := some (.s 2), b := some (.s 3) } ∧ ok s .atomic true [a] ∧ ok s .load true [a] ∧
    ok s .store false [a] ∧ rs.map (·.2) = [.ok (.sram 0 64) none] ∧ isPcie (.sram 0 64) = false ∧
    s.releaseWaits x x.active .device = false ∧ (s.txTouch x (locsOf rs) true true).isSome ∧ scopeWide .device = true ∧
    s.farAtomics .device rs = [] ∧ fitsTx s { f2 with c := some (.s 27) } ∧
    fitsTx s { a := some (.s 2), b := some (.s 3), c := some (.s 27) } := by
  unfold fitsTx fits ok State.Issues State.OperandsReady State.AccessReady
  repeat' apply And.intro
  all_goals decide +kernel

/-- An AMOAND on host memory, and a STRL to cluster 1's window. -/
theorem witness_Atomics_far :
    let e : TlbEnt := ⟨0, 0, 0x10000, 0x1020F⟩
    let s := { mappedOne [(2, 0x10000000)] with clusters := [(0, { tlb := [e] })] }
    let a : LaneAcc := ⟨0, 0x10000000, 8⟩
    let r := mappedOne [(2, 0xFFFF800000080000)]
    let b : LaneAcc := ⟨0, 0xFFFF800000080000, 8⟩
    fitsTx s { a := some (.s 2), b := some (.s 3), dst := some (.s 1) } ∧ ok s .atomic true [a] ∧
    (goods s .atomic true [a]).map (·.2) = [.ok (.mem .host 0x10000 false) (some e)] ∧
    isPcie (.mem .host 0x10000 false) = true ∧ ¬(Aop.and = .add ∨ Aop.and = .swap ∨ Aop.and = .cas) ∧
    fitsTx r { a := some (.s 2), b := some (.s 3) } ∧ ok r .store false [b] ∧
    (goods r .store false [b]).map (·.2) = [.remote 1 0] ∧ r.releaseWaits (unit r) (unit r).active .device = false ∧
    (unit r).remoteFull (goods r .store false [b]) = false := by
  unfold fitsTx fits ok State.Issues State.OperandsReady State.AccessReady
  repeat' apply And.intro
  all_goals decide +kernel

/-- A thread with flag 1 set: WAITF of the other flags goes on; a critical mark whose time has passed. -/
theorem witness_Fences :
    let s := on (wg [(0, { cf := [(1, 2)], u := { sh := { crit := some 5 } } })])
    let x := unit s
    let t : State := { s with clock := 5 }
    fitsTx s { a := some (.s 2) } ∧ fitsTx s {} ∧ s.releaseWaits x x.live .system = false ∧
    (∀ t ∈ x.live, ∀ k, k < 12 → (0xFFD : BitVec 12).getLsbD k = true → mget 0 (x.w.thr t).cf k = 0) ∧
    t.wg? x.w.id = some x.w ∧ (x.w.ust 0).sh.crit = some 5 ∧ 5 ≤ t.clock ∧
    laneScope .rect (35 * 2 ^ 12 + 15 * 2 ^ 18) = .rect ∧ laneScope .rect (36 * 2 ^ 12 + 15 * 2 ^ 18) = .device ∧
    laneScope .rect (1 + 15 * 2 ^ 18) = .device ∧ laneScope .die (1 + 15 * 2 ^ 18) = .die := by
  unfold fitsTx fits State.Issues State.OperandsReady
  repeat' apply And.intro
  all_goals decide +kernel

/-- A dirty byte in pipe 3's private bank; the same pipe where its quad takes part in the cluster-shared part. -/
theorem witness_ReleaseAndAcquire :
    let k : L1Line := { bank := 3, sp := .dev, line := 5, data := 7 * 256, dirty := 2 }
    let s : State := { clusters := [(0, { l1 := [k] })] }
    let q := split []
    k ∈ (s.cl 0).l1 ∧ k.dirty ≠ 0 ∧ k.sp = .dev ∧ k.line = 161 / 32 ∧ k.dirty.getLsbD (161 % 32) = true ∧
    (∀ j ∈ (s.cl 0).l1, j.sp = .dev → j.line = 161 / 32 → j.dirty.getLsbD (161 % 32) = true →
      vbyte j.data (161 % 32) = vbyte k.data (161 % 32)) ∧
    k.bank = s.bankOf 0 3 ∧ s.bankOf 0 3 ≠ 32 ∧ 0 + 1 ≤ s.l1cap 0 32 ∧
    ((s.cl 0).l1.filter fun l => l.bank == 32).length = 0 ∧
    (q.bankOf 0 0 = 32 ∨ (eight 0xFF fun _ => {}).bankOf 0 0 = 32) ∧ k.dirty.getLsbD 31 = false := by
  repeat' apply And.intro
  all_goals decide +kernel

/-- Without a transaction, inside one, inside a doomed one; a split thread and the lanes of a group. -/
theorem witness_Transactions :
    let s := on (wg [(0, thr [])])
    let y := s.modU (unit s) fun u => { u with tx := some tx0 }
    let d := s.modU (unit s) fun u => { u with tx := some { tx0 with doomed := some 3 } }
    let g := lanes8
    let z : Tx := { tx0 with regs := (List.range 8).map fun t => (t, {}), active := 0x5A }
    let h := g.modU (unit g) fun u => { u with tx := some z }
    fitsTx s { dst := some (.s 1) } ∧ y.Issues (unit y) ∧ (unit y).u.tx = some tx0 ∧ tx0.doomed = none ∧
    d.wg? 1 = some (unit d).w ∧ (((unit d).w.ust 0).tx.bind (·.doomed)) = some 3 ∧ (unit y).w.groupOf 0 = none ∧
    tx0.regs = [(0, {})] ∧ h.wg? 1 = some (unit h).w ∧ ((unit h).w.ust 3).tx = some z ∧
    ((unit h).w.groupOf 3).isSome ∧ (z.regs.map (·.1)).Nodup ∧ fits s { dst := some (.s 1) } ∧ (unit s).pending = false ∧
    (let b := on (wg [(0, { thr [] with busy := [.v 5] })])
     fitsTx b { dst := some (.s 1) } ∧ (unit b).pending = true) := by
  unfold fitsTx fits State.Issues State.OperandsReady
  repeat' apply And.intro
  all_goals decide +kernel

-- The machine as a whole.

/-- The step answers a next state with a property. -/
def stepsTo (s : State) (p : State → Bool) : Bool :=
  match step s with
  | .next t => p t
  | .fault _ | .refused _ => false

/-- Thread 0 at 0x1000, the word of ADD at 0x20000 of device memory, pipe 0's turn. -/
def runs : State :=
  { mapped (wg [(0, { r := { s := [(6, 40), (7, 2)] }, u := { pc := 0x1000, sh := { priv := .s } } })]) with
    mem := [(0x20000, 0x00), (0x20001, 0x38), (0x20002, 0xA6), (0x20003, 0x04)].filter (·.2 ≠ 0)
    agenda := [⟨.pipe 0 0, 1⟩] }

/-- The turn of a pipe as in the statement: the candidates, the unit free to issue, the word fetched and decoded. -/
theorem witness_StepRunsDecoded :
    let ks := runs.candidates 0 0
    let k := ks.headD ⟨0, ⟨0, 0⟩, false, false⟩
    let s0 := ({ runs with agenda := [] } : State).yieldTick ks
    let s1 : State := { s0 with cur := some k.id, stalled := false, curFlag := none }
    let x := unit s1
    let s2 := s1.reconverged x
    let y := unit s2
    let i := Instr.add false 5 6 7
    runs.stopped = false ∧ runs.pipeUsed 0 0 = false ∧ runs.pipeDone 0 0 = false ∧
    ({ runs with agenda := [] } : State).leadPipe 0 0 = 0 ∧ s0.selectable 0 ks = [k] ∧
    s1.issuer? = some x ∧ s1.heldBack x = false ∧ x.u.tx.bind (·.doomed) = none ∧ s2.issuer? = some y ∧ y.grp = none ∧
    (match s2.fetch y with
      | .word s3 w => w == 0x04A63800 && match exec i { s3 with curFlag := none } with
        | .next t => !t.stalled
        | .fault _ | .refused _ => false
      | .trap _ | .wait _ => false) = true ∧ (decode 0x04A63800).toOption = some i ∧ y.u.clause = none ∧
    flagFor y.u i = none ∧
    s2.probe y.w y.lead y.u.sh.priv .fetch y.pc 4 = .ok (.mem .dev 0x20000 false) (some ⟨0, 0, 1, 0x20017⟩) ∧
    (s2.cl y.cl).icache = [] ∧ s2.farLoc (.mem .dev 0x20000 false) = false ∧ s2.memFail .dev 0x20000 4 = none := by
  repeat' apply And.intro
  all_goals decide +kernel

/-- The step runs the instruction at the program counter: s5 takes s6 + s7 and the PC moves on. -/
theorem test_step_runs_the_word :
    stepsTo runs fun t => (t.thr 1 0).r.sget 5 = 42 ∧ (t.thr 1 0).u.pc = 0x1004 := by decide +kernel

theorem witness_MemoryInvariant :
    let s : State := { agenda := [⟨.event (.hostWrite 0 (.bar2 64) [1, 2]), 1⟩] }
    s.MemoryOk ∧ stepsTo s fun t => t.mem = [(64, 1), (65, 2)] := by
  unfold State.MemoryOk
  repeat' apply And.intro
  all_goals decide +kernel

/-- From reset the first word placed runs first: ADDI s1, s0, 7. -/
theorem test_first_word_after_reset :
    stepsTo (State.reset.withFetchWord 32 0x08200007) fun t =>
      t.wgs.map (fun w => (w.thr 0).r.sget 1) = [7] := by decide +kernel

-- Traps, the system and its registers.

/-- At U with cause 4 delegated; with the S handler running; with neither; a page whose walk has failed, before its ticket
and under ticket 9. -/
theorem witness_Traps :
    let u := wg [(0, { u := { sh := { trapvec := 0x8000 } } })]
    let k := wg [(0, { shnd := true })]
    let n := wg [(0, {})]
    let e : MergeEnt := { ctx := 0, vpn := 5, waiters := [], failed := some true }
    let s := fun (e : MergeEnt) => ({ on n with clusters := [(0, { merge := [e] })] } : State)
    let find := fun (s : State) => (s.cl 0).merge.find? fun m => m.ctx == n.ctx && m.vpn == vpnOf 0x5FF8 0
    let d : State := { on u with ctxs := [(0, { sdeleg := 16 })] }
    d.wg? u.id = some u ∧ ¬(5 ≤ 4 ∧ 4 ≤ 7) ∧ ((u.thr 0).u.sh.priv = .u ∧ (d.ctx u.ctx).sdeleg.getLsbD 4 = true ∧
      (u.thr 0).u.sh.trapvec ≠ 0 ∧ (u.thr 0).uhnd = false) ∧
    (on k).wg? k.id = some k ∧ (k.thr 0).u.sh.trapvec = 0 ∧ (k.thr 0).shnd = true ∧ 0 < 128 ∧
    (s e).wg? n.id = some n ∧ (n.thr 0).shnd = false ∧ (5 ≤ 5 ∧ 5 ≤ 7) ∧ (5 ≤ 7 ∧ 7 ≤ 7) ∧ find (s e) = some e ∧
    e.ticket = none ∧ find (s { e with ticket := some 9 }) = some { e with ticket := some 9 } := by
  repeat' apply And.intro
  all_goals decide +kernel

/-- TRET of a group whose lanes have the S handler running, and of a split thread in its U handler. -/
theorem witness_Traps_return :
    let s := group8 0x5A [] fun t => { shnd := true, ppriv := 1, trappc := w64 (0x100 + 4 * t) }
    let u := on (wg [(0, { uhnd := true })])
    s.Issues (unit s) ∧ (unit s).u.tx = none ∧ (unit s).lead = 1 ∧ 1 ∈ (unit s).active ∧
    ((unit s).w.thr 1).ppriv.toNat < 2 ∧ (unit s).u.sh.priv = .s ∧ ((unit s).w.thr 6).shnd = true ∧
    u.Issues (unit u) ∧ (unit u).lead ∈ (unit u).active ∧ (unit u).u.sh.priv = .u ∧ ((unit u).w.thr 0).uhnd = true := by
  unfold State.Issues
  repeat' apply And.intro
  all_goals decide +kernel

theorem witness_SystemInstructions :
    let s := on (wg [(0, { cf := [(11, 63)] })])
    s.Issues (unit s) ∧ (unit s).u.tx = none ∧ fitsOut s { dst := some (.s 1) } (fun _ _ => .ofS 0) ∧
    (∀ t ∈ (unit s).live, ∀ k, k < 12 → (0x7FF : BitVec 12).getLsbD k = true → mget 0 ((unit s).w.thr t).cf k = 0) := by
  unfold fitsOut State.Issues State.OperandsReady
  repeat' apply And.intro
  all_goals decide +kernel

/-- Thread 0 at S; its scratchpad holds an image of zeros with the marker in its last doubleword (R396, R397). -/
def imaged : State :=
  { mappedOne [(2, ownAddr 0), (3, 0x1000F)] with
    clusters := [(0, { sram := [(0xFF8, 0x01), (0xFFA, 0xA5), (0xFFB, 0xC7)] })] }

/-- At U; at S with a leaf that may be entered and one that may not; an image address of the window view. -/
theorem witness_SupervisorInstructions :
    let u := split []
    let s := imaged
    let as := imageAccs 0 (ownAddr 0)
    u.Issues (unit u) ∧ (unit u).u.sh.priv = .u ∧ (unit u).u.tx = none ∧
    fitsTx s { a := some (.s 2), b := some (.s 3) } ∧ fitsTx s { a := some (.s 2) } ∧ (unit s).u.sh.priv = .s ∧
    (unit s).pending = false ∧ (let b := on (wg [(0, { thr [] with busy := [.v 5] })])
      fitsTx b { a := some (.s 2) } ∧ (unit b).u.sh.priv = .s ∧ (unit b).pending = true) ∧
    (ownAddr 0).toNat % 256 = 0 ∧ ok s .store false as ∧ (unit s).remoteFull (goods s .store false as) = false ∧
    ok s .load true as ∧ (∀ sel, sel < 8 → (s.tlbinvOut 0 (w64 sel)).tlbinvWaits 0 0x10000000 (w64 sel) = false) ∧ nbit 0x1000F 0 = true ∧ nbit 0x1000F 1 = true ∧ malformed s.domSize 0 0x1000F = false ∧
    nbit 0 0 = false ∧ nbit 2 1 = true := by
  unfold fitsTx fits ok State.Issues State.OperandsReady State.AccessReady
  repeat' apply And.intro
  all_goals decide +kernel
/-- The image that CTXLD loads there passes the checks of R397. -/
theorem witness_SupervisorInstructions_image :
    imageOk (laneBytes ((imaged.dropReqs (unit imaged)).loads (unit imaged) true (goods imaged .load true (imageAccs 0 (ownAddr 0)))).2 0).flatten =
      true := by decide +kernel

/-- The first and the last number of each case; a device register in context 0 and in another one; lanes 3 and 4 of a
group in context 0 select context 7. -/
theorem witness_ControlRegisters :
    let s := mappedOne []
    let c := on { wg [(0, thr [])] with ctx := 3 }
    let u := split []
    let g := mappedGroup fun t => { thr [] with ctxsel := if t = 3 ∨ t = 4 then 7 else 0 }
    (unit g).active.map (unit g).ctxOf = [0, 7, 7, 0] ∧ (∀ t ∈ (unit g).active, (unit g).ctxOf t = (unit g).ctxOf 4 → 3 ≤ t) ∧
    fitsTx s { dst := some (.s 1) } ∧ fitsTx s { a := some (.s 1) } ∧ s.stalled = false ∧
    s.releaseWaits (unit s) (unit s).active .device = false ∧ csrAssigned 0x000 = true ∧ csrAssigned 0x125 = true ∧
    (unit s).u.sh.priv = .s ∧ csrAssigned 0x0FF = false ∧ csrAssigned 0xEFF = false ∧ csrAssigned 0xF00 = true ∧
    csrAssigned 0x100 = true ∧ u.Issues (unit u) ∧ (unit u).u.sh.priv = .u ∧ csrDevice 0x110 = true ∧
    (unit s).w.ctx = 0 ∧ c.Issues (unit c) ∧ (unit c).w.ctx ≠ 0 ∧ (unit c).u.tx = none ∧ (unit c).u.sh.priv = .s := by
  unfold fitsTx fits State.Issues State.OperandsReady
  repeat' apply And.intro
  all_goals decide +kernel

/-- A group that writes registers; a context that is held and one that is not, whose saved unit lacks a feature. -/
theorem witness_RegisterEvents :
    let s := group8 0x5A [] fun _ => {}
    let u : SavedUnit := { id := 2, launch := 7, ctx := 4095, wgs := [], pinned := 0x7F, since := 0, level := 0
                           joinWait := false }
    let h : State := { ctxs := [(4095, { hold := true, featset := 0x3F })], saved := [u] }
    let lacks := fun (fs : BitVec 7) => ∃ u ∈ h.saved, u.ctx = 4095 ∧ u.pinned &&& ~~~fs ≠ 0
    4095 < 4096 ∧ s.Issues (unit s) ∧ (0x7FFFFFFFFFFFFFFF : Word).getLsbD 63 = false ∧
    (0x8000000000000000 : Word).getLsbD 63 = true ∧ (1 : Nat) ≠ 0 ∧
    (∃ w ∈ s.wgs, w.ctx = 0) ∧ (4 : Nat) ≠ (unit s).ctxOf (unit s).lead ∧ 6 ∈ (unit s).active ∧
    (h.ctx 4095).hold = true ∧ (s.ctx 4095).hold = false ∧ h.incoming = [] ∧ s.incoming = [] ∧ lacks (h.ctx 4095).featset ∧
    ¬lacks ((0xFFFF : Word).setWidth 7) := by
  unfold State.Issues
  repeat' apply And.intro
  all_goals decide +kernel

-- Ports, matrices and keyed tables.

/-- Two neighbours of a split workgroup: thread 0's east is thread 1, thread 1's west thread 0. -/
def pair (out : Port) (back : Port) : State :=
  on (wg [(0, ({} : Thread).modPort .e fun _ => { out with topo := .lane }),
          (1, ({} : Thread).modPort .w fun _ => { back with topo := .lane })])

/-- A scalar and a vector value with a credit; a port to configure; a torus that is none, and a task. -/
theorem witness_NeighbourPorts :
    let s := pair { outS := some (7, none), outV := some (9, none), retS := 1, retV := 1 } { inS := List.replicate 7 0 }
    let w := (unit s).w
    let q := split []
    let x := unit q
    let k : State := { wgs := [wg [(128, {})]], cur := some ⟨1, 128⟩ }
    s.wg? w.id = some w ∧ s.mutual w 0 .e = some (1, 1) ∧ s.credits w 0 .e false ≠ 0 ∧ s.credits w 0 .e true ≠ 0 ∧
    ((w.thr 0).ports.get .e).outS = some (7, none) ∧ ((w.thr 0).ports.get .e).outV = some (9, none) ∧
    (mfind w.threads 0).isSome = true ∧
    q.Issues x ∧ x.u.tx = none ∧ ¬(Topo.lane = .cluster ∧ true = true ∧ x.w.cfg.torus = false) ∧
    ¬(Topo.lane ≠ .off ∧ x.isTask = true) ∧ (∀ t ∈ x.active, ((x.w.thr t).ports.get .e).outS = none ∧
      ((x.w.thr t).ports.get .e).outV = none) ∧ x.w.cfg.torus = false ∧
    k.Issues (unit k) ∧ (unit k).isTask = true ∧ fitsOut q { dst := some (.s 1) } (fun _ _ => .ofS 0) ∧
    (8 : BitVec 4).getLsbD 3 = true := by
  unfold fitsOut State.Issues State.OperandsReady
  repeat' apply And.intro
  all_goals decide +kernel

/-- A value that goes on to thread 1, and one of thread 1 that PCFG of thread 0 lets go on, or not. -/
theorem witness_NeighbourPorts_on_the_way :
    let s := pair { outS := some (7, none), outV := some (9, none), goS := some (1, 1), goV := some (1, 1) } {}
    let b := fun (n : Nat) => pair { inS := List.replicate n 0 } { outS := some (5, none) }
    let w := fun (n : Nat) => (unit (b n)).w
    (((unit s).w.thr 0).ports.get .e).goS = some (1, 1) ∧ (((unit s).w.thr 0).ports.get .e).goV = some (1, 1) ∧
    (∀ n ∈ [7, 8], (b n).peer (w n) 0 .e = some (1, 1) ∧ (b n).mutual (w n) 1 .w = some (1, 0) ∧
      (((w n).thr 1).ports.get .w).outS ≠ none ∧ (((w n).thr 1).ports.get .w).goS = none) ∧
    (b 7).credits (w 7) 1 .w false ≠ 0 ∧ (b 8).credits (w 8) 1 .w false = 0 ∧
    ((w 7).thr 1).portsSent = false ∧ ((w 7).thr 0).portsSent = true := by
  repeat' apply And.intro
  all_goals decide +kernel

/-- A group of 8 of a workgroup with two tiles, operands in its scratchpad, a valid E4M3 plan in slot 1, and one
instruction already queued. -/
def mats : State :=
  let w := { wg ((List.range 8).map fun t => (t, thr [(2, ownAddr 0), (3, 256), (4, 0x3F000000)]))
    [{ col := 0, base := 0, f := .f8, live := 0xFF, active := 0xFF, u := { sh := { priv := .s } } }] with
    cfg := { scratch := 8192, tiles := 2 } }
  { on w with clusters := [(0, { plan := 2, ab := [], mq := [{ ins := .mzacc 0 0, wg := 1, col := 0, base := 0, f := .f8, lanes := [0] }] })] }

/-- What a matrix instruction of a group asks of a state, as in the statement. -/
def matFits (s : State) (r : MatReq) : Bool :=
  let x := unit s
  let v := (x.w.thr x.lead).vals r.f
  match x.grp with
  | some g => !x.fragBusy r.fragA && !x.fragBusy r.fragB &&
      ((List.range (laneCount g.f / 8)).all fun q => (s.cl x.cl).arrayLen (g.base / 8 + q) < 4) &&
      s.matSub x g r == none && (match r.mem with
        | none => true
        | some (m, w) => s.matMem x ((List.range m).map fun i => v.sa + w64 i * v.sb) w == none)
  | none => false

theorem witness_MatrixIssue :
    let a := some (RegName.s 2)
    let b := some (RegName.s 3)
    let mma := Instr.mma .e4m3 false true 3 1 (.regs 1) (.buf 3)
    (split []).Issues (unit (split [])) ∧ (unit (split [])).grp = none ∧
    fitsTx mats { a := a, b := b } ∧ fitsTx mats { a := a } ∧ fitsTx mats {} ∧ fitsTx mats { b := some (.s 4) } ∧
    matFits mats { ins := mma, acc := some 1, mrow := 3, fragA := some 8 } = true ∧
    matFits mats { ins := .mmas false true 0 1 true true (.buf 0), acc := some 1, plan := some (1, false) } = true ∧
    matFits mats { ins := .mres false 0 1 true (.buf 0), acc := some 1, plan := some (1, false) } = true ∧
    matFits mats { ins := .mplan .e4m3 true true 0 4, f := { b := some (.s 4) } } = true ∧
    matFits mats { ins := .mplanS .e4m3 true true 2 4, f := { a := a, b := some (.s 4) }, mem := some (1, 2048) } =
      true ∧
    matFits mats { ins := .mzacc 3 1, acc := some 1, mrow := 3 } = true ∧
    matFits mats { ins := .mldacc 0 1 2 3, f := { a := a, b := b }, acc := some 1, mem := some (16, 256) } = true ∧
    matFits mats { ins := .mstacc .f32 .rne 0 1 2 3, f := { a := a, b := b }, acc := some 1
                   mem := some (16, 256) } = true ∧
    matFits mats { ins := .mldob true 3 0 true 2, f := { a := a }, mem := some (1, 8192) } = true ∧
    matFits mats { ins := .mscl true 2, f := { a := a }, mem := some (1, 512) } = true := by
  unfold fitsTx fits State.Issues State.OperandsReady
  repeat' apply And.intro
  all_goals decide +kernel

theorem witness_MatrixIssue_status :
    let z := eight 0xFF fun _ => {}
    let e : State := { mats with clusters := [] }
    fits z { dst := some (.s 1) } ∧ (unit z).grp.isSome ∧ (unit z).w.cfg.tiles = 0 ∧ fits mats { dst := some (.s 1) } ∧
    (unit mats).w.cfg.tiles ≠ 0 ∧ (mats.cl 0).arrayLen 0 < 4 ∧
    fits e { dst := some (.s 27) } ∧ (unit e).w.cfg.tiles ≠ 0 ∧ (e.cl 0).arrayLen 0 = 0 := by
  unfold fits State.Issues State.OperandsReady
  repeat' apply And.intro
  all_goals decide +kernel

/-- A queued instruction that heads its queue, one that has started, and the last row and column of its block. -/
theorem witness_MatrixQueues :
    let o : MatOp := { ins := .mzacc 3 5, wg := 1, col := 0, base := 0, f := .f8, lanes := [0] }
    let s : State := { clusters := [(0, { mq := [o] })] }
    (s.cl 0).mq[0]? = some o ∧ o.started = false ∧ (s.cl 0).mqHead 0 o = true ∧
    ({ o with started := true } : MatOp).started = true ∧ (3 : BitVec 2).toNat * o.m + o.m ≤ 64 ∧ 63 < 64 ∧
    (3 : BitVec 2).toNat * o.m ≤ 63 ∧ 63 < (3 : BitVec 2).toNat * o.m + o.m := by
  repeat' apply And.intro
  all_goals decide +kernel

/-- Instructions that have started, of a group of 16 lanes on arrays 2 and 3: an MPLAN.S of a tile with 64 values in
excess and one with more, MSTAT of a plan that is valid and of one that is not. -/
theorem witness_MatrixQueues_results :
    let o : MatOp := { ins := .mplanS .i8 false true 3 4, wg := 1, col := 0, base := 16, f := .f16, lanes := [16, 31], started := true }
    let tile := fun (n : Nat) => List.replicate (4 * n) (1 : Byte)
    let row := fun (n i : Nat) => if i = 0 then (2 ^ 1024 - 1) / 255 else if i = 1 ∧ n = 33 then 0x01010101 else 0
    let excess := fun (n : Nat) => (List.range 16).flatMap fun i => (List.range 32).flatMap fun g =>
      ((((List.range 4).map (4 * g + ·)).filter fun k => nonzero .i8 (rowElem .i8 (row n i) k)).drop 2)
    let w := { wg [] with cfg := { tiles := 2 } }
    let s : State := { on w with clusters := [(0, { plan := 32 })] }
    2 ∈ o.quads ∧ o.base + laneCount o.f ≤ 32 ∧ (∀ n ∈ [32, 33], ∀ i < 16, leNat (((tile n).drop (128 * i)).take 128) = row n i) ∧
    (excess 32).length = 64 ∧ ¬(excess 33).length ≤ 64 ∧
    s.wg? o.wg = some w ∧ w.cfg.tiles ≠ 0 ∧ w.cfg.tiles < 16 ∧ (s.cl 0).arrayLen 2 < 256 ∧ 31 ∈ o.lanes ∧
    (s.cl 0).planValid 2 1 = true ∧ (s.cl 0).planValid 2 0 = false ∧ portOf (.s 27) = none := by
  repeat' apply And.intro
  all_goals decide +kernel

/-- A table in use; one to claim with a spill buffer in page 0x10000; one to drain into that page. -/
theorem witness_KeyedInstructions :
    let w := { wg [(0, thr [(2, 0x0000000012800000), (3, 0x10000000), (4, 5)])] with
      kt := [{ kt0 with cap := 0, pins := [] }, {}, {}, {}] }
    let s := { mapped w with wgs := [{ w with cfg := { kt := 1024 } }] }
    let c := { mapped w with wgs := [{ w with cfg := { kt := 1024 }, kt := [{}, {}, {}, {}] }] }
    let f2 : Fields := { a := some (.s 2), b := some (.s 3), dst := some (.s 1) }
    let n := ktConfig 0x0000000212800000 0x10000000
    let r := KRun.steps (unit s) .ins (fun t => ((unit s).w.thr t).vals f2) (unit s).active (s.kRun (unit s) 0)
    let d := KRun.drain (unit s) ((unit s).ktAll ((unit s).table 0)) (s.kRun (unit s) 0)
    let as := (List.range d.2.length).map fun i => LaneAcc.mk 0 (0x10000000 + w64 (8 * i)) 8
    fitsTx s f2 ∧ fitsTx s (fSS 1 2) ∧ ((unit s).table 0).valid = true ∧ r.2.2 = [] ∧
    ((unit s).table 1).valid = false ∧ fitsTx c { a := some (.s 2), b := some (.s 3) } ∧
    (unit c).claimTrap 0 n = none ∧ pagesOf n.spillVa (8 * n.cap) = [0x10000] ∧
    c.probe (unit c).w 0 (unit c).u.sh.priv .store 0x10000000 1 = .ok (.mem .dev 0x10000 false)
      (some ⟨0, 0, 0x10000, 0x1000F⟩) ∧
    d.1.stop = none ∧
    s.farPairs (goods s .drain false as) = [] ∧ 0x10000000 % 8 = 0 ∧ (unit s).drainMeets ((unit s).table 0) 0x10000000 (8 * d.2.length) = false ∧
    d.2.length ≠ 0 ∧ ok s .drain false as ∧
    fitsTx s { dst := some (.s 1) } := by
  unfold fitsTx fits ok State.Issues State.OperandsReady State.AccessReady
  repeat' apply And.intro
  all_goals decide +kernel

/-- The greatest user key, and an insertion of it that places it. -/
theorem witness_KeyedSteps :
    let s : State := { keys16 with clusters := [] }
    let x := unit s
    let k := { kt0 with cap := 0 }
    let s' := s.engineWrite 0 (.sram 0 0) (emptySlots 4)
    let r : KRun := { s := s', k := k, y := none }
    r.stop.isNone ∧ r.y = none ∧ r.k.spilled = false ∧ 0xFFFFFFFF < 2 ^ 32 ∧ s'.sramFail x.cl 0 512 = none ∧
    0xFFFFFFFE ≤ 0xFFFFFFFE ∧ 0xFFFFFFFD < 0xFFFFFFFE ∧ (r.step x .ins 0xFFFFFFFD 7).2 = ktWord 0 7 := by
  repeat' apply And.intro
  all_goals decide +kernel

-- Engines, messages and barriers.

/-- A COPY of 5,120 bytes (spec/16), in s4 to s7. -/
def copyRegs : List (Nat × Word) := [(4, 0x0100000000001400), (5, ownAddr 0), (6, ownAddr 0x2000), (7, 0)]

/-- The command that ENQ forms from s4 to s7 of thread 0. -/
def cmdOf (s : State) : Cmd :=
  let f : Fields := { a := some (.s 4), b := some (.s 5), c := some (.s 6), d := some (.s 7), dst := some (.s 1) }
  let v := ((unit s).w.thr 0).vals f
  { d0 := v.sa, d1 := v.sb, d2 := v.sc, d3 := v.sd, tag := ((unit s).w.thr 0).nextTag, priv := (unit s).u.sh.priv }

/-- A command to push; a full FIFO; a command whose opcode is not listed; the completion with tag 5 behind another. -/
theorem witness_EngineCommands :
    let f : Fields := { a := some (.s 4), b := some (.s 5), c := some (.s 6), d := some (.s 7), dst := some (.s 1) }
    let s := mappedOne copyRegs
    let full := mapped (wg [(0, { thr copyRegs with fifo := List.replicate 4 (cmdOf s) })])
    let bad := mappedOne []
    let m : Msg := ⟨7, 0x1000050000000000, .device⟩
    let o : Msg := ⟨7, 0x1000040000000000, .device⟩
    let d := mapped (wg [(0, { thr [(2, 5)] with mbox := { msgs := [o] ++ m :: [] } })])
    fitsTx s f ∧ s.enqTrap (unit s) (cmdOf s) = none ∧ ¬(4 ≤ ((unit s).w.thr 0).fifo.length) ∧ (cmdOf s).mbox = false ∧
    s.releaseWaits (unit s) (unit s).live (cmdOf s).scope = false ∧
    fitsTx full f ∧ full.enqTrap (unit full) (cmdOf full) = none ∧ 4 ≤ ((unit full).w.thr 0).fifo.length ∧
    fitsTx bad f ∧ bad.enqTrap (unit bad) (cmdOf bad) = some 1 ∧
    fitsTx d { a := some (.s 2), dst := some (.s 26) } ∧ d.scoreboard (unit d) [.s 27] = false ∧
    ((unit d).w.thr 0).mbox.msgs = [o] ++ m :: [] ∧ m.isDone 5 = true ∧ (∀ y ∈ [o], y.isDone 5 = false) ∧
    fitsTx s (fSS 1 2) := by
  unfold fitsTx fits State.Issues State.OperandsReady
  repeat' apply And.intro
  all_goals decide +kernel

/-- Addresses that are canonical and one that is not, an ENQ whose result is pushed to the east, and an SREAD. -/
theorem witness_EngineCommands_addresses :
    let f : Fields := { a := some (.s 4), b := some (.s 5), c := some (.s 6), d := some (.s 7), dst := some (.s 1) }
    let far := mappedOne [(4, 0x0100000000001400), (5, ownAddr 0), (6, 0x0200000000000000), (7, 0)]
    let c : Cmd := { d0 := 0x0100000000001400, d1 := ownAddr 0, d2 := ownAddr 0x2000, d3 := 0, priv := .s }
    let p := pair {} {}
    cmdOf (mappedOne copyRegs) = c ∧ c.operands = [ownAddr 0, ownAddr 0x2000] ∧ canonical (ownAddr 0) = true ∧
    canonical (ownAddr 0x2000) = true ∧ fits far f ∧ cmdOf far = { c with d2 := 0x0200000000000000 } ∧
    ({ c with d2 := 0x0200000000000000 } : Cmd).operands = [ownAddr 0] ++ 0x0200000000000000 :: [] ∧
    canonical 0x0200000000000000 = false ∧ fitsTx p { f with dst := some (.s 29) } ∧
    ({ f with dst := some (.s 29) } : Fields).push ≠ none ∧
    ({ c with d0 := 0x2000000000000000 } : Cmd).op = 0x20 := by
  unfold fitsTx fits State.Issues State.OperandsReady
  repeat' apply And.intro
  all_goals decide +kernel

/-- The last semaphore of a context's range, and the first beyond it. -/
theorem witness_Semaphores :
    let s := { split [(2, 9), (3, 5)] with ctxs := [(0, { semSize := 10 })], sems := [(9, 5)] }
    let t := { split [(2, 10)] with ctxs := [(0, { semSize := 10 })] }
    let f : Fields := { a := some (.s 2), b := some (.s 3) }
    let fd : Fields := { f with dst := some (.s 1) }
    fitsTx s f ∧ fitsTx s fd ∧ (((unit s).w.thr 0).vals fd).sa.toNat % 4096 < (s.ctx 0).semSize ∧
    s.releaseWaits (unit s) (unit s).live .device = false ∧ (((unit s).w.thr 0).vals fd).sb ≤ mget 0 s.sems 9 ∧
    mget 0 s.sems 8 < (((unit s).w.thr 0).vals fd).sb ∧
    fitsTx t f ∧ fitsTx t fd ∧ (t.ctx 0).semSize ≤ (((unit t).w.thr 0).vals fd).sa.toNat % 4096 := by
  unfold fitsTx fits State.Issues State.OperandsReady
  repeat' apply And.intro
  all_goals decide +kernel

/-- The last barrier of a scratchpad of 4 KiB; an address that is not aligned, one beyond it; the bits of a barrier that
expects one arrival, of one that has it, of one in its next phase, and with a command pending. -/
theorem witness_StageBarriers :
    let s := mappedOne [(2, ownAddr 0xFF0), (3, 1)]
    let x := unit s
    let f : Fields := { a := some (.s 2), b := some (.s 3) }
    let b := stgInit 0 1
    fitsTx s f ∧ fitsTx s { f with dst := some (.s 1) } ∧ (x.stgOff (ownAddr 0xFF0)).toOption = some 0xFF0 ∧
    s.readFail x.cl 0 (.sram 0 (x.w.phys 0xFF0)) 16 = none ∧ (x.stgOff (ownAddr 0xFF8)).toOption = none ∧
    (ownAddr 0xFF8).toNat % 16 ≠ 0 ∧ (ownAddr 0x1000).toNat % 16 = 0 ∧
    x.w.cfg.scratch < (ownAddr 0x1000).toNat % 2 ^ 19 + 16 ∧ (x.stgOff (ownAddr 0x1000)).toOption = none ∧
    stgPend b = 0 ∧ 65535 % 65536 ≠ 0 ∧ 65536 % 65536 = 0 ∧ stgArrived b < stgExpect b ∧
    stgExpect (stgSet b 16 16 1) ≤ stgArrived (stgSet b 16 16 1) ∧ 8 ≤ stgStatus b 1 ∧ stgInv b = 0 ∧
    stgPend (BitVec.allOnes 128) ≠ 0 := by
  unfold fitsTx fits State.Issues State.OperandsReady
  repeat' apply And.intro
  all_goals decide +kernel

/-- A group that sends to its own cluster, one with a lane whose target is off the mesh, and one with a message for each
active lane. -/
theorem witness_Messages :
    let f : Fields := { a := some (.s 2), b := some (.s 3) }
    let s := mappedGroup fun t => thr [(2, w64 t)]
    let o := mappedGroup fun t => thr [(2, if t = 6 then 36 * 256 else 0)]
    let r := mappedGroup fun t => if t % 2 = 0 ∨ t = 1 ∨ t = 3 then { mbox := { msgs := [⟨w64 t, 0, .device⟩] } } else {}
    fitsTx s f ∧ (∀ t ∈ (unit s).active, sendTarget (unit s).cl (((unit s).w.thr t).vals f).sa ≠ none ∧
      s.releaseWaits (unit s) [t] (sendScope (unit s).cl (((unit s).w.thr t).vals f).sa) = false) ∧
    fitsTx o f ∧ (∃ t ∈ (unit o).active, sendTarget (unit o).cl (((unit o).w.thr t).vals f).sa = none) ∧
    fitsTx r { dst := some (.s 1) } ∧ (∀ t ∈ (unit r).active, ((unit r).w.thr t).mbox.msgs ≠ []) ∧
    r.scoreboard (unit r) [.s 26, .s 27] = false ∧ 7 ∉ (unit r).active := by
  unfold fitsTx fits State.Issues State.OperandsReady
  repeat' apply And.intro
  all_goals decide +kernel

/-- A workgroup with a task slot whose column 0 runs a text of 4 KiB, a message to a mailbox and one that starts a task,
a refusal on its way back, and a run-queue entry. -/
theorem witness_MessageEvents :
    let w := { wg [(0, {})] with cfg := { taskSlots := 1 } }
    let o : CodeObj := { handle := 0, ctx := 0, roles := [⟨0x4000, 4096, 0, 0, 0, []⟩], places := [], boot := [], digest := [] }
    let m : MsgFlight := { id := 3, wg := 1, t := 0, src := 0, launch := 1, desc := 1, body := 7, hdr := 0, flag := none }
    let k := { m with id := 4, desc := 0x80000 + 2 ^ 32 * 1023 }
    let n := { m with id := 5, desc := 32 }
    let r := { m with id := 6, refused := true }
    let e : RunEnt := ⟨1, 31, 0, 0, 7, 8⟩
    let s : State := { on w with objects := [o], flights := [] ++ m :: [k, n, r], clusters := [(0, { runq := [{ e with pipe := 3 }] ++ e :: [] })] }
    let target := fun (m : MsgFlight) => (sendTarget m.src m.desc).bind fun c =>
      if c = m.src then (s.wg? m.wg).filter fun w => w.cluster == c else s.target? m.launch c
    (∀ q ∈ [] ++ [k, n, r], q.id ≠ m.id) ∧ m.refused = false ∧ target m = some w ∧ s.msgRefused w m.desc = false ∧
    msgTask m.desc = false ∧ target k = some w ∧ s.msgRefused w k.desc = false ∧ msgTask k.desc = true ∧
    (∀ q ∈ [m], q.refused = true ∨ q.sameWay k = false) ∧ target n = some w ∧ s.msgRefused w n.desc = true ∧
    r.refused = true ∧ (s.saved? r.wg).isNone ∧
    (s.cl 0).runq = [{ e with pipe := 3 }] ++ e :: [] ∧ (∀ q ∈ [{ e with pipe := 3 }], q.pipe ≠ 31) ∧
    s.wg? e.wg = some w ∧ s.saving w = false ∧ 0x4000 % 4 = 0 ∧ w.dormant 31 = some 159 ∧ s.wgRole w e.col = some ⟨0x4000, 4096, 0, 0, 0, []⟩ := by
  repeat' apply And.intro
  all_goals decide +kernel

/-- Barrier 15 with threads 1, 3, 4, 6 and 7 as members: the group arrives, waits, synchronises; a number that the
workgroup has not; a phase that is over and one that is not. -/
theorem witness_HardwareBarriers :
    let put := fun (s : State) (b : Hb) => s.modWg 1 fun w => { w with hbs := [(15, b)] }
    let b : Hb := { member := 0xDA, valid := true }
    let g := mappedGroup fun t => thr [(2, 0xDA), (4, w64 (t % 2))]
    let s := put g b
    let p := put g { b with phase := true }
    let y := put (mappedGroup fun _ => { hbsync := some ⟨15, false, 1⟩ }) { b with phase := true }
    let fi : Fields := { a := some (.s 2), b := some (.s 3) }
    let fw : Fields := { b := some (.s 3), dst := some (.s 1) }
    let x := unit s
    let none' := lanes8
    let w := { wg [] with hbs := [(15, { b with arrived := 0x5A })], threads := [(7, { exited := true })] }
    let k := mapped (wg [(128, thr [(2, 0xDA)])])
    let k : State := { k with cur := some ⟨1, 128⟩ }
    fitsTx k fi ∧ fitsTx k fw ∧ fitsTx k { dst := some (.s 1) } ∧ (unit k).isTask = true ∧ 15 < (unit k).w.cfg.hb ∧
    (unit k).hbInitTrap false 15 (hbMask 0xDA 0) = none ∧ (unit k).active = [128] ∧ ((unit k).w.thr 128).hbsync = none ∧
    fitsTx none' fi ∧ fitsTx s fi ∧ 15 < x.w.cfg.hb ∧ x.isTask = false ∧ x.hbInitTrap false 15 (hbMask 0xDA 0) = none ∧
    fitsTx s { dst := some (.s 1) } ∧ (∀ t ∈ x.active, b.valid = true ∧ b.member.getLsbD t = true ∧
      b.arrived.getLsbD t = false) ∧ s.releaseWaits x x.active b.scope = false ∧
    fitsTx p fw ∧ (∀ t ∈ (unit p).active, (mget {} (unit p).w.hbs 15).open t false = true) ∧
    (∀ t ∈ x.active, (x.w.thr t).hbsync = none) ∧ x.active ≠ [] ∧
    fitsTx y { dst := some (.s 1) } ∧ (∀ t ∈ (unit y).active, ((unit y).w.thr t).hbsync = some ⟨15, false, 1⟩ ∧
      (mget {} (unit y).w.hbs 15).open t false = true) ∧
    fitsTx none' fw ∧ fitsTx none' { dst := some (.s 1) } ∧ (unit none').w.cfg.hb ≤ 0 ∧
    (on w).wg? w.id = some w ∧ (mget {} w.hbs 15).valid = true ∧ (mget {} w.hbs 15).ens = false ∧
    (mget {} w.hbs 15).member ≠ 0 ∧ w.hbFull 15 = true ∧ x.w.hbFull 15 = false := by
  unfold fitsTx fits State.Issues State.OperandsReady
  repeat' apply And.intro
  all_goals decide +kernel

/-- Two members of an ensemble: both have made barrier 15 one, and their threads have arrived or not; the second has not
made it one. -/
theorem witness_HardwareBarriers_ensemble :
    let b : Hb := { member := 0x5A, valid := true, ens := true }
    let v := { wg [] with id := 2, cluster := 1, hbs := [(15, b)] }
    let g := (mappedGroup fun _ => thr []).modWg 1 fun w => { w with hbs := [(15, b)] }
    let s := fun (v : Workgroup) => ({ g with wgs := g.wgs ++ [v] } : State)
    let x := unit (s v)
    let done := { v with hbs := [(15, { b with arrived := 0x5A })] }
    let t := fun (v : Workgroup) => ({ wgs := [{ done with id := 1 }, v] } : State)
    ((s v).hbPeers x.w 15).any (·.hbEns 15) = true ∧ b.ens = true ∧
    (∀ t ∈ x.active, b.member.getLsbD t = true ∧ b.arrived.getLsbD t = false) ∧
    (∀ u ∈ (t done).wgs, u.hbEns 15 = true ∧ u.hbFull 15 = true) ∧ v.hbFull 15 = false ∧ v.hbEns 15 = true ∧
    ({ v with hbs := [(15, { b with ens := false })] } : Workgroup).hbEns 15 = false ∧
    ((t done).wgs.filter fun v => v.unit == (wg []).unit).length = 2 := by
  repeat' apply And.intro
  all_goals decide +kernel

/-- The members 1, 3, 4 and 6 of a barrier without thread 7 arrive at once: HBSYNC lets them go. -/
theorem witness_HardwareBarriers_sync :
    let s := (mappedGroup fun _ => thr []).modWg 1 fun w => { w with hbs := [(15, { member := 0x5A, valid := true })] }
    let s' := (s.hbArrive (unit s) 15 (unit s).active).modThrs 1 (unit s).active fun _ th =>
      { th with hbsync := some ⟨15, false, 1⟩ }
    fitsTx s { dst := some (.s 1) } ∧
    ∀ t ∈ (unit s).active, (mget {} (unit s').w.hbs 15).open t false = true := by
  unfold fitsTx fits State.Issues State.OperandsReady
  repeat' apply And.intro
  all_goals decide +kernel

-- Launches, faults and the device.

/-- A record of zeros in the scratchpad, all but one dependence slot held, and all of them. -/
theorem witness_Launching :
    let s := mappedOne [(2, ownAddr 0)]
    let k : State := { wgs := [wg [(128, {})]], cur := some ⟨1, 128⟩ }
    let as := (List.range 4).map fun i => LaneAcc.mk 0 (ownAddr 0 + w64 (32 * i)) 32
    fitsTx s (fSS 1 2) ∧ fitsTx s { a := some (.s 2) } ∧ fitsTx s { dst := some (.s 1) } ∧ (ownAddr 0).toNat % 128 = 0 ∧
    ok s .load true as ∧ (goods s .load true as).map (·.2) = (List.range 4).map (fun i => .ok (.sram 0 (32 * i)) none) ∧
    s.releaseWaits (unit s) (unit s).live .device = false ∧ (unit s).isTask = false ∧ ((unit s).w.thr 0).children = 0 ∧
    k.Issues (unit k) ∧ (unit k).isTask = true ∧ (unit k).u.tx = none ∧ s.deps.length < 16384 ∧
    s.releaseWaits (unit s) (unit s).active .device = false ∧ (unit s).exitWaits = false ∧ 0 < 128 ∧
    (unit s).farWindow (ownAddr 0) = false ∧ (unit s).farWindow 0xFFFF800000080000 = true ∧
    0xFFFF800000080000 % 128 = 0 ∧ s.releaseWaits (unit s) (unit s).active .system = false := by
  unfold fitsTx fits ok State.Issues State.OperandsReady State.AccessReady
  repeat' apply And.intro
  all_goals decide +kernel

/-- Every dependence slot held but the last, and then the last too. -/
theorem witness_Launching_slots :
    let ds : Map Dep := (List.range 16383).map fun i => (i + 1, (⟨0, 0⟩ : Dep))
    ds.length = 16383 ∧ (ds ++ [(16384, (⟨0, 0⟩ : Dep))]).length = 16384 ∧ 0 < 16384 - ds.length := by
  simp

/-- A root table that is empty, a record for the ring, a parked thread. -/
theorem witness_PageFaults :
    let m : MergeEnt := { ctx := 0, vpn := 5, waiters := [⟨1, 0, 0, 5, 0x5000⟩] }
    let w := wg [(0, { park := some ⟨9, 5, 0x5000, false⟩ })]
    let s : State := { on (wg [(0, {})]) with
      ctxs := [(0, { ptroot := 0x200001 })], clusters := [(0, { merge := [m] })] }
    let f : FaultRec := { va := 0x5000, pc := 0, ticket := 0, ctx := 0, cause := 5, malformed := false, fused := false
                          x := 0, y := 0, colPipe := 0 }
    let q : State := { s with faults := f :: [], fqEn := true, fqTail := 4, fqHead := 0xFFFFFFF5 }
    let p : State := { on w with clusters := [(0, { merge := [{ m with ticket := some 9 }] })] }
    (s.cl 0).merge[0]? = some m ∧ m.ticket = none ∧
    (match s.walk m.ctx (w64 (m.vpn * 4096)) with
      | .fail _ => true
      | _ => false) = true ∧ s.wg? 1 = some (wg [(0, {})]) ∧ ((wg [(0, {})]).ust 0).tx = none ∧
    ((wg [(0, {})]).groupOf 0).isNone ∧ (wg [(0, {})]).waits ⟨1, 0, 0, 5, 0x5000⟩ = true ∧
    (wg [(0, {})]).waits ⟨1, 0, 4, 5, 0x5000⟩ = false ∧ (wg [(0, {})]).ctx = m.ctx ∧ vpnOf 0x5000 0 = m.vpn ∧
    ((unit lanes8).w.groupOf 3).isSome ∧ ((unit lanes8).w.ust 3).tx = none ∧
    (unit lanes8).w.waits ⟨1, 3, (unit lanes8).pc, 5, 0x5000⟩ = true ∧ q.faults = f :: [] ∧ q.fqEn = true ∧ (q.fqTail - q.fqHead).toNat < 2 ^ q.fqLog2n ∧
    p.ticketOpen 9 = true ∧ p.parkedUnder 9 = [(w.id, 0)] ∧ p.wg? w.id = some w ∧
    (w.thr 0).park = some ⟨9, 5, 0x5000, false⟩ ∧ p.ticketOpen 8 = false := by
  repeat' apply And.intro
  all_goals decide +kernel

/-- Whether a walk ends at a leaf of the last level. -/
def leafIs (e : Word) : Walk → Bool
  | .leaf level x => level == 0 && x == e
  | .fail _ => false

/-- Tables that map page 5 to 0x14000 with R and W, in a root at 0x200000. -/
def page5 : State :=
  { ctxs := [(0, { ptroot := 0x200001 })], mem :=
      [(0x11000, 0x01), (0x11001, 0x20), (0x11002, 0x01), (0x12000, 0x01), (0x12001, 0x30), (0x12002, 0x01),
       (0x13028, 0x0F), (0x13029, 0x40), (0x1302A, 0x01), (0x200000, 0x01), (0x200001, 0x10), (0x200002, 0x01)] }

/-- A walk that ends at a leaf of the last level, with R and W. -/
theorem witness_PageFaults_leaf : leafIs 0x1400F (page5.walk 0 0x5000) = true := by decide +kernel

/-- A thread with two flags of stores to complete, the first of a line that is dirty in its L1, with a link to write it
back or none; a flag of an open transaction; one whose COPY heads the FIFO; a command that has completed, of a thread and
of a task that has ended. -/
theorem witness_EngineEvents :
    let c : Cmd := { d0 := 0x0100000000001400, d1 := ownAddr 0, d2 := ownAddr 0x2000, d3 := 0 }
    let r : StoreFlag := { cf := 3, lines := [(.peer 1, 2)], batch := 9 }
    let w := wg [(0, { storeFlags := r :: [{ cf := 4 }], fifo := c :: [] })]
    let s : State := { on w with clusters := [(0, { l1 := [{ bank := 0, sp := .peer 1, line := 2, data := 0, dirty := 1 }] })] }
    let up : State := { s with links := [(0, { up := true })] }
    let e : EngCmd := { id := 5, wg := 1, t := 0, cluster := 0, unit := 1, engine := 0, ctx := 0, launch := 1, cmd := c, result := some (4, 7) }
    let t : State := { s with cmds := [e] }
    (s.thr 1 0).storeFlags = r :: [{ cf := 4 }] ∧ r.inTx = false ∧ ({ r with inTx := true } : StoreFlag).inTx = true ∧
    s.batchLeft w.id 0 r.batch = false ∧ (s.linesOut w.cluster (pipeOf 0) r.lines).linesWait w.cluster r.lines = true ∧
    (up.linesOut w.cluster (pipeOf 0) r.lines).linesWait w.cluster r.lines = false ∧ s.wg? w.id = some w ∧ (w.thr 0).fifo = c :: [] ∧
    s.engineNext (s.engineOf w.cluster c) = some (256 * w.id + 0) ∧ c.stg = false ∧ c.op ≠ 8 ∧ c.op ≠ 9 ∧
    c.isColl = false ∧ t.eng? e.id = some e ∧ e.result = some (4, 7) ∧ ((t.thr e.wg e.t).task).map (·.1) = e.taskAt ∧
    ((t.thr e.wg e.t).task).map (·.1) ≠ some 3 ∧ e.cmd.mbox = false ∧
    ({ c with d3 := 0x0000000200000000 } : Cmd).mbox = true := by
  repeat' apply And.intro
  all_goals decide +kernel

/-- A COPY of the last 64 bytes of a scratchpad to its first ones; WOPEN of entry 15 with the whole of it; a FILLOB; an
MCAST packet for an open entry and for one that has closed. -/
theorem witness_CopyEngine :
    let w := { wg [(0, {})] with cfg := { scratch := 4096 } }
    let c : Cmd := { d0 := 0x0100000000000040, d1 := ownAddr 0xFC0, d2 := ownAddr 0, d3 := 0 }
    let e : EngCmd := { id := 5, wg := 1, t := 0, cluster := 0, unit := 1, engine := 0, ctx := 0, launch := 1, cmd := c }
    let o : EngCmd := { e with id := 6, cmd := { d0 := 0x0800000000000000, d1 := w64 (15 * 2 ^ 39 + 4096 * 2 ^ 19), d2 := 0, d3 := 0 } }
    let k : EngCmd := { e with id := 7, cmd := { d0 := 0x0600000000000000, d1 := ownAddr 0, d2 := 4, d3 := 0 } }
    let m : EngCmd := { e with id := 8, cmd := { d0 := 0x0700F00000000040, d1 := ownAddr 0, d2 := 1, d3 := 0 } }
    let p : McPacket := { id := 9, cmd := 8, grant := ⟨0, 0, 7, none⟩, entry := 15, pos := 0, data := [1, 2] }
    let s : State := { on w with cmds := [e, o, k, m], packets := [] ++ p :: [], clusters := [(0, { windows := [(15, { st := .opened, gen := 7, size := 4096, owner := some 1 })] })] }
    s.eng? e.id = some e ∧ e.result = none ∧ e.cmd.op = 1 ∧ e.cmd.crc = 0 ∧ e.stgGen = none ∧ e.cmd.len = 64 ∧
    s.wg? e.wg = some w ∧ w.cluster = e.cluster ∧ e.cmd.d1 = ownAddr 0xFC0 ∧ 0xFC0 + 64 ≤ w.cfg.scratch ∧
    0 + 64 ≤ w.cfg.scratch ∧ w.cfg.scratch ≤ 458752 ∧ (0xFC0 + 64 ≤ 0 ∨ 0 + 64 ≤ 0xFC0) ∧ (s.cl 0).sramSyn = [] ∧
    (s.cl 0).sramEcc = [] ∧ s.winBad o = false ∧ o.cmd.op = 8 ∧ ({ on w with cmds := [o] } : State).winBad o = false ∧
    (s.wgs.filter fun v => v.id == k.wg).map (·.cluster) = [k.cluster] ∧ s.wg? 9 = none ∧ k.cmd.op = 6 ∧ fillWaits (s.cl 0) true 0 = false ∧ m.cmd.op = 7 ∧ m.submitted = false ∧ s.eng? p.cmd = some m ∧
    p.grant.link = none ∧ ((s.cl 0).window p.entry).st = .opened ∧ ((s.cl 0).window p.entry).gen = p.grant.gen ∧
    ((s.cl 0).window p.entry).owner = some w.id ∧ ((s.cl 0).window 14).st ≠ .opened := by
  repeat' apply And.intro
  all_goals decide +kernel

/-- A collective of one rank whose source can be read; one with a remote rank whose element count differs; the same with a
descriptor that failed a check; a command behind one that has not joined; a rank table on a peer that no link reaches,
before and after its time. -/
theorem witness_Collectives :
    let desc : List Byte := leBytes 8 (ownAddr 0).toNat ++ leBytes 8 (ownAddr 64).toNat ++ leBytes 8 4 ++
      leBytes 8 0 ++ leBytes 4 7 ++ leBytes 2 1 ++ leBytes 2 0 ++ List.replicate 24 0
    let w := { wg [(0, {})] with cfg := { scratch := 4096 } }
    let c : CollPart := { gid := 7, rank := 0, seq := 0, desc := desc, table := [] }
    let e : EngCmd := { id := 5, wg := 1, t := 0, cluster := 0, unit := 1, engine := 0, ctx := 0, launch := 1, coll := some c
                        cmd := { d0 := 0x1000000000000000, d1 := 0, d2 := 0, d3 := 0 } }
    let s : State := { on w with cmds := [e] }
    let st := { e with coll := some { c with started := true, srcs := [(0, List.replicate 16 0)] } }
    let two : CollPart := { c with desc := (desc.take 36) ++ leBytes 2 2 ++ desc.drop 38 }
    let r : RemotePart := ⟨1, 0, 0x10, 2, 8, 0, 0, 0, 0, [], [], false⟩
    let d : State := { on w with cmds := [{ e with coll := some two }] }
    let k : EngCmd := { e with id := 6, coll := none }
    let far : CollPart := { c with desc := (desc.take 24) ++ leBytes 8 0x10000000 ++ desc.drop 32, tabled := false }
    let p : EngCmd := { e with coll := some far }
    let q : State := { on w with cmds := [p], clusters := [(0, { tlb := [⟨0, 0, 0x10000, 0x0030000000010137⟩] })] }
    let run := fun (s : State) => (({ s := s } : ERun).readN p (w64 (bfield far.desc 24 8)) (2 * collP far.desc)).1
    (s.cmds.map (·.id)).Nodup ∧ s.collNext 7 [] = some 0 ∧ s.collLocal 7 0 = (e, c) :: [] ∧
    (([] : List (EngCmd × CollPart)).length + 1) + ([] : List RemotePart).length = collP c.desc ∧
    collKey e.cmd.op c = collKey e.cmd.op c ∧ c.rank = 0 ∧ c.bad = none ∧
    (({ s := s } : ERun).readN e (w64 (bfield c.desc 0 8)) (collSrcLen e.cmd.op c.desc)).1.halt = false ∧
    d.collNext 7 [r] = some 0 ∧ (d.collLocal 7 0).length + [r].length = collP two.desc ∧
    remoteKey r ≠ collKey e.cmd.op two ∧ r.failed = false ∧ two.bad = none ∧
    (let f : State := { on w with cmds := [{ e with coll := some { two with bad := some (9, 0) } }] }
     f.collNext 7 [r] = some 0 ∧ (f.collLocal 7 0).length + [r].length = collP two.desc) ∧
    ({ on w with cmds := [st] } : State).eng? 5 = some st ∧ st.result = none ∧ e.cmd.op = 0x10 ∧
    ({ s with cmds := [k, e] } : State).cmds = [k] ++ e :: [] ∧ k.id ≠ e.id ∧ k.unjoined = true ∧ k.engine = e.engine ∧
    q.cmds = [] ++ p :: [] ∧ p.coll = some far ∧ far.tabled = false ∧ (run q).waits q p = true ∧
    (let due : State := { q with clock := 1700000 }
     (run due).waits due p = false ∧ (run due).far = true) := by
  repeat' apply And.intro
  all_goals decide +kernel

/-- Queue 3 of 16 entries at 0x40000 and 0x50000 of device memory: a write and a flush to submit, a tail to ring, and
a new completion entry of the write. -/
theorem witness_Storage :
    let table : Map Byte := msets 0 [] 192 (leBytes 8 0x40000 ++ leBytes 8 0x50000 ++ leBytes 8 0x1000 ++ leBytes 8 0x1008 ++
      leBytes 2 0 ++ leBytes 2 15 ++ leBytes 4 1 ++ [0] ++ [0] ++ leBytes 2 7 ++ leBytes 2 0xC000)
    let c : Cmd := { d0 := 0x2100030000000000, d1 := 0x10000000, d2 := 8, d3 := 0, priv := .s }
    let e : EngCmd := { id := 5, wg := 1, t := 0, cluster := 0, unit := 1, engine := 2000, ctx := 0, launch := 1, cmd := c
                        run := 3 }
    let s : State := { mappedOne [] with
      cmds := [e]
      ioTlb := [(0, [⟨0, 0, 0x10000, 0x1000F⟩])]
      sqTable := table
      sqRun := [(3, { entry := mgets 0 table 192 64 })] }
    let ring : State := { s with sqRun := [(3, { s.sq 3 with subTail := 15 })] }
    let fin : State := { s with
      cmds := [{ e with submitted := true }]
      sqRun := [(3, { s.sq 3 with subTail := 1, rung := 1, inflight := [(9, 5)] })]
      mem := [(0x5000C, 9), (0x5000E, 1)] }
    s.eng? 5 = some e ∧ e.result = none ∧ e.submitted = false ∧ s.sqTurn e = true ∧ e.cmd.queue = 3 ∧
    ((s.sq 3).subTail + 1) % (s.sq 3).entries ≠ (s.sq 3).subHead ∧ e.cmd.op = 0x21 ∧
    (s.bufPas e .load (bufPages (s.storageLen e / 4096 + 2) c.d1.toNat (s.storageLen e))).toOption = some [(0x10000, 512)] ∧
    (ring.sq 3).subTail ≠ (ring.sq 3).rung ∧
    nbit (leNat (fin.homeBytes .dev ((fin.sq 3).field 8 8 + 12) 4)) 16 = (fin.sq 3).phase ∧
    leNat (fin.homeBytes .dev ((fin.sq 3).field 8 8 + 12) 4) % 65536 = 9 ∧ (fin.sq 3).inflight = [] ++ (9, 5) :: [] ∧
    fin.eng? 5 = some { e with submitted := true } ∧ e.stgGen = none := by
  repeat' apply And.intro
  all_goals decide +kernel


-- The distributor.

/-- Queue 1023 of 16 records with 16 waiting, bound to function 64. -/
theorem witness_Distribution_queues :
    let x : LQueue := { cfg := 0x1000004, head := 0xFFFFFFF8, tail := 8 }
    let s : State := { queues := [(1023, x)], bindings := [(0, 64)], rrQueue := 1023 }
    (s.queue 1023).ctx = 0 ∧ mget 0 s.bindings 0 = 64 ∧ (8 - (s.queue 1023).head).toNat = 2 ^ (s.queue 1023).k ∧
    2 ^ (s.queue 1023).k < (9 - (s.queue 1023).head).toNat ∧ mget 0 s.bindings 0 ≠ 63 ∧ s.queueNext = some 1023 ∧
    (s.launches.filter fun l => l.pool = .host).length < 8192 := by
  repeat' apply And.intro
  all_goals decide +kernel

/-- A launch that is ready, another that stages, and one whose unit has waited. -/
theorem witness_Distribution_launches :
    let l : Launch := { id := 7, ctx := 0, cfg := {}, state := .ready, since := 3 }
    let k : Launch := { l with id := 8, state := .staging }
    let m : Launch := { l with id := 9, state := .dispatching }
    let s : State := { launches := [l, k, m], clock := 10 ^ 9 }
    let r : Launch := { l with cfg := { ranges := 0x5000 } }
    (∃ b, page5.rangeEntry r 0 = some b ∧ bfield b 8 4 = 0) ∧
    (∀ x ∈ [l, k, m], s.launches.find? (fun k => k.id == x.id) = some x) ∧ l.state = .ready ∧ s.stagesNext l = true ∧
    k.state = .staging ∧ m.state = .dispatching ∧ s.levelAt 0 3 = 8 ∧ s.levelAt 39 3 = 39 ∧ s.levelAt 40 3 = 40 := by
  repeat' apply And.intro
  all_goals decide +kernel

/-- A launch of one workgroup with every slot of a cluster free, and with none free in any. -/
theorem witness_Distribution_place :
    let l : Launch := { id := 7, ctx := 0, cfg := { threads := 128, scratch := 458752 }, state := .dispatching }
    let s : State := { launches := [l] }
    let e : State := { s with ctxs := [(0, { hold := true })] }
    s.notePassed.preemptTop.placeable = some (⟨l, none, 0, 0⟩, (0, 0, 0)) ∧ e.notePassed.preemptTop.placeable = none := by
  repeat' apply And.intro
  all_goals decide +kernel

/-- An ensemble of 8 by 8 clusters at level 40, which no die has: a workgroup fills a cluster of each. At level 39 those
workgroups can be moved; at level 40 they cannot (R363). -/
theorem witness_Distribution_gather :
    let c : LaunchRec := { threads := 128 }
    let l : Launch := { id := 7, ctx := 0, cfg := { priority := 40, wgx := 8, wgy := 8, threads := 128, ensW := 8, ensH := 8 }
                        state := .dispatching, passed := some 0 }
    let b := fun (level d : Nat) =>
      ({ wg [] with id := 10 + d, unit := 10 + d, cluster := clusterAt (9 * (d % 4) + 4) (8 * (d / 4)), cols := [0, 1, 2, 3]
                    cfg := c, level := level } : Workgroup)
    let s := fun (level : Nat) => ({ launches := [l], wgs := (List.range 8).map (b level), clock := 85000 } : State)
    let u : DUnit := ⟨l, none, 40, 0⟩
    (s 39).ranked = [] ++ u :: [] ∧ (s 40).ranked = [] ++ u :: [] ∧ u.l.cfg.ensW ≠ 0 ∧ u.rect = none ∧ u.passed = some 0 ∧
    (s 39).usClocks (s 39).gather.toNat = 85000 - 0 ∧ (s 39).spotFor u = none ∧ (s 40).spotFor u = none ∧
    (s 39).prioBusy = false ∧ (s 39).preemptChoice u = none ∧ (s 40).preemptChoice u = none ∧
    (s 39).gatherChoice u = some ((0, 0, 0), [10]) ∧ (s 40).gatherChoice u = none := by
  repeat' apply And.intro
  all_goals decide +kernel

/-- A workgroup that has waited in JOINWAIT for 20 microseconds, a task that has run for 50, and a wait of 100 ms. -/
theorem witness_Distribution_timers :
    let w := wg [(0, { children := 1, u := { waiting := .join, waitSince := some 5 } }), (128, { task := some (5, 3) }),
      (1, { u := { waiting := .watched, waitSince := some 5, waitSeen := 170000005 } })]
    let h := wg [(1, { hbsync := some ⟨15, true, 1⟩
                       u := { waiting := .watched, waitSince := some 5, waitSeen := 170000005 } })]
    let j := wg [(0, { children := 1, u := { waiting := .join, waitSince := some 5 } })]
    let s : State := { on w with clock := 170000005 }
    let k : State := { on j with clock := 34005 }
    s.wg? w.id = some w ∧ k.wg? j.id = some j ∧ (k.ofUnits [j.unit]).map (·.joinSince) = [some 5] ∧
    k.usClocks k.joinspin.toNat = k.clock - 5 ∧ (w.thr 128).task = some (5, 3) ∧ (w.thr 128).wdDone = false ∧
    (w.thr 128).park = none ∧ (w.ust 128).tx = none ∧ s.usClocks s.wdtask.toNat ≤ s.clock - 5 ∧
    (w.issuer 1).u.waiting = .watched ∧ (w.issuer 1).u.waitSince = some 5 ∧
    5 + s.usClocks s.wdwait.toNat = (w.issuer 1).u.waitSeen ∧ (∀ u ∈ (w.issuer 1).active, (w.thr u).hbsync = none) ∧
    (h.issuer 1).active = [1] ∧ (h.thr 1).hbsync = some ⟨15, true, 1⟩ ∧ (h.issuer 1).u.waiting = .watched ∧
    5 + s.usClocks s.wdwait.toNat = (h.issuer 1).u.waitSeen := by
  repeat' apply And.intro
  all_goals decide +kernel

/-- A workgroup that is to be saved, in a context with room for its area and in one a byte short of it. -/
theorem witness_SaveAndRestore_save :
    let w := { wg [(0, {})] with saveReq := some .normal }
    let s := fun (n : Nat) => ({ on w with ctxs := [(0, { svbase := 0x1000000, svsize := w64 n })] } : State)
    let n := w.cfg.areaSize
    (s n).wg? w.id = some w ∧ (s n).wgs.filter (fun v => v.unit == w.unit) = [w] ∧ (s n).saving w = true ∧
    (s n).drained w = true ∧ areaSpots 0x1000000 ((s n).ctx 0).svsize.toNat [n] (s n).areas = some [0x1000000] ∧
    ((((s n).beginSave [w] w.unit).portsFlush w.unit).endDying w.unit).wg? w.id ≠ none ∧
    (s (n - 1)).saving w = true ∧ (s (n - 1)).drained w = true ∧
    areaSpots 0x1000000 ((s (n - 1)).ctx 0).svsize.toNat [n] (s (n - 1)).areas = none ∧
    ({ s n with linkReqs := [{ id := 1, wg := w.id, t := 0, va := 0, store := true, since := 0, cl := 0 }] } : State).drained w = false := by
  repeat' apply And.intro
  all_goals decide +kernel

/-- A saved unit whose tables hold nothing, and one with a spilled table whose buffer is not mapped. -/
theorem witness_SaveAndRestore_restore :
    let v : SavedWg := ⟨3, 0, 0, 0, 0, 0, 0x1000, 0x30000, 1, [], [], [], [], [], [], []⟩
    let u : SavedUnit := { id := 2, launch := 7, ctx := 0, wgs := [v], pinned := 0x7F, since := 0, level := 0
                           joinWait := false }
    let l : Launch := { id := 7, ctx := 0, cfg := {}, state := .running }
    let s : State := { launches := [l], saved := [u] }
    let t : State := { s with mem := [(0x1027, 0x80), (0x1030, 1)] }
    let d : DUnit := ⟨l, some u, 0, 0⟩
    s.placeable = some (d, (0, 0, 0)) ∧ t.placeable = some (d, (0, 0, 0)) ∧ d.saved = some u ∧
    (u.wgs.map (·.id)).Nodup ∧ s.wg? v.id = none ∧ 0 < l.cfg.threads ∧
    nbit (bfield (s.homeBytes .dev (v.area + l.cfg.areaImages) 4096) 0x607 1) 0 = false ∧
    (s.tablesOf u.ctx v).toOption.isSome = true ∧
    (match t.tablesOf u.ctx v with
      | .error f => f == (0, 0)
      | .ok _ => false) = true := by
  repeat' apply And.intro
  all_goals decide +kernel

-- The host, the link and power.

/-- A device whose mailbox holds a command. -/
def asks (code len : Nat) (payload : List Byte) : State :=
  { host := { busy := true, req := msets 0 [] 0 (leBytes 4 code ++ leBytes 4 len ++ payload) } }

/-- Each mailbox command, with arguments at the ends of their ranges and beyond them. -/
theorem witness_HostInterface_commands :
    let is := fun (s : State) (c n : Nat) => s.host.busy = true ∧ s.host.fstage = 0 ∧ s.host.code = c ∧ s.host.len = n
    let r := asks 1 2592 []
    let d := { asks 2 8 ((keyId [7]).take 8) with keys := [[7]] }
    let arg := fun (c n : Nat) => asks c 8 (leBytes 8 n)
    is r 1 2592 ∧ ¬(r.keys.any (fun x => keyId x == keyId r.host.payload) = true) ∧ r.keys.length < 16 ∧
    ¬((List.replicate 16 ([] : List Byte)).length < 16) ∧ is d 2 8 ∧ d.keys.any (fun x => keyId x == d.host.payload) = true ∧
    is (asks 2 7 []) 2 7 ∧ is (asks 3 64 []) 3 64 ∧ is (asks 3 63 []) 3 63 ∧
    is (arg 4 0xFFFF) 4 8 ∧ nbits (arg 4 0xFFFF).host.arg 7 0 ≤ nbits (arg 4 0xFFFF).host.arg 15 8 ∧
    is (arg 4 1) 4 8 ∧ ¬(nbits (arg 4 1).host.arg 7 0 ≤ nbits (arg 4 1).host.arg 15 8) ∧
    is (arg 5 0x400FFF) 5 8 ∧ nbits (arg 5 0x400FFF).host.arg 23 16 = 64 ∧ nbits (arg 5 0x410000).host.arg 23 16 = 65 ∧
    is (arg 6 2800) 6 8 ∧ (arg 6 2800).host.arg = 2800 ∧ (arg 6 1000).host.arg = 1000 ∧ (arg 6 999).host.arg = 999 ∧
    is (asks 7 0 []) 7 0 ∧ is (arg 8 343597383680) 8 8 ∧ (arg 8 343597383680).host.arg = 343597383680 ∧
    343597383680 % 2 ^ 30 = 0 ∧ (arg 8 (2 ^ 29)).host.arg = 2 ^ 29 ∧ 2 ^ 29 % 2 ^ 30 ≠ 0 ∧ is (asks 9 0 []) 9 0 ∧
    is (asks 0 0 []) 0 0 := by
  repeat' apply And.intro
  all_goals decide +kernel

/-- Accesses that end at the end of BAR2, and a write of the last entry of the storage-queue table. -/
theorem witness_HostInterface_accesses :
    let s : State := { aperture := 343597383680 }
    2 ^ 36 - 8 + (List.replicate 8 (1 : Byte)).length ≤ 2 ^ 36 ∧ 2 ^ 36 - 8 + 8 ≤ 2 ^ 36 ∧ (2 ^ 36 - 8) % 8 = 0 ∧
    s.homeFail (s.aperture + (2 ^ 36 - 8)) 8 = none ∧ 0x3FC0 + (zeroBytes 64).length ≤ 0x4000 ∧
    sqEnabled s.sqTable 255 = false ∧ 64 * 255 < 0x3FC0 + (zeroBytes 64).length ∧ 0x3FC0 < 64 * 255 + 64 ∧
    ({ s with memEcc := [(s.aperture + 32) / 32] } : State).homeFail (s.aperture + 40) 8 ≠ none := by
  repeat' apply And.intro
  all_goals decide +kernel

/-- What comes before the signature of an object of one role with a text of 8 bytes and no data. -/
def objectHead : List Byte :=
  let sect := fun (ty off size role : Nat) =>
    leBytes 4 ty ++ leBytes 4 0 ++ leBytes 8 off ++ leBytes 8 size ++ leBytes 4 role ++ leBytes 4 3
  leBytes 4 0x34394C56 ++ leBytes 2 1 ++ leBytes 2 64 ++ leBytes 4 4 ++ leBytes 4 1 ++ leBytes 8 64 ++ leBytes 8 4880 ++
    leBytes 8 240 ++ zeroBytes 24 ++ sect 1 192 8 0 ++ sect 10 200 32 noRole ++ sect 5 232 8 noRole ++
    sect 15 240 4640 noRole ++ zeroBytes 8 ++
    (leBytes 4 0 ++ leBytes 2 0 ++ leBytes 2 noIndex ++ leBytes 2 noIndex ++ leBytes 2 noIndex ++ zeroBytes 20) ++
    (leBytes 4 0 ++ leBytes 4 0)

/-- The object, signed with the one key whose signatures are known. -/
def objectBytes : List Byte :=
  objectHead ++ (keyId zeroKey ++ (zeroSign (sha3_512 (objectHead ++ zeroBytes 4640)) ++ zeroBytes 5))

/-- A device that holds that key, tables that map page 5, and a copy of the object. -/
def objectState : State := ({ page5 with keys := [zeroKey] } : State).homeWrite .dev 0x100000 objectBytes

/-- The object as it is to be mapped, at an address that no table maps or at one of page 5. -/
def object (va : Nat) : Obj := objOfBytes (objectState.homeBytes .dev 0x100000 4880) [va]

set_option maxRecDepth 100000 in
theorem objectBytes_length : objectBytes.length = 4880 := by
  have k : (keyId zeroKey).length = 8 := by decide +kernel
  have h : objectHead.length = 240 := by decide +kernel
  rw [objectBytes, List.length_append, List.length_append, List.length_append, k, h, zeroSign_length]
  rfl

theorem object_eq (va : Nat) : object va = objOfBytes objectBytes [va] := by
  rw [object, ← objectBytes_length]
  rw [objectState, State.homeBytes_homeWrite]

/-- An object that ends in the known key's signature of what comes before it is signed by that key. -/
theorem signedBy_zeroKey (o : Obj) (head tail : List Byte) (hb : o.b = head ++ tail) (hn : bfield o.b 32 8 = head.length)
    (ht : tail = keyId zeroKey ++ (zeroSign (sha3_512 (head ++ zeroBytes 4640)) ++ zeroBytes 5))
    (hk : (keyId zeroKey).length = 8) : o.signedBy [zeroKey] = true := by
  have l : tail.length = 4640 := by
    rw [ht, List.length_append, List.length_append, hk, zeroSign_length]; rfl
  have d : o.digest = sha3_512 (head ++ zeroBytes 4640) := by
    simp only [Obj.digest, hn]
    rw [hb, List.take_left, ← List.drop_drop, List.drop_left, List.drop_eq_nil_of_le (Nat.le_of_eq l), List.append_nil]
  have g : o.b.drop head.length = tail := by rw [hb, List.drop_left]
  have q : [zeroKey].find? (fun k => keyId k == keyId zeroKey) = some zeroKey :=
    List.find?_cons_of_pos (by simp only [beq_self_eq_true])
  simp only [Obj.signedBy, hn, g, d, ht, List.take_left' hk, List.drop_left' hk, List.take_left' (zeroSign_length _), q,
    mlDsaVerify_zeroSign]

set_option maxRecDepth 100000 in
theorem object_signed : (objOfBytes objectBytes [0x50C0]).signedBy [zeroKey] = true :=
  signedBy_zeroKey (objOfBytes objectBytes [0x50C0]) objectHead _ rfl (by decide +kernel) rfl (by decide +kernel)

set_option maxRecDepth 100000 in
theorem object_sound :
    (objOfBytes objectBytes [0x50C0]).headerOk = true ∧
    (objOfBytes objectBytes [0x50C0]).sects.all (objOfBytes objectBytes [0x50C0]).sectOk = true ∧
    disjointSects (objOfBytes objectBytes [0x50C0]).sects = true ∧
    (objOfBytes objectBytes [0x50C0]).countsOk = true ∧ (objOfBytes objectBytes [0x50C0]).tablesOk = true := by
  decide +kernel

/-- The object passes every check, its signature among them; no bytes at all do not pass. -/
theorem witness_HostInterface_object_passes :
    (object 0x50C0).ok objectState.keys = true ∧
    (objOfBytes (objectState.homeBytes .dev 0x100000 0) []).ok objectState.keys = false := by
  obtain ⟨h1, h2, h3, h4, h5⟩ := object_sound
  have k : objectState.keys = [zeroKey] := by rw [objectState, State.homeWrite_dev_keys]
  rw [object_eq, k]
  refine ⟨?_, by decide +kernel⟩
  rw [Obj.ok, h1, h2, h3, h4, h5, object_signed]
  rfl

set_option maxRecDepth 100000 in
/-- It needs no relocation and has one page, which its tables map or leave without a table. -/
theorem witness_HostInterface_object :
    let pg : ObjPage := ⟨5, 0x100000, 0x14⟩
    (object 0x50C0).relocate = some ([], object 0x50C0) ∧ (object 0x50C0).pages 0x100000 = [pg] ∧
    (object 0x40000000C0).pages 0x100000 = [⟨0x4000000, 0x100000, 0x14⟩] ∧
    (object 0x50C0).sects[0]? = some ⟨1, 0, 192, 8, 0, 3⟩ ∧ (object 0x50C0).va 0 % 4096 = (0x100000 + 192) % 4096 ∧
    nbit (objectState.ctx 0).ptroot.toNat 0 = true ∧ canonical 0x5000 = true ∧ isWindow 0x5000 = false ∧
    (∀ b, b < 0x100000 ∨ 0x100000 + 4880 ≤ b → objectState.homeByte .dev b = page5.homeByte .dev b) ∧
    page5.slotFor 0x5000 4 0x200000 = some (0, 0x13028) ∧ page5.slotFor 0x4000000000 4 0x200000 = none := by
  refine ⟨?_, ?_, ?_, ?_, ?_, ?_, by decide +kernel, by decide +kernel, fun b h => ?_, by decide +kernel,
    by decide +kernel⟩
  · rw [object_eq]
    have r : (objOfBytes objectBytes [0x50C0]).ofType 8 = [] := by decide +kernel
    simp [Obj.relocate, r]
  · rw [object_eq]; decide +kernel
  · rw [object_eq]; decide +kernel
  · rw [object_eq]; decide +kernel
  · rw [object_eq]; decide +kernel
  · rw [State.ctx, objectState, State.homeWrite_dev_ctxs]; decide +kernel
  · rw [objectState, State.homeByte_homeWrite]
    split
    · rw [List.getElem?_eq_none (by rw [objectBytes_length]; omega)]; rfl
    · rfl

set_option maxRecDepth 100000 in
/-- A port that is up, with flits held for replay and no data flit waiting; flits of each type, in order, one behind and
with a bad CRC. -/
theorem witness_LinkAndPower_flits :
    let g := mkFlit 9 0 0 0 0 0 []
    let p : LinkPort := { up := true, retrain := true, fails := 2, replay := [] ++ g :: [], replays := 7 }
    let s : State := { links := [(15, p)], clock := 68000 }
    let f := fun (type : Nat) => mkFlit 0 9 type 3 3 63 []
    let b := fun (type : Nat) => { f type with crc := 0 }
    s.port 15 = p ∧ p.up = true ∧ (∀ v, v < 4 → p.waiting.getD v 0 = 0) ∧
    (∀ t ∈ [0, 1, 2, 3], flitType (f t) = t ∧ flitGood (f t) = true ∧ flitGood (b t) = false ∧
      flitSeq (f t) = (p.accepted + 1) % 4096 ∧ flitVc (f t) = 3 ∧ flitCvc (f t) = 3) ∧ p.rxOcc.getD 3 0 < 64 ∧
    64 ≤ ({ p with rxOcc := [0, 0, 0, 64] } : LinkPort).rxOcc.getD 3 0 ∧ flitType (f 7) = 7 ∧ flitGood (f 7) = true ∧
    flitType (mkFlit 4095 0 3 0 0 0 []) = 3 ∧ flitGood (mkFlit 4095 0 3 0 0 0 []) = true ∧ flitType { g with hdr := g.hdr + 3 * 2 ^ 37 } = 3 ∧
    flitGood g = true ∧ flitType g = 0 ∧ flitSeq g = flitAck (f 1) ∧ flitAck g ≠ flitSeq g ∧
    (p.accepted + 4096 - flitSeq (mkFlit 4095 0 0 0 0 0 [])) % 4096 < 2048 ∧
    ¬((p.accepted + 4096 - flitSeq g) % 4096 < 2048) ∧ flitSeq g ≠ (p.accepted + 1) % 4096 ∧
    p.replay.length < 1024 ∧ s.usClocks 40 = s.clock - p.lastAudit ∧ p.retrain = true ∧ 15 < 16 ∧
    (s.port 14).up = false := by
  repeat' apply And.intro
  all_goals decide +kernel

/-- The counts of an audit: FREED is what was sent, 64 behind it, or more. -/
theorem witness_LinkAndPower_audit :
    let p : LinkPort := { up := true, sent := [0, 64, 65535, 5] }
    let left := fun (f : Flit) (v : Nat) =>
      (p.sent.getD v 0 + 65536 - leNat ((f.payload.drop (2 * v)).take 2)) % 65536
    let f := mkFlit 0 0 3 0 0 0 (leBytes 2 0 ++ leBytes 2 0 ++ leBytes 2 65535 ++ leBytes 2 65535)
    let b := mkFlit 0 0 3 0 0 0 (leBytes 2 1)
    (∀ v, v < 4 → left f v ≤ 64) ∧ 64 < left b 0 ∧ p.credits.length = 4 := by
  repeat' apply And.intro
  all_goals decide +kernel

/-- Two requests that have waited 1 ms for a link, a store and a load, and a collective with a rank on another device. -/
theorem witness_LinkAndPower_requests :
    let q : LinkReq := { id := 7, wg := 1, t := 0, va := 0x5000, store := true, since := 5, cl := 0, sp := .peer 3
                         addr := 0x5000, bytes := [1] }
    let k : LinkReq := { q with id := 8, store := false }
    let e : EngCmd := { id := 5, wg := 1, t := 0, cluster := 0, unit := 1, engine := 0, ctx := 0, launch := 1
                        cmd := { d0 := 0x1000000000000000, d1 := 0, d2 := 0, d3 := 0 }
                        coll := some { gid := 7, rank := 0, seq := 0, desc := [], table := [0, 3] } }
    let s : State := { linkReqs := [q, k], clock := 1700005, cmds := [e] }
    s.linkReqs = [] ++ q :: [k] ∧ s.linkReqs = [q] ++ k :: [] ∧ s.linkUp = false ∧ q.dead = false ∧ k.dead = false ∧
    s.usClocks 1000 = s.clock - max q.since s.linkDownAt ∧ q.store = true ∧ k.store = false ∧ k.id ≠ q.id ∧
    ({ e with coll := none } : EngCmd).unjoined = true ∧
    ({ e with coll := some { gid := 7, rank := 0, seq := 0, desc := [], table := [], tabled := false } } :
      EngCmd).waitsFar s.devNum = false ∧ (s.cmds.map (·.id)).Nodup ∧
    s.linkReqs.find? (fun q => q.id == e.id) = none ∧ s.eng? e.id = some e ∧ e.waitsFar s.devNum = true ∧
    s.usClocks 1000 ≤ s.clock - max e.since s.linkDownAt := by
  repeat' apply And.intro
  all_goals decide +kernel

/-- Stages whose signatures verify with the Sahnal key, which is open, pass at the fused version, and one whose signature
has not the right length fails; the ends of the other ranges. -/
theorem witness_LinkAndPower_boot (m g : List Byte) :
    let st := fun (i : Nat) => (⟨m, g, Config.fusedMin i⟩ : FwStage)
    (mlDsaVerify sahnalKey (sha3_512 m) g = true → ∀ i, i < 4 →
      stageOk i (((List.range 4).map st).getD i ⟨[], [], 0⟩) = true) ∧
    stageOk 3 ⟨m, [], Config.fusedMin 3⟩ = false ∧
    0 < 1 ∧ 1700000 ≤ 1700000 ∧ 412316860415 < 412316860416 ∧ (0 : BitVec 16) ^^^ flipSyn 31 1 ≠ 0 := by
  refine ⟨fun h i hi => ?_, ?_, by decide, by decide, by decide, by decide +kernel⟩
  · match i, hi with
    | 0, _ | 1, _ | 2, _ | 3, _ => simp [stageOk, stageSigned, h]
  · rw [stageOk, stageSigned, mlDsaVerify_length (by simp), Bool.false_and]

end Sys2Proof.Tests
end

/-!
SUPPORT. Scalar instructions (R134 to R138): the meanings compute on natural numbers below 2^n, the rules are written on
bit vectors of width n. Each operation of the table is compared once, at every width; `opr_eq_oprRule` then gives both
widths of every instruction.
-/

namespace Sys2Proof.Machine

-- Numbers and bit vectors.

theorem sint_toNat {n : Nat} (a : BitVec n) : sint n a.toNat = a.toInt := by
  simp only [sint, BitVec.toInt, Nat.mod_eq_of_lt a.isLt]

theorem ofNat_wrap (n : Nat) (z : Int) : BitVec.ofNat n (wrap n z) = BitVec.ofInt n z := by
  apply BitVec.eq_of_toNat_eq
  have hlt : wrap n z < 2 ^ n := by
    have hpos : (0 : Int) < (2 ^ n : Nat) := Int.natCast_pos.2 (Nat.two_pow_pos n)
    have hhigh := Int.emod_lt_of_pos z hpos
    have hlow := Int.emod_nonneg z (Int.ne_of_gt hpos)
    unfold wrap
    omega
  rw [BitVec.toNat_ofNat, BitVec.toNat_ofInt, Nat.mod_eq_of_lt hlt, wrap]

theorem nbit_toNat {n : Nat} (a : BitVec n) (i : Nat) : nbit a.toNat i = a.getLsbD i := by
  rw [← BitVec.testBit_toNat, Nat.testBit_eq_decide_div_mod_eq, nbit]

/-- `f`, on numbers below 2^n, is the operation `g` on bit vectors of every width. -/
def Computes (f : Nat → Nat → Nat → Nat) (g : (n : Nat) → BitVec n → BitVec n → BitVec n) : Prop :=
  ∀ n (a b : BitVec n), BitVec.ofNat n (f n a.toNat b.toNat) = g n a b

/-- An OPR operation gives the rule's result at both widths (R134). -/
theorem opr_eq_oprRule {f : Nat → Nat → Nat → Nat} {g : (n : Nat) → BitVec n → BitVec n → BitVec n}
    (h : Computes f g) (w : Bool) (a b : Word) : opr f w a b = oprRule g w a b := by
  cases w with
  | false =>
    have h64 := h 64 a b
    simpa [opr, narrow, opWidth, oprRule, Nat.mod_eq_of_lt a.isLt, Nat.mod_eq_of_lt b.isLt] using h64
  | true =>
    have h32 := h 32 (a.setWidth 32) (b.setWidth 32)
    simp only [BitVec.toNat_setWidth] at h32
    simp only [opr, narrow, opWidth, oprRule, if_true, h32]

-- The operations of R134.

theorem aluAdd_computes : Computes aluAdd fun _ a b => a + b := fun _ a b => by
  simp [aluAdd, BitVec.ofNat_add]

theorem aluSub_computes : Computes aluSub fun _ a b => a - b := fun n a b => by
  apply BitVec.eq_of_toNat_eq
  have := b.isLt
  rw [BitVec.toNat_ofNat, BitVec.toNat_sub, aluSub]
  congr 1
  omega

theorem aluAnd_computes : Computes aluAnd fun _ a b => a &&& b := fun _ a b => by
  simp [aluAnd, BitVec.ofNat_and]

theorem aluOr_computes : Computes aluOr fun _ a b => a ||| b := fun _ a b => by
  simp [aluOr, BitVec.ofNat_or]

theorem aluXor_computes : Computes aluXor fun _ a b => a ^^^ b := fun _ a b => by
  simp [aluXor, BitVec.ofNat_xor]

theorem aluSll_computes : Computes aluSll fun n a b => a <<< (b.toNat % n) := fun n a b => by
  apply BitVec.eq_of_toNat_eq
  rw [BitVec.toNat_ofNat, BitVec.toNat_shiftLeft, aluSll, Nat.shiftLeft_eq]

theorem aluSrl_computes : Computes aluSrl fun n a b => a >>> (b.toNat % n) := fun n a b => by
  rw [aluSrl, ← Nat.shiftRight_eq_div_pow, ← BitVec.toNat_ushiftRight, BitVec.ofNat_toNat, BitVec.setWidth_eq]

theorem aluSra_computes : Computes aluSra fun n a b => a.sshiftRight (b.toNat % n) := fun n a b => by
  rw [aluSra, ofNat_wrap, sint_toNat, ← Int.shiftRight_eq_div_pow]
  exact BitVec.sshiftRight_eq.symm

/-- The part of a rotation that comes round fits below the part that moves up, so their sum is their OR. -/
theorem aluRotl_computes : Computes aluRotl fun n a b => a.rotateLeft (b.toNat % n) := fun n a b => by
  have hk : b.toNat % n ≤ n := by
    obtain rfl | hn := Nat.eq_zero_or_pos n
    · simp [BitVec.of_length_zero]
    · exact Nat.le_of_lt (Nat.mod_lt _ hn)
  have hlow : a.toNat >>> (n - b.toNat % n) < 2 ^ (b.toNat % n) := by
    rw [Nat.shiftRight_eq_div_pow]
    apply Nat.div_lt_of_lt_mul
    rw [← Nat.pow_add, Nat.sub_add_cancel hk]
    exact a.isLt
  rw [aluRotl, ← Nat.shiftRight_eq_div_pow, ← Nat.shiftLeft_eq, Nat.shiftLeft_add_eq_or_of_lt hlow]
  apply BitVec.eq_of_toNat_eq
  dsimp only
  rw [BitVec.rotateLeft_mod_eq_rotateLeft, BitVec.toNat_rotateLeft, BitVec.toNat_ofNat, Nat.or_mod_two_pow,
    Nat.mod_eq_of_lt (a := _ >>> _) (Nat.lt_of_lt_of_le hlow (Nat.pow_le_pow_right (by decide) hk))]

theorem aluSlt_computes : Computes aluSlt fun _ a b => if a.slt b then 1 else 0 := fun n a b => by
  simp only [aluSlt, sint_toNat, BitVec.slt_iff_toInt_lt]
  split <;> rfl

theorem aluSltu_computes : Computes aluSltu fun _ a b => if a.ult b then 1 else 0 := fun n a b => by
  simp only [aluSltu, BitVec.ult_iff_toNat_lt]
  split <;> rfl

theorem aluMin_computes : Computes aluMin fun _ a b => if a.slt b then a else b := fun n a b => by
  simp only [aluMin, sint_toNat, BitVec.slt_iff_toInt_lt]
  split <;> simp

theorem aluMax_computes : Computes aluMax fun _ a b => if a.slt b then b else a := fun n a b => by
  simp only [aluMax, sint_toNat, BitVec.slt_iff_toInt_lt]
  split <;> simp

theorem aluMinu_computes : Computes aluMinu fun _ a b => if a.ult b then a else b := fun n a b => by
  simp only [aluMinu, BitVec.ult_iff_toNat_lt]
  split
  case isTrue h =>
    rw [show Nat.min _ _ = _ from Nat.min_eq_left (Nat.le_of_lt h)]
    simp
  case isFalse h =>
    rw [show Nat.min _ _ = _ from Nat.min_eq_right (Nat.le_of_not_lt h)]
    simp

theorem aluMaxu_computes : Computes aluMaxu fun _ a b => if a.ult b then b else a := fun n a b => by
  simp only [aluMaxu, BitVec.ult_iff_toNat_lt]
  split
  case isTrue h =>
    rw [show Nat.max _ _ = _ from Nat.max_eq_right (Nat.le_of_lt h)]
    simp
  case isFalse h =>
    rw [show Nat.max _ _ = _ from Nat.max_eq_left (Nat.le_of_not_lt h)]
    simp

theorem aluMul_computes : Computes aluMul fun _ a b => a * b := fun _ a b => by
  simp [aluMul, BitVec.ofNat_mul]

theorem aluMulh_computes :
    Computes aluMulh fun n a b => BitVec.ofInt n (a.toInt * b.toInt / (2 ^ n : Nat)) := fun n a b => by
  rw [aluMulh, ofNat_wrap, sint_toNat, sint_toNat]

theorem aluMulhu_computes :
    Computes aluMulhu fun n a b => BitVec.ofNat n (a.toNat * b.toNat / 2 ^ n) := fun _ _ _ => rfl

theorem toNat_eq_zero_iff {n : Nat} (b : BitVec n) : b.toNat = 0 ↔ b = 0 := by
  rw [BitVec.toNat_eq]
  rfl

theorem ofNat_two_pow_sub_one (n : Nat) : BitVec.ofNat n (2 ^ n - 1) = BitVec.allOnes n :=
  BitVec.eq_of_toNat_eq (by simp)

theorem aluDiv_computes :
    Computes aluDiv fun n a b => if b = 0 then BitVec.allOnes n else a.sdiv b := fun n a b => by
  simp only [aluDiv, toNat_eq_zero_iff]
  split
  · exact ofNat_two_pow_sub_one n
  · rw [ofNat_wrap, sint_toNat, sint_toNat]
    apply BitVec.eq_of_toInt_eq
    rw [BitVec.toInt_sdiv, BitVec.toInt_ofInt]

theorem aluDivu_computes :
    Computes aluDivu fun n a b => if b = 0 then BitVec.allOnes n else a.udiv b := fun n a b => by
  simp only [aluDivu, toNat_eq_zero_iff]
  split
  · exact ofNat_two_pow_sub_one n
  · rw [← BitVec.toNat_udiv, BitVec.ofNat_toNat, BitVec.setWidth_eq]
    rfl

theorem aluRem_computes : Computes aluRem fun _ a b => if b = 0 then a else a.srem b := fun n a b => by
  simp only [aluRem, toNat_eq_zero_iff]
  split
  · simp
  · rw [ofNat_wrap, sint_toNat, sint_toNat, ← BitVec.toInt_srem, BitVec.ofInt_toInt]

theorem aluRemu_computes : Computes aluRemu fun _ a b => if b = 0 then a else a.umod b := fun n a b => by
  simp only [aluRemu, toNat_eq_zero_iff]
  split
  · simp
  · rw [← BitVec.toNat_umod, BitVec.ofNat_toNat, BitVec.setWidth_eq]
    rfl

-- Counting bits (R134).

/-- The length of the run at the head of a range that ends at `k`. -/
theorem length_takeWhile_range {p : Nat → Bool} {n k : Nat} (hk : k ≤ n) (hp : ∀ i < k, p i = true)
    (hn : k < n → p k = false) : ((List.range n).takeWhile p).length = k := by
  have hfind : (List.range n).findIdx (fun i => !p i) = k := by
    obtain rfl | hlt := Nat.eq_or_lt_of_le hk
    · have hnone : (List.range k).findIdx (fun i => !p i) = (List.range k).length :=
        List.findIdx_eq_length.2 fun i hi => by simp [hp i (List.mem_range.1 hi)]
      rw [hnone, List.length_range]
    · rw [List.findIdx_eq (by simpa using hlt)]
      simpa [hn hlt] using hp
  rw [List.takeWhile_eq_take_findIdx_not, List.length_take, List.length_range, hfind, Nat.min_eq_left hk]

theorem aluClz_eq {n : Nat} (a : BitVec n) (b : Nat) : aluClz n a.toNat b = leadingZeros n a := by
  symm
  unfold aluClz
  split
  case isTrue h =>
    rw [toNat_eq_zero_iff] at h
    exact length_takeWhile_range (Nat.le_refl n) (by simp [h]) (by omega)
  case isFalse h =>
    have hlog : a.toNat.log2 < n := (Nat.log2_lt h).2 a.isLt
    refine length_takeWhile_range (by omega) (fun i hi => ?_) fun _ => ?_
    · have hhigh : a.toNat < 2 ^ (n - 1 - i) := (Nat.log2_lt h).1 (by omega)
      simp [← BitVec.testBit_toNat, Nat.testBit_lt_two_pow hhigh]
    · rw [show n - 1 - (n - 1 - a.toNat.log2) = a.toNat.log2 by omega, ← BitVec.testBit_toNat, Nat.testBit_log2 h]
      rfl

theorem aluCtz_eq {n : Nat} (a : BitVec n) (b : Nat) : aluCtz n a.toNat b = trailingZeros n a := by
  symm
  simp only [aluCtz, nbit_toNat]
  cases hf : (List.range n).find? fun i => a.getLsbD i with
  | none =>
    rw [List.find?_range_eq_none] at hf
    exact length_takeWhile_range (Nat.le_refl n) hf (by simp)
  | some k =>
    obtain ⟨hk, hlt, hlow⟩ := List.find?_range_eq_some.1 hf
    exact length_takeWhile_range (Nat.le_of_lt (List.mem_range.1 hlt)) hlow (by simp [hk])

theorem aluPopc_eq {n : Nat} (a : BitVec n) (b : Nat) : aluPopc n a.toNat b = onesCount n a := by
  simp only [aluPopc, nbit_toNat, onesCount]

theorem leadingZeros_le (n : Nat) (a : BitVec n) : leadingZeros n a ≤ n := by
  simpa [leadingZeros] using (List.takeWhile_sublist _ (l := List.range n)).length_le
theorem trailingZeros_le (n : Nat) (a : BitVec n) : trailingZeros n a ≤ n := by
  simpa [trailingZeros] using (List.takeWhile_sublist _ (l := List.range n)).length_le
theorem onesCount_le (n : Nat) (a : BitVec n) : onesCount n a ≤ n := by
  simpa [onesCount] using (List.filter_sublist (l := List.range n)).length_le

/-- A count of bits is small enough to need no sign extension at either width (R134). -/
theorem opr_count {f : Nat → Nat → Nat → Nat} {g : (n : Nat) → BitVec n → Nat}
    (h : ∀ {n : Nat} (a : BitVec n) (b : Nat), f n a.toNat b = g n a) (hg : ∀ n a, g n a ≤ n) (w : Bool) (a : Word) :
    opr f w a 0 = w64 (if w then g 32 (a.setWidth 32) else g 64 a) := by
  cases w with
  | false =>
    simp [opr, narrow, opWidth, Nat.mod_eq_of_lt a.isLt, h]
  | true =>
    have hle := hg 32 (a.setWidth 32)
    have hmsb : (BitVec.ofNat 32 (g 32 (a.setWidth 32))).msb = false := by
      rw [BitVec.msb_eq_false_iff_two_mul_lt, BitVec.toNat_ofNat]
      omega
    rw [opr, narrow, opWidth, if_pos rfl, if_pos rfl, if_pos rfl, ← BitVec.toNat_setWidth, h,
      BitVec.signExtend_eq_setWidth_of_msb_false hmsb]
    apply BitVec.eq_of_toNat_eq
    simp only [BitVec.toNat_setWidth, BitVec.toNat_ofNat]
    omega

-- What the shared meanings complete with.

section
variable {s : State} {x : Issuer} {i : Instr} {rd ra rb : R5}

theorem State.completes_opr {f : Nat → Nat → Nat → Nat} {g : (n : Nat) → BitVec n → BitVec n → BitVec n} {w : Bool}
    (h : exec i s = s.scalar2 rd ra rb (opr f w)) (hf : Computes f g) :
    s.Completes x (fSSS rd ra rb) i fun v t => .ofS (oprRule g w (v t).sa (v t).sb) := by
  simp only [← opr_eq_oprRule hf]
  exact completes_of_lanewise _ h

/-- The meaning tests the divisor's number at the operation width, the rule its bit vector (R135). -/
theorem divisor_eq_zero (w : Bool) (b : Word) :
    decide (b.toNat % 2 ^ opWidth w = 0) = if w then decide (b.setWidth 32 = 0#32) else decide (b = 0) := by
  cases w with
  | false => simp [opWidth, Nat.mod_eq_of_lt b.isLt, toNat_eq_zero_iff]
  | true =>
    simp only [opWidth, if_true, ← BitVec.toNat_setWidth, toNat_eq_zero_iff]
    rfl

/-- An instruction that counts bits (R134). -/
theorem State.completes_count {f : Nat → Nat → Nat → Nat} {g : (n : Nat) → BitVec n → Nat} {w : Bool}
    (h : exec i s = s.scalar1 rd ra fun a => opr f w a 0)
    (hf : ∀ {n : Nat} (a : BitVec n) (b : Nat), f n a.toNat b = g n a) (hg : ∀ n a, g n a ≤ n) :
    s.Completes x (fSS rd ra) i fun v t =>
      .ofS (w64 (if w then g 32 ((v t).sa.setWidth 32) else g 64 (v t).sa)) := by
  simp only [← opr_count hf hg]
  exact completes_of_lanewise _ h

theorem State.completes_division {f : Nat → Nat → Nat → Nat} {g : (n : Nat) → BitVec n → BitVec n → BitVec n} {w : Bool}
    (h : exec i s = s.division w rd ra rb f) (hf : Computes f g) :
    s.Completes x (fSSS rd ra rb) i fun v t =>
      { LaneOut.ofS (oprRule g w (v t).sa (v t).sb) with
        dz := if w then (v t).sb.setWidth 32 = 0#32 else (v t).sb = 0 } := by
  simp only [← opr_eq_oprRule hf, ← divisor_eq_zero]
  exact completes_of_lanewise _ h

/-- The result of an instruction without register sources may depend on the unit that issues it. -/
theorem State.completes_scalar0 {g : Issuer → Nat → Word} (h : exec i s = s.scalar0 rd g) :
    s.Completes x { dst := some (.s rd) } i fun _ t => .ofS (g x t) := by
  intro hi hr ht
  rw [h, scalar0, onUnit_of_issues hi, lanewise_of_ready _ hr fun t hm => laneTrap_ok (ht t hm)]
  rfl

end

/-- Settles O4: each meaning is one of the shared ones over an operation that computes the rule's. -/
theorem scalarArithmetic : Obligations.ScalarArithmetic := by
  refine ⟨fun s x w rd ra rb => ⟨?_, ?_, ?_, ?_, ?_, ?_, ?_, ?_, ?_, ?_, ?_, ?_, ?_, ?_, ?_, ?_, ?_, ?_⟩,
    fun s x w rd ra => ⟨?_, ?_, ?_⟩, fun s x w rd ra rb => ⟨?_, ?_, ?_, ?_⟩⟩
  · exact State.completes_opr rfl aluAdd_computes
  · exact State.completes_opr rfl aluSub_computes
  · exact State.completes_opr rfl aluAnd_computes
  · exact State.completes_opr rfl aluOr_computes
  · exact State.completes_opr rfl aluXor_computes
  · exact State.completes_opr rfl aluSll_computes
  · exact State.completes_opr rfl aluSrl_computes
  · exact State.completes_opr rfl aluSra_computes
  · exact State.completes_opr rfl aluRotl_computes
  · exact State.completes_opr rfl aluSlt_computes
  · exact State.completes_opr rfl aluSltu_computes
  · exact State.completes_opr rfl aluMin_computes
  · exact State.completes_opr rfl aluMax_computes
  · exact State.completes_opr rfl aluMinu_computes
  · exact State.completes_opr rfl aluMaxu_computes
  · exact State.completes_opr rfl aluMul_computes
  · exact State.completes_opr rfl aluMulh_computes
  · exact State.completes_opr rfl aluMulhu_computes
  · exact State.completes_count rfl aluClz_eq leadingZeros_le
  · exact State.completes_count rfl aluCtz_eq trailingZeros_le
  · exact State.completes_count rfl aluPopc_eq onesCount_le
  · exact State.completes_division rfl aluDiv_computes
  · exact State.completes_division rfl aluDivu_computes
  · exact State.completes_division rfl aluRem_computes
  · exact State.completes_division rfl aluRemu_computes

-- Immediates (R136 to R138).

/-- A shift by the count of the word is the shift of R134 with that count as its second operand (R137). -/
theorem opr_shift_count {f : Nat → Nat → Nat → Nat} {g : (n : Nat) → BitVec n → Nat → BitVec n}
    (h : Computes f fun n a b => g n a (b.toNat % n)) (w : Bool) (a : Word) (c : BitVec 6) :
    opr f w a (c.setWidth 64) = oprRule (fun n a _ => g n a (c.toNat % n)) w a 0 := by
  have hc := c.isLt
  have h64 : c.toNat % 2 ^ 64 = c.toNat := by omega
  have h32 : c.toNat % 2 ^ 32 = c.toNat := by omega
  simp only [opr_eq_oprRule h, oprRule, BitVec.toNat_setWidth, h64, h32]

/-- SLLI, SRLI and SRAI (R137). -/
theorem State.completes_shift_count {s : State} {x : Issuer} {i : Instr} {rd ra : R5} {w : Bool} {c : BitVec 6}
    {f : Nat → Nat → Nat → Nat} (g : (n : Nat) → BitVec n → Nat → BitVec n)
    (h : exec i s = s.scalar1 rd ra fun a => opr f w a (c.setWidth 64))
    (hf : Computes f fun n a b => g n a (b.toNat % n)) :
    s.Completes x (fSS rd ra) i fun v t => .ofS (oprRule (fun n a _ => g n a (c.toNat % n)) w (v t).sa 0) := by
  simp only [← opr_shift_count hf]
  exact completes_of_lanewise _ h

/-- The upper half of the low word, sign-extended: the shift moves nothing past what the extension fills (R138). -/
theorem upper_eq (imm : BitVec 16) : upper imm = (imm ++ 0#16).signExtend 64 := by
  ext i hi
  simp only [upper, BitVec.getElem_shiftLeft, BitVec.getElem_signExtend, BitVec.getElem_append, BitVec.msb_append]
  by_cases h16 : i < 16
  · simp [h16, show i < 32 by omega]
  · by_cases h32 : i < 32
    · simp [h16, h32, show i - 16 < 16 by omega]
    · simp [h16, h32, show ¬ i - 16 < 16 by omega]

/-- Settles O5: every result is the rule's, or its shift or comparison written another way. -/
theorem scalarImmediate : Obligations.ScalarImmediate := by
  intro s x w rd ra imm c
  refine ⟨?_, ?_, ?_, ?_, ?_, ?_, ?_, ?_, ?_, ?_, ?_⟩
  · exact State.completes_of_lanewise _ rfl
  · exact State.completes_of_lanewise _ rfl
  · exact State.completes_of_lanewise _ rfl
  · exact State.completes_of_lanewise _ rfl
  · simp only [BitVec.slt_iff_toInt_lt, BitVec.toInt_signExtend_of_le (show 16 ≤ 64 by decide)]
    exact State.completes_of_lanewise _ rfl
  · simp only [BitVec.ult_iff_lt]
    exact State.completes_of_lanewise _ rfl
  · exact State.completes_shift_count (fun _ a k => a <<< k) rfl aluSll_computes
  · exact State.completes_shift_count (fun _ a k => a >>> k) rfl aluSrl_computes
  · exact State.completes_shift_count (fun _ a k => a.sshiftRight k) rfl aluSra_computes
  · rw [← upper_eq]
    exact State.completes_of_lanewise _ rfl
  · rw [← upper_eq]
    exact State.completes_scalar0 (g := fun x _ => x.pc + upper imm) rfl

end Sys2Proof.Machine

/-!
SUPPORT. Control transfer (R43, R46, R139 to R142): the unit that issues and its group after a change of it, the outcomes
of a branch, and the lanes of a jump that trap.
-/

namespace Sys2Proof.Machine

-- The unit that issues, and its group.

@[simp] theorem Workgroup.issuer_w (w : Workgroup) (t : Nat) : (w.issuer t).w = w := by
  unfold issuer; split <;> rfl
@[simp] theorem Workgroup.issuer_id_wg (w : Workgroup) (t : Nat) : (w.issuer t).id.wg = w.id := by
  unfold issuer; split <;> rfl
@[simp] theorem Workgroup.issuer_grp (w : Workgroup) (t : Nat) : (w.issuer t).grp = w.groupOf t := by
  unfold issuer; split <;> simp [*]

/-- A unit that issues is what its workgroup, which stands, says that it is. -/
theorem State.Issues.eq_issuer {s : State} {x : Issuer} (h : s.Issues x) :
    s.wg? x.id.wg = some x.w ∧ x.w.issuer x.id.t = x := by
  obtain ⟨hcur, hiss⟩ := h
  simp only [State.issuer?, hcur] at hiss
  split at hiss
  case h_1 => cases hiss
  case h_2 w hw =>
    split at hiss
    case isFalse => cases hiss
    case isTrue =>
      have hx : w.issuer x.id.t = x := Option.some.inj hiss
      have hxw : x.w = w := by rw [← hx, Workgroup.issuer_w]
      exact ⟨hxw ▸ hw, hxw ▸ hx⟩

theorem State.Issues.groupOf {s : State} {x : Issuer} (h : s.Issues x) : x.w.groupOf x.id.t = x.grp := by
  rw [← Workgroup.issuer_grp, h.eq_issuer.2]

/-- A group that issues is named by its lowest thread (R22). -/
theorem State.Issues.t0 {s : State} {x : Issuer} {g : Group} (h : s.Issues x) (hg : x.grp = some g) :
    x.id.t = g.t0 := by
  have hx := h.eq_issuer.2
  rw [Workgroup.issuer, h.groupOf.trans hg] at hx
  exact (congrArg (fun y : Issuer => y.id.t) hx).symm

/-- The group of a thread after a change of it that keeps its span. -/
theorem Workgroup.groupOf_modGroup {w : Workgroup} {t : Nat} {g : Group} (h : w.groupOf t = some g) (f : Group → Group)
    (hf : ∀ k, (f k).spans t = k.spans t) : (w.modGroup g.t0 f).groupOf t = some (f g) := by
  have hp : ((fun k : Group => k.spans t) ∘ fun k => if k.t0 = g.t0 then f k else k) = fun k => k.spans t := by
    funext k
    simp only [Function.comp]
    split <;> simp [hf]
  have hmap : (w.modGroup g.t0 f).groupOf t = (w.groupOf t).map fun k => if k.t0 = g.t0 then f k else k := by
    simp only [groupOf, modGroup, List.find?_map, hp]
  simp [hmap, h]

@[simp] theorem Workgroup.modUnit_id (w : Workgroup) (t : Nat) (f : UState → UState) : (w.modUnit t f).id = w.id := by
  unfold modUnit; split <;> rfl

theorem Workgroup.groupOf_modUnit {w : Workgroup} {t : Nat} {g : Group} (h : w.groupOf t = some g)
    (f : UState → UState) : (w.modUnit t f).groupOf t = some { g with u := f g.u } := by
  rw [modUnit, h]
  exact groupOf_modGroup h (fun g => { g with u := f g.u }) fun _ => rfl

/-- A group that changes as it issues and goes on: it stands changed at the new address (R60). -/
theorem State.Issues.group_after {s : State} {x : Issuer} {g : Group} (h : s.Issues x) (hg : x.grp = some g)
    (f : Group → Group) (hf : ∀ k, (f k).spans x.id.t = k.spans x.id.t) (pc : Word) :
    ∃ w k, ((s.modG x f).setPc x pc).wg? x.id.wg = some w ∧ w.groupOf x.id.t = some k ∧
      k.stack = (f g).stack ∧ k.active = (f g).active ∧ k.live = (f g).live ∧ k.u.pc = pc := by
  have hw : (s.modG x f).wg? x.id.wg = some (x.w.modGroup x.id.t f) :=
    wg?_modWg_self s (fun w => w.modGroup x.id.t f) (fun _ => rfl) h.eq_issuer.1
  have hk : (x.w.modGroup x.id.t f).groupOf x.id.t = some (f g) := by
    have := Workgroup.groupOf_modGroup (h.groupOf.trans hg) f hf
    rwa [← h.t0 hg] at this
  exact ⟨_, _, wg?_modWg_self _ _ (fun _ => Workgroup.modUnit_id _ _ _) hw, Workgroup.groupOf_modUnit hk _,
    rfl, rfl, rfl, rfl⟩

-- Branches (R43, R46, R139).

theorem relTarget_eq {n : Nat} (pc : Word) (off : BitVec n) : relTarget pc off = pc + 4 * off.signExtend 64 := by
  rw [relTarget, BitVec.shiftLeft_eq_mul_twoPow, BitVec.mul_comm]
  rfl

/-- Outside a transaction a group that cannot go on as one splits (R46). -/
theorem State.autoSplit_group {s : State} {x : Issuer} {g : Group} (hg : x.grp = some g) (htx : x.u.tx = none)
    (pcs : Nat → Word) : s.autoSplit x pcs = s.splitGroup x.id.wg g pcs (bottomJoin g.stack) := by
  simp [autoSplit, hg, htx]

/-- The group keeps the lanes `m` that take a branch in a PATH entry with its target, and goes on without them (R43). -/
def Group.pushPath (g : Group) (target : Word) (m : Mask) : Group :=
  { g with stack := ⟨false, target, m⟩ :: g.stack, active := g.active &&& ~~~m }

/-- The group keeps its active mask in a JOIN entry with a reconvergence point (R43, R142). -/
def Group.pushJoin (g : Group) (pc : Word) : Group := { g with stack := ⟨true, pc, g.active⟩ :: g.stack }

section
variable {s : State} {x : Issuer} {target : Word} {taken : List Nat}

theorem State.branch_all (h : taken.length = x.active.length) : s.branch x target taken = s.setPc x target := by
  rw [branch, if_pos h]

theorem State.branch_none (h : x.active ≠ []) (ht : taken = []) : s.branch x target taken = s.setPc x (x.pc + 4) := by
  have hlen : taken.length ≠ x.active.length := by
    simpa [ht, eq_comm] using h
  rw [branch, if_neg hlen, ht]
  rfl

variable {g : Group} (hg : x.grp = some g) (hsome : taken ≠ []) (hall : taken.length ≠ x.active.length)
include hg hsome hall

/-- With a JOIN on the stack and an entry free, the lanes that take the branch wait in a PATH entry (R43). -/
theorem State.branch_push (hjoin : g.stack.any (·.join) = true) (hfree : g.stack.length < 8) :
    s.branch x target taken =
      (s.modG x fun k => k.pushPath target (g.maskOfThreads taken)).setPc x (x.pc + 4) := by
  simp [branch, hg, hsome, hall, hjoin, hfree, retire, Group.pushPath]

/-- With no JOIN or no entry free the group splits (R46). -/
theorem State.branch_split (hfull : g.stack.any (·.join) = false ∨ 8 ≤ g.stack.length) (htx : x.u.tx = none) :
    s.branch x target taken = s.splitGroup x.id.wg g (fun t => if taken.contains t then target else x.pc + 4)
      (bottomJoin g.stack) := by
  have hno : (g.stack.any (·.join) && decide (g.stack.length < 8)) = false := by
    obtain hjoin | hlen := hfull
    · rw [hjoin, Bool.false_and]
    · rw [decide_eq_false (by omega), Bool.and_false]
  rw [← autoSplit_group hg htx]
  simp only [branch, hg, if_neg hall, List.isEmpty_iff, if_neg hsome, hno]
  rfl

end

/-- A conditional branch with its operands ready branches with the lanes in which its comparison holds (R139). -/
theorem State.exec_condBranch {s : State} {x : Issuer} {ra rb : R5} {off : BitVec 13} {i : Instr}
    {c : Word → Word → Bool} (hi : s.Issues x) (hr : s.OperandsReady x { a := some (.s ra), b := some (.s rb) })
    (h : exec i s = s.condBranch ra rb off c) (c' : Word → Word → Bool) (hc : ∀ a b, c a b = c' a b) :
    let v := fun t => (x.w.thr t).vals { a := some (.s ra), b := some (.s rb) }
    exec i s = .next ((s.popAll x { a := some (.s ra), b := some (.s rb) }).branch x
      (x.pc + 4 * off.signExtend 64) (x.active.filter fun t => c' (v t).sa (v t).sb)) := by
  obtain rfl : c = c' := funext fun a => funext (hc a)
  rw [h, condBranch, onUnit_of_issues hi]
  simp [gate_of_ready hr, relTarget_eq]

-- JPT (R142).

section
variable {s : State} {x : Issuer} {off : BitVec 26}

theorem State.execJpt_split (hi : s.Issues x) (hg : x.grp = none) : execJpt off s = .next (s.setPc x (x.pc + 4)) := by
  rw [execJpt, onUnit_of_issues hi, hg]
  rfl

variable {g : Group} (hi : s.Issues x) (hg : x.grp = some g)
include hi hg

theorem State.execJpt_push (hfree : g.stack.length < 8) :
    execJpt off s =
      .next ((s.modG x fun k => k.pushJoin (x.pc + 4 * off.signExtend 64)).setPc x (x.pc + 4)) := by
  rw [execJpt, onUnit_of_issues hi, hg]
  simp [hfree, relTarget_eq, retire, Group.pushJoin]

theorem State.execJpt_full (hfull : 8 ≤ g.stack.length) (htx : x.u.tx = none) :
    execJpt off s = .next (s.splitGroup x.id.wg g (fun _ => x.pc + 4) (bottomJoin g.stack)) := by
  rw [execJpt, onUnit_of_issues hi, hg]
  simp [show ¬ g.stack.length < 8 by omega, autoSplit_group hg htx]

end

/-- Settles O14: each clause is one outcome of the branch rule or of JPT. -/
theorem branches : Obligations.Branches := by
  refine ⟨fun s x ra rb off hi hr => ?_, fun s x target taken hi hne => ?_, fun s x off hi => ?_⟩
  · refine ⟨?_, ?_, ?_, ?_, ?_, ?_⟩
    · exact State.exec_condBranch hi hr rfl (fun a b => a = b) fun _ _ => rfl
    · exact State.exec_condBranch hi hr rfl (fun a b => a ≠ b) fun _ _ => rfl
    · exact State.exec_condBranch hi hr rfl (fun a b => a.slt b) fun _ _ => BitVec.slt_eq_decide.symm
    · exact State.exec_condBranch hi hr rfl (fun a b => b.sle a) fun _ _ => BitVec.sle_eq_decide.symm
    · exact State.exec_condBranch hi hr rfl (fun a b => a.ult b) fun _ _ => BitVec.ult_eq_decide_lt.symm
    · exact State.exec_condBranch hi hr rfl (fun a b => b.ule a) fun _ _ => BitVec.ule_eq_decide_le.symm
  · refine ⟨State.branch_all, State.branch_none hne, fun g hg hsome hall => ⟨fun hjoin hfree => ?_, ?_⟩⟩
    · rw [State.branch_push hg hsome hall hjoin hfree]
      exact hi.group_after hg (·.pushPath target (g.maskOfThreads taken)) (fun _ => rfl) _
    · exact State.branch_split hg hsome hall
  · refine ⟨State.execJpt_split hi, fun g hg hfree => ?_, fun g hg => State.execJpt_full hi hg⟩
    obtain ⟨w, k, hw, hk, hstack, hactive, hlive, hpc⟩ := hi.group_after hg
      (·.pushJoin (x.pc + 4 * off.signExtend 64)) (fun _ => rfl) (x.pc + 4)
    exact ⟨_, w, k, State.execJpt_push hi hg hfree, hw, hk, hstack, hactive, hlive, hpc, rfl⟩

-- JAL and JALR (R140, R141).

/-- With the operands ready, the sources of every active lane can be read. -/
theorem Issuer.readable_of_ready {s : State} {x : Issuer} {f : Fields} (h : s.OperandsReady x f) :
    x.readable f = x.active := by
  obtain ⟨-, -, hports⟩ := h
  refine List.filter_eq_self.2 fun t ht => ?_
  have hready := (hports t ht).2
  rw [Thread.portsReady, Bool.and_eq_true] at hready
  exact hready.1

theorem filterMap_eq_of_mem {α β : Type} {f g : α → Option β} : {l : List α} → (∀ a ∈ l, f a = g a) →
    l.filterMap f = l.filterMap g
  | [], _ => rfl
  | a :: l, h => by
    rw [List.filterMap_cons, List.filterMap_cons, h a List.mem_cons_self,
      filterMap_eq_of_mem fun b hb => h b (List.mem_cons_of_mem a hb)]

/-- The traps of lanes whose ports do not trap are their own (R377). -/
theorem mergeTraps_own (lanes : List Nat) {own : Nat → Option LaneTrap} (h : ∀ t l, own t = some l → l.1 = t) :
    mergeTraps lanes [] (lanes.filterMap own) = lanes.filterMap own := by
  refine filterMap_eq_of_mem fun t ht => ?_
  have hfind : (lanes.filterMap own).find? (fun l => l.1 == t) = own t := by
    rw [List.find?_filterMap]
    cases hf : lanes.find? fun u => (own u).any fun l => l.1 == t with
    | some u =>
      have hu := List.find?_some hf
      simp only [Option.any_eq_true, beq_iff_eq] at hu
      obtain ⟨l, hl, hlt⟩ := hu
      rw [← hlt, h u l hl]
      rfl
    | none =>
      have hnone := List.find?_eq_none.1 hf t ht
      cases ht' : own t with
      | none => rfl
      | some l => simp [ht', h t l ht'] at hnone
  rw [hfind]
  cases own t <;> rfl

theorem State.execJal_of_ready {s : State} {x : Issuer} {rd : R5} {off : BitVec 21} (hi : s.Issues x)
    (hr : s.OperandsReady x { dst := some (.s rd) }) :
    execJal rd off s = .next ((s.commit x { dst := some (.s rd) } fun _ => .ofS (x.pc + 4)).setPc x
      (x.pc + 4 * off.signExtend 64)) := by
  rw [execJal, onUnit_of_issues hi]
  simp [gate_of_ready hr, relTarget_eq]

/-- The target of a JALR in a lane (R141). -/
def Issuer.jalrTarget (x : Issuer) (rd ra : R5) (imm : BitVec 16) (t : Nat) : Word :=
  ((x.w.thr t).vals (fSS rd ra)).sa + imm.signExtend 64

/-- The trap 0x04 of a lane whose target is misaligned (R141, R376). -/
def Issuer.jalrTrap (x : Issuer) (rd ra : R5) (imm : BitVec 16) (t : Nat) : Option LaneTrap :=
  if (x.jalrTarget rd ra imm t).toNat % 4 = 0 then none else some (t, 4, x.jalrTarget rd ra imm t)

theorem Issuer.jalrTrap_lane {x : Issuer} {rd ra : R5} {imm : BitVec 16} (t : Nat) (l : LaneTrap)
    (h : x.jalrTrap rd ra imm t = some l) : l.1 = t := by
  unfold jalrTrap at h
  split at h
  · cases h
  · cases h
    rfl

theorem Issuer.filterMap_jalrTrap (x : Issuer) (rd ra : R5) (imm : BitVec 16) :
    x.active.filterMap (x.jalrTrap rd ra imm) =
      (x.active.filter fun t => (x.jalrTarget rd ra imm t).toNat % 4 ≠ 0).map fun t =>
        (t, 4, x.jalrTarget rd ra imm t) := by
  rw [← List.filterMap_eq_map, List.filterMap_filter]
  refine filterMap_eq_of_mem fun t _ => ?_
  by_cases h : (x.jalrTarget rd ra imm t).toNat % 4 = 0 <;> simp [jalrTrap, h]

theorem Issuer.filterMap_jalrTrap_aligned {x : Issuer} {rd ra : R5} {imm : BitVec 16}
    (hal : ∀ t ∈ x.active, (x.jalrTarget rd ra imm t).toNat % 4 = 0) :
    x.active.filterMap (x.jalrTrap rd ra imm) = [] :=
  List.filterMap_eq_nil_iff.2 fun t ht => if_pos (hal t ht)

section
variable {s : State} {x : Issuer} {rd ra : R5} {imm : BitVec 16} (hi : s.Issues x) (hr : s.OperandsReady x (fSS rd ra))
include hi hr

/-- With its operands ready a JALR traps in its lanes with a misaligned target, or completes where there is none (R141). -/
theorem State.execJalr_of_ready :
    execJalr rd ra imm s = .next
      (if (x.active.filterMap (x.jalrTrap rd ra imm)).isEmpty then
        let linked := s.commit x (fSS rd ra) fun _ => .ofS (x.pc + 4)
        if x.active.all fun t => x.jalrTarget rd ra imm t = x.jalrTarget rd ra imm x.lead then
          linked.setPc x (x.jalrTarget rd ra imm x.lead)
        else if x.u.tx.isSome then s.autoSplit x (x.jalrTarget rd ra imm)
        else linked.autoSplit x (x.jalrTarget rd ra imm)
      else s.trapLanes x true (x.active.filterMap (x.jalrTrap rd ra imm))) := by
  have hts : mergeTraps x.active [] ((x.readable (fSS rd ra)).filterMap (x.jalrTrap rd ra imm)) =
      x.active.filterMap (x.jalrTrap rd ra imm) := by
    rw [Issuer.readable_of_ready hr, mergeTraps_own _ Issuer.jalrTrap_lane]
  rw [← hts, execJalr, onUnit_of_issues hi]
  simp only [gate_of_ready hr]
  rfl

theorem State.execJalr_traps (h : ∃ t ∈ x.active, (x.jalrTarget rd ra imm t).toNat % 4 ≠ 0) :
    execJalr rd ra imm s = .next (s.trapLanes x true (x.active.filterMap (x.jalrTrap rd ra imm))) := by
  obtain ⟨t, ht, hmis⟩ := h
  have hne : (x.active.filterMap (x.jalrTrap rd ra imm)).isEmpty = false :=
    List.isEmpty_eq_false_iff_exists_mem.2 ⟨_, List.mem_filterMap.2 ⟨t, ht, if_neg hmis⟩⟩
  rw [execJalr_of_ready hi hr, hne]
  rfl

variable (hal : ∀ t ∈ x.active, (x.jalrTarget rd ra imm t).toNat % 4 = 0)
include hal

theorem State.execJalr_same (hsame : ∀ t ∈ x.active, x.jalrTarget rd ra imm t = x.jalrTarget rd ra imm x.lead) :
    execJalr rd ra imm s = .next ((s.commit x (fSS rd ra) fun _ => .ofS (x.pc + 4)).setPc x
      (x.jalrTarget rd ra imm x.lead)) := by
  have hall : (x.active.all fun t => x.jalrTarget rd ra imm t = x.jalrTarget rd ra imm x.lead) = true := by
    simpa using hsame
  rw [execJalr_of_ready hi hr, Issuer.filterMap_jalrTrap_aligned hal]
  simp only [hall, List.isEmpty_nil, if_true]

theorem State.execJalr_differ {g : Group} (hg : x.grp = some g) (htx : x.u.tx = none)
    (hdiff : ∃ t ∈ x.active, x.jalrTarget rd ra imm t ≠ x.jalrTarget rd ra imm x.lead) :
    execJalr rd ra imm s = .next ((s.commit x (fSS rd ra) fun _ => .ofS (x.pc + 4)).splitGroup x.id.wg g
      (x.jalrTarget rd ra imm) (bottomJoin g.stack)) := by
  have hall : (x.active.all fun t => x.jalrTarget rd ra imm t = x.jalrTarget rd ra imm x.lead) = false := by
    simpa using hdiff
  rw [execJalr_of_ready hi hr, Issuer.filterMap_jalrTrap_aligned hal, ← autoSplit_group hg htx]
  simp [hall, htx]

end

/-- Settles O15: JALR traps where a target is misaligned, and else completes with one target or with several. -/
theorem jumps : Obligations.Jumps := by
  refine ⟨fun s x rd ra off imm hi => ⟨fun hr => ?_, fun hr hal => ⟨fun hsame => ?_, fun g hg htx hdiff => ?_⟩⟩,
    fun s x rd ra imm hi hr hmis => ?_⟩
  · exact State.execJal_of_ready hi hr
  · exact State.execJalr_same hi hr hal hsame
  · exact State.execJalr_differ hi hr hal hg htx hdiff
  · exact (State.execJalr_traps hi hr hmis).trans (by rw [Issuer.filterMap_jalrTrap]; rfl)

end Sys2Proof.Machine
